-- ==== Sys2Proof/Word.lean ====
section
/-! DEFINITION. The word types of the T9 (spec/00_scope.md R1, R4; spec/01_machine.md R18). -/

namespace Sys2Proof

/-- A byte of memory (R1). -/
abbrev Byte := BitVec 8
/-- A 32-bit scalar register, lane value or scalar code word. -/
abbrev Word := BitVec 32
/-- A 64-bit value: an address, a CE command word, a QP register. -/
abbrev DWord := BitVec 64
/-- A 96-bit lane word (R40). -/
abbrev LaneWord := BitVec 96
/-- A mask over the 96 lanes of a group: lane l is bit l (R4). -/
abbrev LaneMask := BitVec 96
/-- One 32-bit value per lane: 96 entries, lane 0 first. -/
abbrev Row := List Word

/-- s0 to s63 (R38). -/
abbrev SReg := BitVec 6
/-- c0 to c31 (R38). -/
abbrev CReg := BitVec 5
/-- k0 to k15 (R38). -/
abbrev KReg := BitVec 4
/-- b0 to b7 (R38). -/
abbrev BRegIx := BitVec 3
/-- v0 to v255 (R41). -/
abbrev VReg := BitVec 8

/-- The lanes of a group (R4). -/
abbrev lanes : Nat := 96

end Sys2Proof
end

