-- ==== Sys2Proof/Syntax.lean ====
section
/-! DEFINITION. The instructions of the T9: one constructor for each row of spec/opcode_table.json
(scalar words, lane words, CE commands, queue records and the events that have no encoding). -/

namespace Sys2Proof

/-- Type codes of R46; `dflt` is code 0, the instruction's default type. -/
inductive Ty where
  | dflt | s8 | s16 | s32 | s64 | z8 | z16 | z32 | z64 | b32 | b64 | b128
  | f64 | f32 | f16 | bf16 | e4m3 | e5m2 | e3m2 | e2m3 | e2m1
  deriving DecidableEq, Repr, Inhabited

/-- Rounding codes of R46, R140. -/
inductive Rnd where
  | rne | rz | ru | rd | rna
  deriving DecidableEq, Repr, Inhabited

/-- Scope codes of R46: `dflt` keeps the translation entry's own scope. -/
inductive Scope where
  | dflt | core | die | chip | pod | sys
  deriving DecidableEq, Repr, Inhabited

/-- Atomicity codes of R46. -/
inductive Atom where
  | none | a8 | a16
  deriving DecidableEq, Repr, Inhabited

/-- A lane source (R41, R49). An unused source is `vreg 0 false false`, the all-zero field. -/
inductive Src where
  | vreg (n : BitVec 8) (last keep : Bool)
  | qreg (n : BitVec 10)
  | latch (n : BitVec 2) (last : Bool)
  | special (n : BitVec 8)
  deriving DecidableEq, Repr, Inhabited

/-- A lane destination (R43). An unused destination is `vreg 0`, the all-zero field. -/
inductive Dst where
  | vreg (n : BitVec 8)
  | qreg (n : BitVec 10)
  | kreg (n : BitVec 4)
  deriving DecidableEq, Repr, Inhabited

/-- The fields that every lane word outside the I-forms shares (R40). -/
structure LaneHdr where
  dst  : Dst
  lat  : Option (BitVec 2)
  nowb : Bool
  a : Src
  b : Src
  c : Src
  pred : KReg
  neg  : Bool
  deriving DecidableEq, Repr, Inhabited

/-- The fields of an I-form apart from immediate and modifiers (R44). -/
structure IHdr where
  dst  : Dst
  lat  : Option (BitVec 2)
  nowb : Bool
  a : Src
  deriving DecidableEq, Repr, Inhabited

/-- Arithmetic and conversion modifiers (R45); `x` is bits 12..7, defined with the instruction. -/
structure AMods where
  ty  : Ty
  rnd : Rnd
  ftz : Bool
  sat : Bool
  x : BitVec 6
  deriving DecidableEq, Repr, Inhabited

/-- Memory and atomic modifiers (R45); `x` is bits 12..7, defined with the instruction. -/
structure MMods where
  ty : Ty
  scope : Scope
  atom  : Atom
  x : BitVec 6
  deriving DecidableEq, Repr, Inhabited

/-- Word 0 of a CE command but for its op (R354). -/
structure CeFields where
  s : BitVec 4
  d : BitVec 4
  k : BitVec 4
  nb : Bool
  t : BitVec 2
  x : BitVec 3
  ix : Bool
  m : BitVec 7
  l : Word
  deriving DecidableEq, Repr, Inhabited

/-- The second and third words of a network command (R354). -/
structure NetWords where
  endpoint : BitVec 10
  region : BitVec 16
  localOff : Word
  remoteOff : DWord
  deriving DecidableEq, Repr, Inhabited

/-- A capability: 128 bits and the tag held out of band (R165). -/
structure Cap where
  bits : BitVec 128
  tag : Bool
  deriving DecidableEq, Repr, Inhabited

/-- The operations of ATOM, RED and ATOMS, bits 12..10 (R258). -/
inductive AtomOp where
  | add | min | max | and | or | xor | exch | cas
  deriving DecidableEq, Repr, Inhabited

/-- What a check request asks about (R217, R228): a read, a write, a fetch, a reduction, or the store of a tagged capability, with what R174 asks of
its value: whether it has GLOBAL, and whether it is a scratchpad capability. -/
inductive ChkKind where
  | read | write | fetch | atomic
  | storeCap (global sp : Bool)
  deriving DecidableEq, Repr, Inhabited

/-- What a request through the pod aperture asks of its home (R189, R193, R203, R215, R229, R260, R272). A fill names the bytes of its
line that the access wants, none for a prefetch. `joinCas` writes the join word of a continuation record that is still as read (R299).
`hold` takes the read hold of LDSUM on a sub-page (R272), and `replica` is a packet of a multicast (R273, R276). -/
inductive ApKind where
  | fetch
  | read (n : Nat)
  | write (data : List Byte)
  | capRead
  | capWrite (v : Cap)
  | check (k : ChkKind) (n : Nat)
  | atomic (op : AtomOp) (ty : Ty) (operand compare : DWord)
  | half (op : AtomOp) (ty : Ty) (operand : BitVec 16)
  | joinCas (record : List Cap) (v : BitVec 32)
  | fill (lo n : Nat)
  | hold
  | gather (win rank fmt : Nat) (gen : BitVec 16)
  | replica (grp : Nat) (gen : BitVec 16) (data : List Byte)
  | mark (clear dry : Bool) (pages : Nat)
  | query
  | discard (n : Nat)
  deriving DecidableEq, Repr, Inhabited

/-- Whether a request is an event of its own at its home: one that a second performance would repeat (R241). -/
def ApKind.isEvent : ApKind → Bool
  | .atomic _ _ _ _ | .half _ _ _ | .joinCas _ _ | .hold | .gather _ _ _ _ | .replica _ _ _ | .mark _ false _ | .discard _ | .write _
  | .capWrite _ => true
  | .fetch | .read _ | .capRead | .check _ _ | .fill _ _ | .query | .mark _ true _ => false

/-- A request that arrives at its home node (R176, R203, R441, R449). -/
structure ApReq where
  node : Nat
  incarn : Word
  dom : BitVec 16
  tag : BitVec 16
  pcid : BitVec 16
  off : Nat
  cap : Cap
  scope : Scope
  kind : ApKind
  die : Nat
  deriving DecidableEq, Repr, Inhabited

/-- The answer of a home, or of the fabric, to a request of this node (R203, R449). A CAPFAULT detail 3 names the missing permission
(R178); `uncached` tells that the page has UC = 1, so that nothing of it is kept (R222, R241; log 72). The data of an answer to a check
for a window is the version of its sub-page (R217, R248). -/
inductive ApAns where
  | data (bytes : List Byte) (tag : Bool)
  | done
  | uncached
  | fault (kind detail missing : Nat)
  deriving DecidableEq, Repr, Inhabited

/-- A contribution that reaches its combining point (R266 to R270, R276). With `folded` contributors, 1 or more, it is the node partial of
its rank, whose .bf16 slots stand widened in `value` and `hi`; `contributor` is then not used. -/
structure Contribution where
  win : Nat
  gen : BitVec 16
  rank : Nat
  contributor : Nat
  off : Nat
  value : Word
  tag : BitVec 16
  folded : Nat := 0
  hi : Word := 0
  deriving DecidableEq, Repr, Inhabited

/-- A pair of a sparse window on its way to its plane (R275, R276). -/
structure SparsePair where
  win : Nat
  gen : BitVec 16
  rank : Nat
  tag : BitVec 16
  index : Word
  value : Word
  deriving DecidableEq, Repr, Inhabited

/-- The window of a pair, the rank that sent it, and its tag. -/
structure PairHead where
  win : Nat
  rank : Nat
  tag : BitVec 16
  deriving DecidableEq, Repr, Inhabited
def SparsePair.head (x : SparsePair) : PairHead := { win := x.win, rank := x.rank, tag := x.tag }

/-- A die of a node, which asks for the validation of a sub-page (R248, R251). -/
structure NodeDie where
  node : Nat
  die : Nat
  deriving DecidableEq, Repr, Inhabited

/-- A UALink flit as it arrives: its trailer, the verdict of its seal and the header fields checked on receipt (R441, R443, R446, R276). -/
structure Flit where
  port : Nat
  node : Nat
  incarn : Word
  dom : BitVec 16
  stomp : Bool
  mgmt : Bool
  reservedSet : Bool
  tagOk : Bool
  replay : Bool
  txn : BitVec 16
  deriving DecidableEq, Repr, Inhabited

/-- The result of a key exchange at a port (R442). -/
structure KeyExchange where
  port : Nat
  peer : Nat
  incarn : Word
  agtilux : Bool
  up : Bool
  deriving DecidableEq, Repr, Inhabited

/-- One constructor for each row of spec/opcode_table.json: the scalar rows, the lane rows, then the others. -/
inductive Instr where
  -- scalar control (spec/03_scalar_stream.md)
  | snop
  | br (off : BitVec 25)
  | brc (cond : BitVec 4) (sa : SReg) (off : BitVec 15)
  | brk (cond : BitVec 4) (ka : KReg) (off : BitVec 15)
  | bdiv (neg : Bool) (ka : KReg) (off : BitVec 15)
  | merge
  | call (off : BitVec 25)
  | calli (cd ca : CReg)
  | ret (ca : CReg)
  | jmpi (ca : CReg) (sb : SReg)
  | execBlk (len : BitVec 5) (off : BitVec 16)
  | execwBlk (len : BitVec 5) (off : BitVec 16)
  | lcb (ca : CReg)
  | lcbGet (cd : CReg)
  | compact (sd sa : SReg)
  | uncompact (sd : SReg)
  | yieldS (sa : SReg)
  | exit
  | splitq (sd : SReg)
  | dbnz (sa : SReg) (off : BitVec 15)
  | vread (sd sa sb : SReg)
  | vwrite (sd sa sb : SReg)
  -- scalar integer and mask
  | add (sd sa sb : SReg) (sat : Bool)
  | sub (sd sa sb : SReg) (sat : Bool)
  | addi (sd sa : SReg) (imm : BitVec 13)
  | mul (sd sa sb : SReg)
  | mulh (sd sa sb : SReg) (uns : Bool)
  | and (sd sa sb : SReg)
  | or (sd sa sb : SReg)
  | xor (sd sa sb : SReg)
  | andi (sd sa : SReg) (imm : BitVec 13)
  | ori (sd sa : SReg) (imm : BitVec 13)
  | xori (sd sa : SReg) (imm : BitVec 13)
  | shl (sd sa sb : SReg)
  | shr (sd sa sb : SReg)
  | sar (sd sa sb : SReg)
  | shli (sd sa : SReg) (n : BitVec 5)
  | shri (sd sa : SReg) (n : BitVec 5)
  | sari (sd sa : SReg) (n : BitVec 5)
  | rori (sd sa : SReg) (n : BitVec 5)
  | min (sd sa sb : SReg) (uns : Bool)
  | max (sd sa sb : SReg) (uns : Bool)
  | slt (sd sa sb : SReg) (uns : Bool)
  | slti (sd sa : SReg) (imm : BitVec 13)
  | lui (sd : SReg) (imm : BitVec 19)
  | clz (sd sa : SReg)
  | popc (sd sa : SReg)
  | sel (sd sa sb sc : SReg)
  | div (sd sa sb : SReg) (rem uns : Bool)
  | kmov (kd : KReg) (sa : SReg) (beat : BitVec 2)
  | skmov (sd : SReg) (ka : KReg) (beat : BitVec 2)
  | kop (kd ka kb : KReg) (op : BitVec 3)
  | kpopc (sd : SReg) (ka : KReg) (all : Bool)
  | kfirst (sd : SReg) (ka : KReg) (last : Bool)
  | smov (sd : SReg) (code : BitVec 4)
  | smovWrite (sa : SReg) (code : BitVec 4)
  | smovw (sd sa : SReg) (n : BitVec 13)
  -- scalar memory (spec/07_memory_access.md)
  | sld (sd : SReg) (ca : CReg) (imm : BitVec 14)
  | sst (sd : SReg) (ca : CReg) (imm : BitVec 14)
  | sldc (cd ca : CReg) (sb : SReg) (f : BitVec 9)
  | sstc (cd ca : CReg) (sb : SReg) (f : BitVec 9)
  | xlate (b : BRegIx) (ca : CReg)
  | xlateLim (b : BRegIx) (sb : SReg)
  | xdrop (b : BRegIx)
  | xdropAll
  | map (cd ca : CReg) (sb : SReg) (slot : BitVec 3)
  | unmap (slot : BitVec 3)
  | unmapAll
  | cflush (ca : CReg) (sb : SReg) (inv : Bool)
  | cinv (ca : CReg) (sb : SReg)
  | cdiscard (ca : CReg) (sb : SReg)
  | cpin (ca : CReg) (sb : SReg)
  | cunpin (ca : CReg) (sb : SReg)
  | pref (ca : CReg) (sb : SReg) (l1 : Bool)
  -- ordering (spec/08_sequential_order.md)
  | commit
  | commitClose
  | solo (sa : SReg)
  | soloEnd
  | soloGet (sd : SReg)
  -- tensor copies and collective engines (spec/12, spec/13)
  | tcopy (cd ca : CReg) (sb : SReg) (nobar nt : Bool)
  | tcopyG (cd ca : CReg) (sb : SReg) (nobar nt : Bool)
  | tstore (cd ca : CReg) (sb : SReg) (nobar nt : Bool)
  | tmcast (cd ca : CReg) (sb : SReg) (nobar nt : Bool)
  | treduce (cd ca : CReg) (sb : SReg) (op : BitVec 2) (nobar nt : Bool)
  | tstat (sd : SReg)
  | tstatDone (sd sa : SReg)
  | tstatDrop
  | celaunch (cd ca : CReg) (sb : SReg) (die : Bool) (engine : BitVec 4)
  | celaunchDetach (cd ca : CReg) (sb : SReg) (die : Bool) (engine : BitVec 4)
  | cestat (sd : SReg)
  | cestatDone (sd sa : SReg)
  | cestatDrop
  -- synchronisation (spec/10_synchronisation.md)
  | binit (ca : CReg) (sb : SReg) (z keep : Bool)
  | arrive (ca : CReg) (sb : SReg) (w : Bool)
  | expect (ca : CReg) (sb : SReg) (w : Bool)
  | waitph (ca : CReg) (sb sr : SReg)
  | waitphy (cd ca : CReg) (sb sr : SReg)
  | btest (ca : CReg) (sb sr : SReg)
  | spawn (ca : CReg)
  | joindec (ca : CReg) (sr : SReg)
  | launch (ca : CReg) (sb : SReg)
  -- capabilities (spec/06_capabilities.md)
  | cget (ca : CReg) (sb : SReg) (f : BitVec 4)
  | cseta (cd ca : CReg) (sb : SReg) (exact : Bool)
  | cinc (cd ca : CReg) (sb : SReg) (w exact : Bool)
  | cinci (cd ca : CReg) (imm : BitVec 15)
  | csetb (cd ca : CReg) (sb : SReg) (w exact : Bool)
  | csetbi (cd ca : CReg) (imm : BitVec 15)
  | candp (cd ca : CReg) (sb : SReg)
  | cseal (cd ca ck : CReg)
  | csealSentry (cd ca : CReg)
  | cunseal (cd ca ck : CReg)
  | ctest (ca : CReg) (sb : SReg) (f : BitVec 3)
  | ctestSubset (cd ca : CReg) (sb : SReg)
  | cmov (cd ca : CReg)
  | cclr (cd : CReg)
  | cclrTag (cd : CReg)
  | revoke (ca : CReg)
  | revokeClear (ca : CReg)
  | rsweep (sd : SReg)
  -- traps, pre-emption, system registers (spec/15_traps_contexts.md)
  | trap (code : BitVec 12)
  | tret (s1 : Bool)
  | tretSkip (s1 : Bool)
  | frec (sd : SReg) (i : BitVec 5)
  | frecCap (cd : CReg)
  | pgmap (ca : CReg) (sb : SReg)
  | idemb (sa : SReg)
  | ideme
  | prmpt (sd : SReg)
  | prmptNow
  | sysrd (sd : SReg) (n : BitVec 12)
  | syswr (sa : SReg) (n : BitVec 12)
  | moncfg (sd sa sb : SReg)
  | monrd (sd sa : SReg) (f : BitVec 7)
  -- protection and fabric (spec/16_protection_links.md)
  | pclear (sd sa : SReg)
  | scrub (ca : CReg) (sb : SReg)
  | fabcfgWin (ca : CReg) (sb : SReg)
  | fabcfgWinrm (ca : CReg) (sb : SReg)
  | fabcfgMcast (ca : CReg) (sb : SReg)
  | fabcfgPlane (ca : CReg) (sb : SReg)
  | fabcfgEp (ca : CReg) (sb : SReg)
  | fabcfgRegion (ca : CReg) (sb : SReg)
  | attest (cd ca : CReg) (sb : SReg)
  -- lane integer (spec/04_lane_integer.md)
  | lnop (pred : KReg) (neg : Bool)
  | mov (h : LaneHdr) (m : AMods)
  | movi (h : IHdr) (imm : Word) (m : BitVec 3)
  | iadd (h : LaneHdr) (m : AMods)
  | isub (h : LaneHdr) (m : AMods)
  | iaddi (h : IHdr) (imm : Word) (m : BitVec 3)
  | imul (h : LaneHdr) (m : AMods)
  | imulh (h : LaneHdr) (m : AMods)
  | imad (h : LaneHdr) (m : AMods)
  | imadw (h : LaneHdr) (m : AMods)
  | iabs (h : LaneHdr) (m : AMods)
  | imin (h : LaneHdr) (m : AMods)
  | imax (h : LaneHdr) (m : AMods)
  | andLane (h : LaneHdr) (m : AMods)
  | orLane (h : LaneHdr) (m : AMods)
  | xorLane (h : LaneHdr) (m : AMods)
  | bool3 (h : LaneHdr) (m : AMods)
  | shlLane (h : LaneHdr) (m : AMods)
  | shrLane (h : LaneHdr) (m : AMods)
  | sarLane (h : LaneHdr) (m : AMods)
  | wshift (h : LaneHdr) (m : AMods)
  | extr (h : LaneHdr) (m : AMods)
  | insr (h : LaneHdr) (m : AMods)
  | popcLane (h : LaneHdr) (m : AMods)
  | clzLane (h : LaneHdr) (m : AMods)
  | bitrev (h : LaneHdr) (m : AMods)
  | bswz (h : LaneHdr) (m : AMods)
  | icmp (h : LaneHdr) (m : AMods)
  | selLane (h : LaneHdr) (m : AMods)
  | idot4 (h : LaneHdr) (m : AMods)
  | isad (h : LaneHdr) (m : AMods)
  | nbr (h : LaneHdr) (m : AMods)
  | lbcast (h : LaneHdr) (m : AMods)
  -- lane floating point (spec/05_lane_float.md)
  | fadd (h : LaneHdr) (m : AMods)
  | fsub (h : LaneHdr) (m : AMods)
  | fmul (h : LaneHdr) (m : AMods)
  | ffma (h : LaneHdr) (m : AMods)
  | fmin (h : LaneHdr) (m : AMods)
  | fmax (h : LaneHdr) (m : AMods)
  | fcmp (h : LaneHdr) (m : AMods)
  | fclass (h : LaneHdr) (m : AMods)
  | fdiv (h : LaneHdr) (m : AMods)
  | fsqrt (h : LaneHdr) (m : AMods)
  | frcp (h : LaneHdr) (m : AMods)
  | frsq (h : LaneHdr) (m : AMods)
  | fexp2 (h : LaneHdr) (m : AMods)
  | flog2 (h : LaneHdr) (m : AMods)
  | fsin (h : LaneHdr) (m : AMods)
  | fcos (h : LaneHdr) (m : AMods)
  | ftanh (h : LaneHdr) (m : AMods)
  | frnd (h : LaneHdr) (m : AMods)
  | fscale (h : LaneHdr) (m : AMods)
  | pkadd (h : LaneHdr) (m : AMods)
  | pkmul (h : LaneHdr) (m : AMods)
  | pkfma (h : LaneHdr) (m : AMods)
  | dadd (h : LaneHdr) (m : AMods)
  | dmul (h : LaneHdr) (m : AMods)
  | dfma (h : LaneHdr) (m : AMods)
  | cvt (h : LaneHdr) (m : AMods)
  | pack (h : LaneHdr) (m : AMods)
  | unpack (h : LaneHdr) (m : AMods)
  | qblk (h : LaneHdr) (m : AMods)
  | dqblk (h : LaneHdr) (m : AMods)
  -- lane capabilities (R186); `m` is bits 22..7, all defined with the instruction (R45)
  | vcget (h : LaneHdr) (m : BitVec 16)
  | vcseta (h : LaneHdr) (m : BitVec 16)
  | vcinc (h : LaneHdr) (m : BitVec 16)
  | vcsetb (h : LaneHdr) (m : BitVec 16)
  | vcandp (h : LaneHdr) (m : BitVec 16)
  | vctest (h : LaneHdr) (m : BitVec 16)
  | vcmov (h : LaneHdr) (m : BitVec 16)
  | vcclr (h : LaneHdr) (m : BitVec 16)
  | vcderive (h : LaneHdr) (m : BitVec 16)
  -- lane memory and atomics (spec/07, spec/09)
  | ld (h : LaneHdr) (m : MMods)
  | st (h : LaneHdr) (m : MMods)
  | ldc (h : LaneHdr) (m : MMods)
  | ldcX (h : LaneHdr) (m : MMods)
  | stc (h : LaneHdr) (m : MMods)
  | stcX (h : LaneHdr) (m : MMods)
  | ldx (h : LaneHdr) (m : MMods)
  | stx (h : LaneHdr) (m : MMods)
  | lds (h : LaneHdr) (m : MMods)
  | sts (h : LaneHdr) (m : MMods)
  | atom (h : LaneHdr) (m : MMods)
  | red (h : LaneHdr) (m : MMods)
  | atoms (h : LaneHdr) (m : MMods)
  | matchL (h : LaneHdr) (m : MMods)
  | ldsum (h : LaneHdr) (m : MMods)
  | stm (h : LaneHdr) (m : MMods)
  | redsp (h : LaneHdr) (m : MMods)
  | stt (h : LaneHdr) (m : BitVec 16)
  -- matrix (spec/11_matrix.md)
  | mloop (h : LaneHdr) (m : BitVec 16)
  | mstep (h : LaneHdr) (m : BitVec 16)
  | mzero (h : LaneHdr) (m : BitVec 16)
  | mlda (h : LaneHdr) (m : BitVec 16)
  | msta (h : LaneHdr) (m : BitVec 16)
  | mjoin (h : LaneHdr) (m : BitVec 16)
  | mjoinDrop (h : LaneHdr) (m : BitVec 16)
  | mctxAcq (h : LaneHdr) (m : BitVec 16)
  | mctxRel (h : LaneHdr) (m : BitVec 16)
  | mscale (h : LaneHdr) (m : BitVec 16)
  | mchk (h : LaneHdr) (m : BitVec 16)
  | mepi (h : LaneHdr) (m : BitVec 16)
  -- events of groups and engines
  | yieldDelayExpiry (core slot split : Nat)
  | soloCountExpiry (core slot : Nat)
  | waitphRelease (core slot split : Nat)
  | groupReactivation (group : Nat)
  | revocationEpochComplete
  | attestAnswer (core slot : Nat)
  | matrixOperationStart (core ctx : Nat)
  | matrixStep (core ctx : Nat)
  | tceOperationStart (core : Nat)
  | tceElement (core op : Nat)
  | ceListStart (die engine : Nat)
  -- CE commands (spec/13_collective_engines.md)
  | enop
  | esend (f : CeFields) (data : DWord)
  | eput (f : CeFields) (dstOff srcOff : Word)
  | eget (f : CeFields) (dstOff srcOff : Word)
  | ered (f : CeFields) (dstOff srcOff : Word)
  | emcast (f : CeFields) (dstOff srcOff : Word)
  | ewait (f : CeFields)
  | ewaitRelease (die engine ctx : Nat)
  | earrive (f : CeFields)
  | esig (f : CeFields) (operand : DWord)
  | eadd (f : CeFields)
  | ebr (f : CeFields)
  | eloop (f : CeFields)
  | enput (f : CeFields) (w : NetWords)
  | enget (f : CeFields) (w : NetWords)
  | esnap (f : CeFields) (w1 w2 : DWord)
  | eend
  -- queue records (spec/14_queue_commands.md)
  | qnop (after : Bool)
  | qlaunch (after : Bool) (block sem : DWord) (count : Word)
  | qtask (after : Bool) (shelf : BitVec 4) (block sem : DWord) (count : Word)
  | qwait (after : Bool) (cmp : BitVec 3) (sem operand mask : DWord)
  | qwaitReread (q : Nat)
  | qwaitPoll (q : Nat)
  | qsignal (after : Bool) (op : BitVec 2) (sem operand : DWord)
  | qgraph (after : Bool) (op : BitVec 2) (obj : BitVec 10)
  | qphase (after : Bool) (op : BitVec 2) (obj : BitVec 10)
  | qjob (after : Bool) (op : BitVec 2) (obj : BitVec 10)
  | qcancel (after : Bool) (kind : BitVec 3) (obj : BitVec 10)
  | qcount (after : Bool) (kind : BitVec 3) (obj : BitVec 10) (target : DWord)
  | qjump (after : Bool) (target : Word)
  | qprio (after : Bool) (prio : BitVec 2)
  -- host register writes, dispatcher and context events
  | qwrWrite (q : Nat) (v : Word)
  | queueEnable (q : Nat) (ctl : Word)
  | queueDisable (q : Nat) (ctl : Word)
  | lvcancel (n : Nat)
  | invalidationGo (ctl : Word)
  | translationInvalidationComplete
  | registerWrite (off size : Nat) (v : DWord)
  | dispatchPlace
  | taskPop (core slot : Nat)
  | shelfFullTimeout (shelf : Nat)
  | queueFullTimeout (q : Nat)
  | pgraceExpiry
  | pslackExpiry (gang : Nat)
  | gangSaveComplete (gang : Nat)
  | clusterDomainMove (cluster : Nat) (dom : BitVec 6)
  -- ordering events
  | windowCommit (core slot : Nat)
  | storeDrain
  | lineFill (node line : Nat) (data : List Byte) (tags : List Bool) (version : Word)
  | validationReply (node sub : Nat) (version : Word)
  | walkComplete (die : Nat)
  | walkStarvationTimeout (die i : Nat)
  | dieProxyForward (i : Nat)
  | proxyPhaseUpdate (i : Nat)
  -- fabric events
  | apertureRequest (r : ApReq)
  | validationRequest (asker : NodeDie) (pcid : BitVec 16) (sub : Nat) (stamp : Word) (write : Bool)
  | epochBump (node sub : Nat)
  | contributionArrival (c : Contribution)
  | sparsePairArrival (head : PairHead) (gen : BitVec 16) (index value : Word)
  | mergeTableTimeout (win : Nat) (index : Word)
  | multicastPacketArrival (i : Nat)
  | ualinkFlitReceive (f : Flit)
  | ucieFlitReceive (tagOk replay : Bool) (consumers : List (Nat × Nat × Nat))
  | portTraining (x : KeyExchange)
  | sealRekey (x : KeyExchange)
  | stompNotice (tag : BitVec 16)
  | requestRetryTimeout (tag : BitVec 16)
  | peerlostTimeout (tag : BitVec 16)
  | switchPortsDown (node : Nat)
  | homeTagRecordExpiry (node : Nat) (tag : BitVec 16)
  | ueInboundPut (region : BitVec 16) (off : DWord) (data : List Byte)
  | ueInboundGet (region : BitVec 16) (off : DWord) (n : Nat)
  -- host memory events
  | cxlMemRead (pa : Nat)
  | cxlMemWrite (pa : Nat) (data : List Byte)
  | hostSnoop (line : Nat) (data : Option (List Byte))
  -- DOE requests (R453), power and reset
  | ideKm (cache mem : Bool)
  | nodeset (node : BitVec 9)
  | ctxcreate (pcid : BitVec 16) (mask : BitVec 18) (dom : BitVec 16)
  | ctxassign (slot die first count : Nat)
  | ctxload (slot src dst : Nat) (va : DWord)
  | ctxseal (slot : Nat)
  | pageout (slot : Nat) (va hpa : DWord)
  | pagein (slot : Nat) (va hpa : DWord) (region : Nat)
  | ctxdestroy (slot : Nat)
  | doeStatus (slot : Nat)
  | quote (pcid : BitVec 16) (nonce user : List Byte)
  | extend (x : List Byte)
  | linkattest (x : KeyExchange)
  | uekey (endpoint : BitVec 10) (blob : List Byte)
  | debugnonce
  | debug (token : List Byte)
  | pstate (p : BitVec 2)
  | p3Entry
  | reset
  | coldReset
  | warmReset
  | scrubRecordComplete
  | thermalTrip
  | lifetimeCounterFlush
  | monitorSample (die src core : Nat) (value : Word)
  -- decode and access outcomes
  | illegalScalarWord (w : Word) (code : Nat)
  | scalarFetchFault (kind detail : Nat) (addr : DWord) (home : Bool)
  | unassignedCeCommand (w : DWord) (addr : DWord) (kind detail : Nat)
  | unassignedQueueOp (op : Byte) (code detail : Nat)
  | accessAnswer (tag : BitVec 16) (a : ApAns)
  | ueResponse (list : Nat) (data : List Byte) (ok : Bool)
  | ueTransportFailure (list : Nat)
  | backInvalidationResponse (line : Nat)
  | linkDown (port : Nat)
  | powerRemoved
  | clearSequenceComplete (cluster : Nat)
  | p3ExitComplete
  | gangRestoreComplete (gang : Nat)
  | hourPowered
  deriving DecidableEq, Repr, Inhabited

end Sys2Proof
end

