-- ==== Sys2Proof/WellFormed.lean ====
section
/-! DEFINITION. Which instructions the encoding rules of spec/02_instruction_words.md and of the owning chapters admit:
the raw fields of a lane word, the ILLEGAL codes of a lane word that need no state (R65), and `Instr.wf`. -/

namespace Sys2Proof

/-- The code of a type (R46). -/
def Ty.code : Ty → Nat
  | .dflt => 0 | .s8 => 1 | .s16 => 2 | .s32 => 3 | .s64 => 4 | .z8 => 5 | .z16 => 6 | .z32 => 7 | .z64 => 8
  | .b32 => 9 | .b64 => 10 | .b128 => 11 | .f64 => 12 | .f32 => 13 | .f16 => 14 | .bf16 => 15
  | .e4m3 => 16 | .e5m2 => 17 | .e3m2 => 18 | .e2m3 => 19 | .e2m1 => 20

/-- The type of a code (R46); codes 21 to 31 are illegal. -/
def Ty.ofCode : Nat → Option Ty
  | 0 => some .dflt | 1 => some .s8 | 2 => some .s16 | 3 => some .s32 | 4 => some .s64 | 5 => some .z8
  | 6 => some .z16 | 7 => some .z32 | 8 => some .z64 | 9 => some .b32 | 10 => some .b64 | 11 => some .b128
  | 12 => some .f64 | 13 => some .f32 | 14 => some .f16 | 15 => some .bf16 | 16 => some .e4m3 | 17 => some .e5m2
  | 18 => some .e3m2 | 19 => some .e2m3 | 20 => some .e2m1 | _ => none

def Rnd.code : Rnd → Nat
  | .rne => 0 | .rz => 1 | .ru => 2 | .rd => 3 | .rna => 4

def Rnd.ofCode : Nat → Option Rnd
  | 0 => some .rne | 1 => some .rz | 2 => some .ru | 3 => some .rd | 4 => some .rna | _ => none

def Scope.code : Scope → Nat
  | .dflt => 0 | .core => 1 | .die => 2 | .chip => 3 | .pod => 4 | .sys => 5

def Scope.ofCode : Nat → Option Scope
  | 0 => some .dflt | 1 => some .core | 2 => some .die | 3 => some .chip | 4 => some .pod | 5 => some .sys | _ => none

def Atom.code : Atom → Nat
  | .none => 0 | .a8 => 1 | .a16 => 2

def Atom.ofCode : Nat → Option Atom
  | 0 => some .none | 1 => some .a8 | 2 => some .a16 | _ => none

/-- The number of slots of a narrow type in a lane register (R137); 0 for other types. -/
def Ty.slots : Ty → Nat
  | .f16 | .bf16 | .s16 | .z16 => 2
  | .e4m3 | .e5m2 | .e3m2 | .e2m3 | .s8 | .z8 => 4
  | .e2m1 => 8
  | _ => 0

/-- A source field of a lane word (R40). -/
structure RawSrc where
  sel  : BitVec 2
  idx  : BitVec 10
  last : Bool
  keep : Bool
  deriving DecidableEq, Repr, Inhabited

/-- A lane word by fields (R40); `tail` is bits 41..0, which an I-form reads differently (R44). -/
structure RawLane where
  op   : BitVec 10
  dsel : BitVec 2
  didx : BitVec 10
  lat  : BitVec 3
  nowb : Bool
  a : RawSrc
  b : RawSrc
  tail : BitVec 42
  deriving DecidableEq, Repr, Inhabited

/-- One bit as a Bool. -/
def bit1 (x : BitVec 1) : Bool := x == 1#1

/-- A Bool as one bit. -/
def ofBit (b : Bool) : BitVec 1 := if b then 1#1 else 0#1

/-- A source field from its 14 bits. -/
def RawSrc.ofBits (x : BitVec 14) : RawSrc :=
  { sel := x.extractLsb' 12 2, idx := x.extractLsb' 2 10, last := bit1 (x.extractLsb' 1 1), keep := bit1 (x.extractLsb' 0 1) }

/-- The 14 bits of a source field. -/
def RawSrc.bits (s : RawSrc) : BitVec 14 := s.sel ++ s.idx ++ ofBit s.last ++ ofBit s.keep

def RawSrc.zero : RawSrc := { sel := 0, idx := 0, last := false, keep := false }

/-- Source C of a word that is no I-form. -/
def RawLane.c (r : RawLane) : RawSrc := .ofBits (r.tail.extractLsb' 28 14)
def RawLane.pred (r : RawLane) : BitVec 4 := r.tail.extractLsb' 24 4
def RawLane.neg (r : RawLane) : Bool := bit1 (r.tail.extractLsb' 23 1)
def RawLane.mods (r : RawLane) : BitVec 16 := r.tail.extractLsb' 7 16
def RawLane.low (r : RawLane) : BitVec 7 := r.tail.extractLsb' 0 7
def RawLane.imm (r : RawLane) : Word := r.tail.extractLsb' 10 32
def RawLane.imods (r : RawLane) : BitVec 3 := r.tail.extractLsb' 7 3

/-- Bits 41..0 of a word that is no I-form. -/
def mkTail (c : RawSrc) (pred : BitVec 4) (neg : Bool) (m : BitVec 16) : BitVec 42 :=
  c.bits ++ pred ++ ofBit neg ++ m ++ (0 : BitVec 7)

/-- Bits 41..0 of an I-form (R44). -/
def mkITail (imm : Word) (m : BitVec 3) : BitVec 42 := imm ++ m ++ (0 : BitVec 7)

/-- The field of a source (R41, R49). -/
def Src.raw : Src → RawSrc
  | .vreg n l k => { sel := 0, idx := n.zeroExtend 10, last := l, keep := k }
  | .qreg n => { sel := 1, idx := n, last := false, keep := false }
  | .latch n l => { sel := 2, idx := n.zeroExtend 10, last := l, keep := false }
  | .special n => { sel := 3, idx := n.zeroExtend 10, last := false, keep := false }

/-- The source of a field. -/
def RawSrc.src (r : RawSrc) : Src :=
  if r.sel = 0 then .vreg (r.idx.truncate 8) r.last r.keep
  else if r.sel = 1 then .qreg r.idx
  else if r.sel = 2 then .latch (r.idx.truncate 2) r.last
  else .special (r.idx.truncate 8)

/-- The selector and index of a destination (R43). -/
def Dst.raw : Dst → BitVec 2 × BitVec 10
  | .vreg n => (0, n.zeroExtend 10)
  | .qreg n => (1, n)
  | .kreg n => (3, n.zeroExtend 10)

/-- The destination of a field. -/
def dstOf (sel : BitVec 2) (idx : BitVec 10) : Dst :=
  if sel = 0 then .vreg (idx.truncate 8) else if sel = 1 then .qreg idx else .kreg (idx.truncate 4)

/-- Bits 73..71 of a latch write (R53). -/
def latRaw : Option (BitVec 2) → BitVec 3
  | none => 0
  | some n => 4 + n.zeroExtend 3

/-- The latch that bits 73..71 name. -/
def latOf (x : BitVec 3) : Option (BitVec 2) := if x < 4 then none else some (x.truncate 2)

/-- What a source field may hold beside R41 and R49. -/
inductive SKind where
  /-- not used: all zero -/
  | none
  /-- any source of R41 -/
  | any
  /-- a 64-bit pair in v registers (R214, R259) -/
  | pair
  /-- a 64-bit pair in v or q registers (R264) -/
  | pairVQ
  /-- a 64-bit operand of R146 -/
  | wide
  /-- 128 bits of store data (R214) -/
  | quadData
  /-- a capability quad (R47, R186) -/
  | cap
  /-- the address operand of VCSETA (R186) -/
  | capAddr
  /-- a scalar broadcast or small integer -/
  | uni
  /-- as `uni`, or a constant (R323) -/
  | uniF
  /-- a loop descriptor (R314) -/
  | loop
  /-- a v register only -/
  | v
  /-- an accumulator tile (R305) -/
  | tile
  deriving DecidableEq, Repr

/-- What the destination field may hold. -/
inductive DKind where
  | none | reg | regK | kOnly | vOnly
  /-- a pair without latch (R117, R119, R146) -/
  | pair
  /-- the data pair or quad of a load (R214) -/
  | pairM | quadM
  | cap | tile
  /-- a run of n v registers (R323) -/
  | run (n : Nat)
  deriving DecidableEq, Repr

/-- The encoding of one lane instruction under its modifiers: destination, sources, whether a latch write is accepted,
whether a modifier is undefined (code 2), and further causes. -/
structure LaneSpec where
  d : DKind
  a : SKind := .none
  b : SKind := .none
  c : SKind := .none
  lat : Bool := true
  bad : Bool
  more : List (Nat × Bool) := []
  iform : Bool := false
  matrix : Bool := false
  deriving Repr

/-- Bit i of the modifiers. -/
def mbit (m i : Nat) : Bool := (m >>> i) % 2 = 1

/-- Bits i+n-1..i of the modifiers. -/
def mfld (m i n : Nat) : Nat := (m >>> i) % 2 ^ n

/-- Whether arithmetic modifiers break R45, R116 or R148. -/
def amBad (m : Nat) (types : List Nat) (dflt rnd ftz sat : Bool) (xmask : Nat) : Bool :=
  !(if mfld m 11 5 = 0 then dflt else types.contains (mfld m 11 5))
  || (mfld m 8 3 > 4) || (!rnd && mfld m 8 3 != 0) || (!ftz && mbit m 7) || (!sat && mbit m 6)
  || (mfld m 0 6 &&& (63 ^^^ xmask)) != 0

/-- Whether memory modifiers break R45, R46, R205, R216; `res` is the resolved type. -/
def mmBad (m : Nat) (types : List Nat) (scope atom : Bool) (res : Nat) (xbad : Bool) : Bool :=
  !(mfld m 11 5 = 0 || types.contains (mfld m 11 5))
  || (if scope then mfld m 8 3 > 5 else mfld m 8 3 != 0)
  || (if atom then mfld m 6 2 = 3 || (mfld m 6 2 = 1 && !(res = 10 || res = 11)) || (mfld m 6 2 = 2 && res != 11)
      else mfld m 6 2 != 0)
  || xbad

/-- The types of LD, ST, LDX, STX, LDS, STS and STM (R214). -/
def memTypes : List Nat := [1, 2, 5, 6, 9, 10, 11]

/-- The data destination of a load of type t (R214). -/
def loadDst (t : Nat) : DKind := if t = 10 then .pairM else if t = 11 then .quadM else .reg

/-- The data source of a store of type t (R214). -/
def storeSrc (t : Nat) : SKind := if t = 10 then .pair else if t = 11 then .quadData else .any

/-- The slots of a type code (R137). -/
def slotsOf (t : Nat) : Nat := match Ty.ofCode t with | some y => y.slots | none => 0

/-- Types of R148 for PACK and UNPACK. -/
def packTypes : List Nat := [14, 15, 16, 17, 18, 19, 20, 1, 5]

/-- Types of QBLK and DQBLK. -/
def qblkTypes : List Nat := [16, 17, 18, 19, 20, 1]

/-- Types of CVT (R159). -/
def cvtTypes : List Nat := [1, 2, 3, 4, 5, 6, 7, 8, 12, 13, 14, 15, 16, 17, 18, 19, 20]

/-- Whether a type code is 64 bits wide. -/
def is64 (t : Nat) : Bool := t = 4 || t = 8 || t = 10 || t = 12

/-- Whether a type code is an integer of R138. -/
def isIntCode (t : Nat) : Bool := 1 ≤ t && t ≤ 8

/-- Registers that MEPI writes (R323). -/
def epiRegs (t : Nat) : Nat :=
  if t = 0 || t = 13 then 128 else if t = 14 || t = 15 then 64 else if t = 20 then 16 else 32

/-- The integer chapter (R117): opcodes 0x000 to 0x020. -/
def intSpec (op m : Nat) (im : Nat) : Option LaneSpec :=
  let i32 : List Nat := [3, 7]
  let b32 : List Nat := [9]
  let x := mfld m 0 6
  if op = 0x000 then some { d := .none, lat := true, bad := m != 0 }
  else if op = 0x001 then some { d := .reg, a := .any, bad := amBad m b32 true false false false 0 }
  else if op = 0x002 then some { d := .reg, iform := true, bad := im != 0 }
  else if op = 0x003 || op = 0x004 || op = 0x006 then
    some { d := .reg, a := .any, b := .any, bad := amBad m i32 true false false true 0 }
  else if op = 0x005 then some { d := .reg, a := .any, iform := true, bad := im ≥ 4 }
  else if op = 0x007 || op = 0x00B || op = 0x00C then
    some { d := .reg, a := .any, b := .any, bad := amBad m i32 true false false false 0 }
  else if op = 0x008 then some { d := .reg, a := .any, b := .any, c := .any, bad := amBad m i32 true false false true 0 }
  else if op = 0x009 then
    some { d := .pair, a := .any, b := .any, c := .any, lat := false, bad := amBad m i32 true false false false 0 }
  else if op = 0x00A then some { d := .reg, a := .any, bad := amBad m [3] true false false true 0 }
  else if op = 0x00D || op = 0x00E || op = 0x00F || op = 0x011 || op = 0x012 || op = 0x013 then
    some { d := .reg, a := .any, b := .any, bad := amBad m b32 true false false false 0 }
  else if op = 0x010 then some { d := .reg, a := .any, b := .any, c := .any, bad := amBad m b32 true false false false 63 }
  else if op = 0x014 then some { d := .reg, a := .any, b := .any, c := .any, bad := amBad m b32 true false false false 3 }
  else if op = 0x015 then some { d := .reg, a := .any, b := .any, c := .any, bad := amBad m i32 true false false false 0 }
  else if op = 0x016 || op = 0x01A then
    some { d := .reg, a := .any, b := .any, c := .any, bad := amBad m b32 true false false false 0 }
  else if op = 0x017 || op = 0x018 || op = 0x019 then
    some { d := .reg, a := .any, bad := amBad m b32 true false false false 0 }
  else if op = 0x01B then
    some { d := .regK, a := .any, b := .any, bad := amBad m i32 true false false false 7 || mfld m 0 3 > 5 }
  else if op = 0x01C then some { d := .reg, a := .any, b := .any, bad := amBad m b32 true false false false 15 }
  else if op = 0x01D then
    some { d := .reg, a := .any, b := .any, c := .any,
           bad := amBad m [1, 5] true false false true 1 || (mbit m 0 && mfld m 11 5 = 5) }
  else if op = 0x01E then
    some { d := .reg, a := .any, b := .any, c := .any, bad := amBad m [7, 5] true false false false 0 }
  else if op = 0x01F then
    let linked := mfld x 1 2 != 1
    some { d := .reg, a := .v, b := if linked then .any else .none,
           bad := amBad m b32 true false false false 7 || mfld x 1 2 = 3 }
  else if op = 0x020 then some { d := .reg, a := .any, b := .uni, bad := amBad m b32 true false false false 0 }
  else none

/-- The floating-point chapter (R148): opcodes 0x100 to 0x11D. -/
def floatSpec (op m : Nat) : Option LaneSpec :=
  let t := mfld m 11 5
  let f32 : List Nat := [13]
  let pk : List Nat := [14, 15]
  if op = 0x100 || op = 0x101 || op = 0x102 then
    some { d := .reg, a := .any, b := .any, bad := amBad m f32 true true true true 32 }
  else if op = 0x103 then some { d := .reg, a := .any, b := .any, c := .any, bad := amBad m f32 true true true true 32 }
  else if op = 0x104 || op = 0x105 then
    some { d := .reg, a := .any, b := .any, bad := amBad m f32 true false true false 33 }
  else if op = 0x106 then
    let k := if t = 12 then SKind.wide else .any
    some { d := .regK, a := k, b := k, bad := amBad m [13, 12] true false true false 7 }
  else if op = 0x107 then
    some { d := .reg, a := if t = 12 then .wide else .any, bad := amBad m [13, 12] true false false false 0 }
  else if op = 0x108 then some { d := .reg, a := .any, b := .any, bad := amBad m f32 true true true false 32 }
  else if op = 0x109 || op = 0x111 then some { d := .reg, a := .any, bad := amBad m f32 true true true false 32 }
  else if 0x10A ≤ op && op ≤ 0x110 then some { d := .reg, a := .any, bad := amBad m f32 true false true false 32 }
  else if op = 0x112 then some { d := .reg, a := .any, b := .any, bad := amBad m f32 true true true false 32 }
  else if op = 0x113 || op = 0x114 then some { d := .reg, a := .any, b := .any, bad := amBad m pk true true true true 32 }
  else if op = 0x115 then some { d := .reg, a := .any, b := .any, c := .any, bad := amBad m pk true true true true 32 }
  else if op = 0x116 || op = 0x117 then
    some { d := .pair, a := .wide, b := .wide, lat := false, bad := amBad m [12] true true true false 32 }
  else if op = 0x118 then
    some { d := .pair, a := .wide, b := .wide, c := .wide, lat := false, bad := amBad m [12] true true true false 32 }
  else if op = 0x119 then
    let s := mfld m 0 5
    some { d := if is64 t then .pair else .reg, a := if is64 s then .wide else .any, lat := !is64 t,
           bad := amBad m cvtTypes false true true true 63 || !cvtTypes.contains s
                  || (isIntCode t && isIntCode s && (mfld m 8 3 != 0 || mbit m 7)) }
  else if op = 0x11A then
    some { d := .reg, a := .any, b := .any, c := .any,
           bad := amBad m packTypes false true true true 47 || mbit m 0 || mfld m 0 4 + 1 ≥ slotsOf t }
  else if op = 0x11B then
    some { d := .reg, a := .any, bad := amBad m packTypes false false true false 47 || mfld m 0 4 ≥ slotsOf t }
  else if op = 0x11C then some { d := .reg, a := .any, bad := amBad m qblkTypes false true true false 16 }
  else if op = 0x11D then
    some { d := .reg, a := .any, b := .any, bad := amBad m qblkTypes false true true false 31 || mfld m 0 4 ≥ slotsOf t }
  else none

/-- The lane capability instructions (R186): opcodes 0x200 to 0x208. -/
def capSpec (op m : Nat) : Option LaneSpec :=
  if op = 0x200 then some { d := .reg, a := .cap, bad := m > 13 }
  else if op = 0x201 then some { d := .cap, a := .cap, b := .capAddr, lat := false, bad := m > 1 }
  else if op = 0x202 || op = 0x203 then some { d := .cap, a := .cap, b := .any, lat := false, bad := m > 1 }
  else if op = 0x204 then some { d := .cap, a := .cap, b := .any, lat := false, bad := m != 0 }
  else if op = 0x205 then some { d := .regK, a := .cap, b := if m = 3 then .cap else .none, bad := m > 5 }
  else if op = 0x206 then some { d := .cap, a := .cap, lat := false, bad := m != 0 }
  else if op = 0x207 then some { d := .cap, lat := false, bad := m > 1 }
  else if op = 0x208 then
    some { d := .cap, a := .any, b := if mbit m 1 then .none else .any, lat := false, bad := mfld m 2 9 != 0 }
  else none

/-- The types of an atomic operation (R259). -/
def atomTypes (o : Nat) : List Nat := if o ≤ 2 then [3, 7, 4, 8, 13, 12, 14, 15] else [9, 10]

/-- The memory and atomic instructions (R212 to R216, R258 to R275): opcodes 0x240 to 0x24F. -/
def memSpec (op m : Nat) : Option LaneSpec :=
  let t := mfld m 11 5
  let x := mfld m 0 6
  let hint := mfld x 3 2
  let o := mfld x 3 3
  let dat := if is64 t then SKind.pair else .any
  let old := if is64 t then DKind.pairM else .reg
  if op = 0x240 then
    some { d := loadDst t, a := .any, lat := false, bad := mmBad m memTypes true true t (hint = 3 || mbit x 5) }
  else if op = 0x241 then
    some { d := .none, a := .any, b := storeSrc t, lat := false,
           bad := mmBad m memTypes true true t (hint = 3 || mbit x 5) }
  else if op = 0x242 then
    some { d := .cap, a := if mbit x 5 then .cap else .any, b := if mbit x 5 then .any else .none, lat := false,
           bad := mmBad m [11] true true 11 (hint = 3 || (mbit x 5 && mfld x 0 3 != 0)) }
  else if op = 0x243 then
    some { d := .none, a := if mbit x 5 then .cap else .any, b := if mbit x 5 then .any else .cap,
           c := if mbit x 5 then .cap else .none, lat := false,
           bad := mmBad m [11] true true 11 (hint = 3 || (mbit x 5 && mfld x 0 3 != 0)) }
  else if op = 0x244 then
    some { d := loadDst t, a := .cap, b := .any, lat := false,
           bad := mmBad m memTypes true true t (hint = 3 || mbit x 5 || mfld x 0 3 != 0) }
  else if op = 0x245 then
    some { d := .none, a := .cap, b := .any, c := storeSrc t, lat := false,
           bad := mmBad m memTypes true true t (hint = 3 || mbit x 5 || mfld x 0 3 != 0) }
  else if op = 0x246 then
    some { d := loadDst t, a := .any, lat := false, bad := mmBad m memTypes false true t (hint = 3 || mbit x 5) }
  else if op = 0x247 then
    some { d := .none, a := .any, b := storeSrc t, lat := false,
           bad := mmBad m memTypes false true t (hint = 3 || mbit x 5) }
  else if op = 0x248 || op = 0x24A then
    some { d := old, a := .any, b := dat, c := if o = 7 then dat else .none, lat := false,
           bad := mmBad m (atomTypes o) (op = 0x248) false t false }
  else if op = 0x249 then
    some { d := .none, a := .any, b := dat, lat := false, bad := mmBad m (atomTypes o) true false t (o ≥ 6) }
  else if op = 0x24B then
    let mode := mfld x 0 2
    some { d := if mode = 0 then .kOnly else .vOnly, a := if t = 10 then .pairVQ else .any, lat := false,
           bad := mmBad m [9, 10] false false t (mode = 3 || mfld x 2 4 != 0) }
  else if op = 0x24C then
    some { d := .reg, a := .any, lat := false, bad := mmBad m [13, 15, 3] true false t (o != 0) }
  else if op = 0x24D then
    some { d := .none, a := .any, b := storeSrc t, lat := false, bad := mmBad m memTypes true true t (o != 0) }
  else if op = 0x24E then
    some { d := .none, a := .any, b := .any, lat := false, bad := mmBad m [13, 3] false false t (o != 0) }
  else if op = 0x24F then
    some { d := .none, a := .tile, b := .uni, lat := false,
           bad := !(t = 0 || t = 13 || t = 14 || t = 15) || mfld m 8 3 > 5 || mbit m 7 || mfld m 3 3 > 4 }
  else none

/-- The matrix instructions (R314 to R328): opcodes 0x2C0 to 0x2C9. -/
def matSpec (op m : Nat) : Option LaneSpec :=
  let t := mfld m 11 5
  let stepT : List Nat := [0, 15, 14, 16, 17, 18, 19, 20, 1]
  let epiT : List Nat := [0, 13, 15, 14, 16, 17, 18, 19, 20]
  if op = 0x2C0 then
    some { d := .tile, a := .v, b := .loop, lat := false, matrix := true, bad := !stepT.contains t || mfld m 0 7 != 0 }
  else if op = 0x2C1 then
    some { d := .tile, a := .v, b := .uni, lat := false, matrix := true, bad := !stepT.contains t || mfld m 0 4 != 0 }
  else if op = 0x2C2 then some { d := .tile, lat := false, matrix := true, bad := m != 0 }
  else if op = 0x2C3 then
    some { d := .tile, b := .uni, c := .uni, lat := false, matrix := true,
           bad := !(t = 0 || t = 13 || t = 3 || t = 15 || t = 14) || mfld m 0 8 != 0 }
  else if op = 0x2C4 then
    some { d := .none, a := .tile, b := .uni, c := .uniF, lat := false, matrix := true,
           bad := !epiT.contains t || mfld m 8 3 > 4 }
  else if op = 0x2C5 then some { d := .none, lat := false, matrix := true, bad := m > 1 }
  else if op = 0x2C6 then some { d := .none, lat := false, matrix := true, bad := m > 1 }
  else if op = 0x2C7 then
    some { d := .none, a := if m = 0 then .none else .v, lat := false, matrix := true, bad := m > 2 }
  else if op = 0x2C8 then
    some { d := .none, lat := false, matrix := true, bad := mfld m 0 9 > 256 || mfld m 11 5 != 0 }
  else if op = 0x2C9 then
    some { d := .run (epiRegs t), a := .tile, c := .uniF, lat := false, matrix := true,
           bad := !epiT.contains t || mfld m 8 3 > 4 || mfld m 0 6 != 0 }
  else none

/-- The encoding of the instruction with opcode op under modifiers m (im: the modifiers of an I-form); none for a
reserved opcode (R61). -/
def laneSpec (op m im : Nat) : Option LaneSpec :=
  if op ≤ 0x020 then intSpec op m im
  else if op < 0x200 then floatSpec op m
  else if op < 0x240 then capSpec op m
  else if op < 0x2C0 then memSpec op m
  else matSpec op m

/-- Causes that a source field may give, with their codes (R41, R42, R47, R49, R65). -/
def srcCauses (alloc : Nat) (accs matrix : Bool) (k : SKind) (s : RawSrc) : List (Nat × Bool) :=
  let sel := s.sel.toNat
  let idx := s.idx.toNat
  if k = .none then [(2, s != RawSrc.zero)]
  else
    ([(3, sel = 0 && idx ≥ alloc), (3, sel = 1 && idx > 767), (3, sel = 2 && idx > 3),
     (3, sel = 3 && idx > 203), (7, sel = 1 && !accs),
     (4, if matrix then s.last || s.keep
         else if sel = 0 then s.last && s.keep else if sel = 2 then s.keep else s.last || s.keep)] : List (Nat × Bool))
    ++ (match k with
      | .none | .any => []
      | .pair => [(4, sel != 0), (3, sel = 0 && idx % 2 = 1)]
      | .pairVQ => [(4, sel ≥ 2), (3, sel < 2 && idx % 2 = 1)]
      | .wide => [(4, sel = 2 || (sel = 3 && 192 ≤ idx && idx ≤ 255)),
                  (3, (sel < 2 && idx % 2 = 1) || (sel = 3 && idx < 64 && idx % 2 = 1))]
      | .quadData => [(4, sel != 0), (3, sel = 0 && idx % 4 != 0)]
      | .cap => [(4, sel != 0), (5, sel = 0 && idx % 4 != 0)]
      | .capAddr => [(4, sel = 1 || sel = 2 || (sel = 3 && idx ≥ 128) || ((sel = 0 || (sel = 3 && idx < 64)) && idx % 2 = 1))]
      | .uni => [(4, !(sel = 3 && idx ≤ 127))]
      | .uniF => [(4, !(sel = 3 && idx ≤ 191))]
      | .loop => [(4, !(sel = 3 && idx ≤ 63)), (3, sel = 3 && (idx = 62 || idx = 63))]
      | .v => [(4, sel != 0)]
      | .tile => [(4, !(sel = 1 && idx % 128 = 0 && idx < 768))])

/-- Causes that the destination, latch write and nowb may give (R43, R53, R65). -/
def dstCauses (alloc : Nat) (accs : Bool) (sp : LaneSpec) (r : RawLane) : List (Nat × Bool) :=
  let sel := r.dsel.toNat
  let idx := r.didx.toNat
  let lat := r.lat.toNat
  let kOk : Bool := sp.d = .regK || sp.d = .kOnly
  let n := match sp.d with | .run n => n | _ => 1
  if sp.d = .none then [(2, sel != 0 || idx != 0), (if sp.lat then 2 else 4, lat != 0 || r.nowb)]
  else
    ([(4, sel = 2), (4, sel = 3 && (!kOk || idx = 0)), (3, sel = 3 && kOk && idx > 15),
     (3, sel = 0 && !r.nowb && idx + n > alloc), (3, sel = 1 && idx + n > 768), (7, sel = 1 && !accs),
     (4, 1 ≤ lat && lat ≤ 3), (4, r.nowb && (lat < 4 || sel != 0 || idx != 0)),
     (4, !sp.lat && (lat != 0 || r.nowb)), (4, sel = 3 && lat != 0)] : List (Nat × Bool))
    ++ (match sp.d with
      | .none | .reg | .regK => []
      | .kOnly => [(4, sel != 3)]
      | .vOnly => [(4, sel != 0)]
      | .pair | .pairM => [(3, sel < 2 && idx % 2 = 1)]
      | .quadM => [(3, sel < 2 && idx % 4 != 0)]
      | .cap => [(4, sel != 0), (5, sel = 0 && idx % 4 != 0)]
      | .tile => [(4, !(sel = 1 && idx % 128 = 0))]
      | .run _ => [(4, sel != 0)])

/-- The lowest code whose cause holds (R65). -/
def worst (l : List (Nat × Bool)) : Option Nat := ((l.filter (·.2)).map (·.1)).min?

/-- The ILLEGAL code of a lane word in a group with `alloc` v registers and, if `accs`, a matrix context (R65); none
when the word is legal. Codes 6, 8 and 9 need the block or the context and are found at issue, but for R131. -/
def laneCode (alloc : Nat) (accs : Bool) (r : RawLane) : Option Nat :=
  match laneSpec r.op.toNat r.mods.toNat r.imods.toNat with
  | none => some 1
  | some sp =>
    worst ([(2, r.low != 0), (2, sp.bad)] ++ dstCauses alloc accs sp r
      ++ srcCauses alloc accs sp.matrix sp.a r.a ++ srcCauses alloc accs sp.matrix sp.b r.b
      ++ (if sp.iform then [] else srcCauses alloc accs sp.matrix sp.c r.c)
      ++ [(2, sp.matrix && (r.pred != 0 || r.neg)), (7, sp.matrix && !accs),
          (6, r.op = 0x01F && r.mods.toNat / 2 % 4 != 1 && r.lat != 0)] ++ sp.more)

/-- The modifier bits 22..7 of an arithmetic instruction (R45). -/
def AMods.bits (m : AMods) : BitVec 16 :=
  BitVec.ofNat 5 m.ty.code ++ BitVec.ofNat 3 m.rnd.code ++ ofBit m.ftz ++ ofBit m.sat ++ m.x

/-- The modifier bits 22..7 of a memory instruction (R45). -/
def MMods.bits (m : MMods) : BitVec 16 :=
  BitVec.ofNat 5 m.ty.code ++ BitVec.ofNat 3 m.scope.code ++ BitVec.ofNat 2 m.atom.code ++ m.x

/-- The fields of a lane word from its shared fields, opcode and modifier bits. -/
def LaneHdr.raw (h : LaneHdr) (op : Nat) (m : BitVec 16) : RawLane :=
  { op := BitVec.ofNat 10 op, dsel := h.dst.raw.1, didx := h.dst.raw.2, lat := latRaw h.lat, nowb := h.nowb,
    a := h.a.raw, b := h.b.raw, tail := mkTail h.c.raw h.pred h.neg m }

/-- The fields of an I-form. -/
def IHdr.raw (h : IHdr) (op : Nat) (imm : Word) (m : BitVec 3) : RawLane :=
  { op := BitVec.ofNat 10 op, dsel := h.dst.raw.1, didx := h.dst.raw.2, lat := latRaw h.lat, nowb := h.nowb,
    a := h.a.raw, b := .zero, tail := mkITail imm m }

/-- The lane word of an instruction, by fields; none for an instruction that is no lane word. -/
def Instr.laneRaw : Instr → Option RawLane
  | .lnop p n => some (RawLane.mk 0 0 0 0 false .zero .zero (mkTail .zero p n 0))
  | .mov h m => some (h.raw 0x001 m.bits)
  | .movi h imm m => some (h.raw 0x002 imm m)
  | .iadd h m => some (h.raw 0x003 m.bits)
  | .isub h m => some (h.raw 0x004 m.bits)
  | .iaddi h imm m => some (h.raw 0x005 imm m)
  | .imul h m => some (h.raw 0x006 m.bits)
  | .imulh h m => some (h.raw 0x007 m.bits)
  | .imad h m => some (h.raw 0x008 m.bits)
  | .imadw h m => some (h.raw 0x009 m.bits)
  | .iabs h m => some (h.raw 0x00A m.bits)
  | .imin h m => some (h.raw 0x00B m.bits)
  | .imax h m => some (h.raw 0x00C m.bits)
  | .andLane h m => some (h.raw 0x00D m.bits)
  | .orLane h m => some (h.raw 0x00E m.bits)
  | .xorLane h m => some (h.raw 0x00F m.bits)
  | .bool3 h m => some (h.raw 0x010 m.bits)
  | .shlLane h m => some (h.raw 0x011 m.bits)
  | .shrLane h m => some (h.raw 0x012 m.bits)
  | .sarLane h m => some (h.raw 0x013 m.bits)
  | .wshift h m => some (h.raw 0x014 m.bits)
  | .extr h m => some (h.raw 0x015 m.bits)
  | .insr h m => some (h.raw 0x016 m.bits)
  | .popcLane h m => some (h.raw 0x017 m.bits)
  | .clzLane h m => some (h.raw 0x018 m.bits)
  | .bitrev h m => some (h.raw 0x019 m.bits)
  | .bswz h m => some (h.raw 0x01A m.bits)
  | .icmp h m => some (h.raw 0x01B m.bits)
  | .selLane h m => some (h.raw 0x01C m.bits)
  | .idot4 h m => some (h.raw 0x01D m.bits)
  | .isad h m => some (h.raw 0x01E m.bits)
  | .nbr h m => some (h.raw 0x01F m.bits)
  | .lbcast h m => some (h.raw 0x020 m.bits)
  | .fadd h m => some (h.raw 0x100 m.bits)
  | .fsub h m => some (h.raw 0x101 m.bits)
  | .fmul h m => some (h.raw 0x102 m.bits)
  | .ffma h m => some (h.raw 0x103 m.bits)
  | .fmin h m => some (h.raw 0x104 m.bits)
  | .fmax h m => some (h.raw 0x105 m.bits)
  | .fcmp h m => some (h.raw 0x106 m.bits)
  | .fclass h m => some (h.raw 0x107 m.bits)
  | .fdiv h m => some (h.raw 0x108 m.bits)
  | .fsqrt h m => some (h.raw 0x109 m.bits)
  | .frcp h m => some (h.raw 0x10A m.bits)
  | .frsq h m => some (h.raw 0x10B m.bits)
  | .fexp2 h m => some (h.raw 0x10C m.bits)
  | .flog2 h m => some (h.raw 0x10D m.bits)
  | .fsin h m => some (h.raw 0x10E m.bits)
  | .fcos h m => some (h.raw 0x10F m.bits)
  | .ftanh h m => some (h.raw 0x110 m.bits)
  | .frnd h m => some (h.raw 0x111 m.bits)
  | .fscale h m => some (h.raw 0x112 m.bits)
  | .pkadd h m => some (h.raw 0x113 m.bits)
  | .pkmul h m => some (h.raw 0x114 m.bits)
  | .pkfma h m => some (h.raw 0x115 m.bits)
  | .dadd h m => some (h.raw 0x116 m.bits)
  | .dmul h m => some (h.raw 0x117 m.bits)
  | .dfma h m => some (h.raw 0x118 m.bits)
  | .cvt h m => some (h.raw 0x119 m.bits)
  | .pack h m => some (h.raw 0x11A m.bits)
  | .unpack h m => some (h.raw 0x11B m.bits)
  | .qblk h m => some (h.raw 0x11C m.bits)
  | .dqblk h m => some (h.raw 0x11D m.bits)
  | .vcget h m => some (h.raw 0x200 m)
  | .vcseta h m => some (h.raw 0x201 m)
  | .vcinc h m => some (h.raw 0x202 m)
  | .vcsetb h m => some (h.raw 0x203 m)
  | .vcandp h m => some (h.raw 0x204 m)
  | .vctest h m => some (h.raw 0x205 m)
  | .vcmov h m => some (h.raw 0x206 m)
  | .vcclr h m => some (h.raw 0x207 m)
  | .vcderive h m => some (h.raw 0x208 m)
  | .ld h m => some (h.raw 0x240 m.bits)
  | .st h m => some (h.raw 0x241 m.bits)
  | .ldc h m => some (h.raw 0x242 m.bits)
  | .ldcX h m => some (h.raw 0x242 m.bits)
  | .stc h m => some (h.raw 0x243 m.bits)
  | .stcX h m => some (h.raw 0x243 m.bits)
  | .ldx h m => some (h.raw 0x244 m.bits)
  | .stx h m => some (h.raw 0x245 m.bits)
  | .lds h m => some (h.raw 0x246 m.bits)
  | .sts h m => some (h.raw 0x247 m.bits)
  | .atom h m => some (h.raw 0x248 m.bits)
  | .red h m => some (h.raw 0x249 m.bits)
  | .atoms h m => some (h.raw 0x24A m.bits)
  | .matchL h m => some (h.raw 0x24B m.bits)
  | .ldsum h m => some (h.raw 0x24C m.bits)
  | .stm h m => some (h.raw 0x24D m.bits)
  | .redsp h m => some (h.raw 0x24E m.bits)
  | .stt h m => some (h.raw 0x24F m)
  | .mloop h m => some (h.raw 0x2C0 m)
  | .mstep h m => some (h.raw 0x2C1 m)
  | .mzero h m => some (h.raw 0x2C2 m)
  | .mlda h m => some (h.raw 0x2C3 m)
  | .msta h m => some (h.raw 0x2C4 m)
  | .mjoin h m => some (h.raw 0x2C5 m)
  | .mjoinDrop h m => some (h.raw 0x2C5 m)
  | .mctxAcq h m => some (h.raw 0x2C6 m)
  | .mctxRel h m => some (h.raw 0x2C6 m)
  | .mscale h m => some (h.raw 0x2C7 m)
  | .mchk h m => some (h.raw 0x2C8 m)
  | .mepi h m => some (h.raw 0x2C9 m)
  | _ => none

/-- The constraints that tell two constructors of one lane opcode apart (R213, R326, R327). -/
def Instr.laneForm : Instr → Bool
  | .ldc _ m | .stc _ m => !m.x.getLsbD 5
  | .ldcX _ m | .stcX _ m => m.x.getLsbD 5
  | .mjoin _ m | .mctxAcq _ m => !m.getLsbD 0
  | .mjoinDrop _ m | .mctxRel _ m => m.getLsbD 0
  | _ => true

/-- The fields that a scalar instruction may not hold although its constructor could (R38, R39 and the owning rules). -/
def Instr.scalarOk : Instr → Bool
  | .brc c _ _ => c ≤ 5
  | .brk c _ _ => c ≤ 3
  | .kmov kd sa b => kd != 0 && (b != 3 || sa ≤ 61)
  | .skmov sd _ b => b != 3 || sd ≤ 61
  | .kop kd _ kb op => kd != 0 && op ≤ 6 && (op ≤ 4 || kb = 0)
  | .smov _ code => code ≤ 14
  | .smovWrite _ code => code = 9 || code = 10
  | .smovw sd sa n => 1 ≤ n && n ≤ 16 && sd.toNat + n.toNat ≤ 64 && sa.toNat + n.toNat ≤ 64
  | .tcopy _ _ sb _ _ => sb ≤ 61
  | .tcopyG cd _ sb _ _ => sb ≤ 61 && cd ≤ 30
  | .tstore _ _ sb _ _ => sb ≤ 61
  | .tmcast _ _ sb _ _ => sb ≤ 60
  | .treduce _ _ sb op _ _ => sb ≤ 61 && op ≤ 2
  | .celaunch cd _ sb _ _ | .celaunchDetach cd _ sb _ _ => cd ≤ 24 && sb ≤ 62
  | .arrive _ sb w | .expect _ sb w => !w || sb ≤ 62
  | .cget ca _ f => f ≤ 13 || ca = 0
  | .cseta _ _ sb _ => sb ≤ 62
  | .cinc _ _ sb w _ | .csetb _ _ sb w _ => !w || sb ≤ 62
  | .ctest _ _ f => f ≤ 5 && f != 3
  | .frec _ i => i ≤ 21
  | .monrd _ _ f => f ≤ 35
  | .syswr _ n | .sysrd _ n => sysKnown n.toNat
  | _ => true
where
  /-- The assigned system register numbers (R432, R445, R466). -/
  sysKnown (n : Nat) : Bool :=
    n ≤ 2 || (0x10 ≤ n && n ≤ 0x12) || n = 0x20 || (0x30 ≤ n && n ≤ 0x33) || (0x40 ≤ n && n ≤ 0x47) || (0x50 ≤ n && n ≤ 0x55)
    || (0x100 ≤ n && n ≤ 0x107) || (0x200 ≤ n && n ≤ 0x223)

/-- The unused fields of a CE command's word 0 are zero and t and m are defined (R355); op is the command's code. -/
def CeFields.ok (f : CeFields) (op : Nat) : Bool :=
  let u (s d k nb t x ix m l : Bool) : Bool :=
    (s || f.s = 0) && (d || f.d = 0) && (k || f.k = 0) && (nb || !f.nb) && (t || f.t = 0) && (x || f.x = 0)
    && (ix || !f.ix) && (m || f.m = 0) && (l || f.l = 0)
  match op with
  | 0 | 15 => u false false false false false false false false false
  | 1 => u false true false false true true true false true && f.t ≤ 1
  | 2 | 3 | 5 => u true true true true false true true false true
  | 4 => u true true true true true true true true true && f.t ≤ 2 && f.m ≤ 2
  | 6 => u false false true false false true true false true
  | 7 => u false false true false false false false false true
  | 8 => u false true false false true true true false true && f.t ≤ 1
  | 9 => u false false false false false true false false true
  | 10 => u false false false false false true false true true && f.m ≤ 3
  | 11 => u false false false false false true false false true
  | 12 => u true false true true false true true false true
  | 13 => u false true true true false true true false true
  | 14 => u true (f.m.toNat / 16 % 2 = 0) true true false false false true true && f.m ≤ 31 && f.m.toNat % 16 != 0
  | _ => false

/-- The unused parts of an ESNAP's later words are zero (R354, R355). -/
def snapWords (f : CeFields) (w1 w2 : DWord) : Bool :=
  if f.m.toNat / 16 % 2 = 1 then w1.toNat / 2 ^ 58 = 0 else w2 = 0

/-- The constraints on a CE command (R355). -/
def Instr.ceOk : Instr → Bool
  | .esend f _ => f.ok 1
  | .eput f _ _ => f.ok 2
  | .eget f _ _ => f.ok 3
  | .ered f _ _ => f.ok 4
  | .emcast f _ _ => f.ok 5
  | .ewait f => f.ok 6
  | .earrive f => f.ok 7
  | .esig f _ => f.ok 8
  | .eadd f => f.ok 9
  | .ebr f => f.ok 10
  | .eloop f => f.ok 11
  | .enput f _ => f.ok 12
  | .enget f _ => f.ok 13
  | .esnap f w1 w2 => f.ok 14 && snapWords f w1 w2
  | _ => true

/-- The constraints on a queue record (R383). -/
def Instr.queueOk : Instr → Bool
  | .qlaunch _ blk sem _ | .qtask _ _ blk sem _ => blk.toNat % 64 = 0 && sem.toNat % 8 = 0
  | .qwait _ c sem _ mask => sem.toNat % 8 = 0 && (c = 6 || mask = 0)
  | .qsignal _ op sem _ => op ≤ 2 && sem.toNat % 8 = 0
  | .qgraph _ op obj | .qphase _ op obj | .qjob _ op obj => op ≤ 2 && (op != 2 || obj = 0)
  | .qcancel _ k obj => 1 ≤ k && k ≤ 4 && (k != 4 || obj ≤ 63)
  | .qcount _ k _ target => 1 ≤ k && k ≤ 3 && target.toNat % 16 = 0
  | _ => true

/-- An instruction that the encoding rules admit. A lane word is judged in a group with 256 v registers and a matrix
context; a smaller allocation or no context refuses more (R65 codes 3 and 7). Events have no encoding. -/
def Instr.wf (i : Instr) : Bool :=
  i.laneForm && i.scalarOk && i.ceOk && i.queueOk
  && (match i.laneRaw with | some r => laneCode 256 true r = none | none => true)

end Sys2Proof
end

