-- ==== Sys2Proof/Decode.lean ====
section
/-! DEFINITION. Decoding and encoding of scalar words, lane words, CE commands and queue records
(spec/02_instruction_words.md R37 to R66, R354, R355, R383). -/

namespace Sys2Proof

/-- Why bytes decode to no instruction. -/
inductive Reject where
  /-- ILLEGAL with the lowest code that applies (R65) -/
  | illegal (code : Nat)
  /-- a CE command that breaks R355: detail 1 or 2 -/
  | ce (detail : Nat)
  /-- a queue record that fails with code 1 or 2 and this DETAIL (R384) -/
  | queue (code detail : Nat)
  /-- too few bytes -/
  | short
  deriving DecidableEq, Repr, Inhabited

/-- An instruction unless some cause applies; the lowest code is given (R65). -/
def orCode (cs : List (Nat × Bool)) (i : Instr) : Except Nat Instr :=
  match worst cs with
  | none => .ok i
  | some c => .error c

namespace Sc

/-- The fields of a scalar word (R37). -/
def op (w : Word) : Nat := (w.extractLsb' 25 7).toNat
def sd (w : Word) : BitVec 6 := w.extractLsb' 19 6
def sa (w : Word) : BitVec 6 := w.extractLsb' 13 6
def sb (w : Word) : BitVec 6 := w.extractLsb' 7 6
def fn7 (w : Word) : BitVec 7 := w.extractLsb' 0 7
def imm13 (w : Word) : BitVec 13 := w.extractLsb' 0 13
def imm19 (w : Word) : BitVec 19 := w.extractLsb' 0 19
def cf (w : Word) : BitVec 4 := w.extractLsb' 21 4
def ba (w : Word) : BitVec 6 := w.extractLsb' 15 6
def off15 (w : Word) : BitVec 15 := w.extractLsb' 0 15
def off25 (w : Word) : BitVec 25 := w.extractLsb' 0 25
def len (w : Word) : BitVec 5 := w.extractLsb' 20 5
def fl (w : Word) : BitVec 4 := w.extractLsb' 16 4
def loff16 (w : Word) : BitVec 16 := w.extractLsb' 0 16
def cd (w : Word) : BitVec 5 := w.extractLsb' 20 5
def ca (w : Word) : BitVec 5 := w.extractLsb' 15 5
def csb (w : Word) : BitVec 6 := w.extractLsb' 9 6
def fn9 (w : Word) : BitVec 9 := w.extractLsb' 0 9
def mca (w : Word) : BitVec 5 := w.extractLsb' 14 5
def imm14 (w : Word) : BitVec 14 := w.extractLsb' 0 14

/-- A flag bit of fn. -/
def fb (w : Word) (i : Nat) : Bool := w.getLsbD i

/-- A k register named by a 6-bit field. -/
def kr (x : BitVec 6) : KReg := x.truncate 4
/-- A 6-bit field names no k register (R38). -/
def badK (x : BitVec 6) : Nat × Bool := (3, x > 15)
/-- A field that must be zero (R39). -/
def z {n : Nat} (x : BitVec n) : Nat × Bool := (2, x != 0)

/-- Scalar opcodes 0x00 to 0x14 (R87 to R99, R109, R113). -/
def control (w : Word) : Except Nat Instr :=
  match op w with
  | 0x00 => orCode [z (w.extractLsb' 0 25)] .snop
  | 0x01 => .ok (.br (off25 w))
  | 0x02 => orCode [(2, cf w > 5)] (.brc (cf w) (ba w) (off15 w))
  | 0x03 => orCode [(2, cf w > 3), badK (ba w)] (.brk (cf w) (kr (ba w)) (off15 w))
  | 0x04 => orCode [(2, cf w > 1), badK (ba w)] (.bdiv (cf w = 1) (kr (ba w)) (off15 w))
  | 0x05 => orCode [z (w.extractLsb' 0 25)] .merge
  | 0x06 => .ok (.call (off25 w))
  | 0x07 => orCode [z (csb w), z (fn9 w)] (.calli (cd w) (ca w))
  | 0x08 => orCode [z (cd w), z (csb w), z (fn9 w)] (.ret (ca w))
  | 0x09 => orCode [z (cd w), z (fn9 w)] (.jmpi (ca w) (csb w))
  | 0x0A => orCode [z (fl w)] (.execBlk (len w) (loff16 w))
  | 0x0B => orCode [z (fl w)] (.execwBlk (len w) (loff16 w))
  | 0x0C => if fn9 w = 0 then orCode [z (cd w), z (csb w)] (.lcb (ca w))
            else if fn9 w = 1 then orCode [z (ca w), z (csb w)] (.lcbGet (cd w))
            else .error 2
  | 0x0D => orCode [z (sb w), z (fn7 w)] (.compact (sd w) (sa w))
  | 0x0E => orCode [z (sa w), z (sb w), z (fn7 w)] (.uncompact (sd w))
  | 0x0F => orCode [z (sd w), z (sb w), z (fn7 w)] (.yieldS (sa w))
  | 0x10 => orCode [z (w.extractLsb' 0 25)] .exit
  | 0x11 => orCode [z (sa w), z (sb w), z (fn7 w)] (.splitq (sd w))
  | 0x12 => orCode [z (cf w)] (.dbnz (ba w) (off15 w))
  | 0x13 => orCode [z (fn7 w)] (.vread (sd w) (sa w) (sb w))
  | 0x14 => orCode [z (fn7 w)] (.vwrite (sd w) (sa w) (sb w))
  | _ => .error 1

/-- Scalar opcodes 0x20 to 0x3D (R103 to R112). -/
def integer (w : Word) : Except Nat Instr :=
  match op w with
  | 0x20 => orCode [(2, fn7 w > 1)] (.add (sd w) (sa w) (sb w) (fb w 0))
  | 0x21 => orCode [(2, fn7 w > 1)] (.sub (sd w) (sa w) (sb w) (fb w 0))
  | 0x22 => .ok (.addi (sd w) (sa w) (imm13 w))
  | 0x23 => orCode [z (fn7 w)] (.mul (sd w) (sa w) (sb w))
  | 0x24 => orCode [(2, fn7 w > 1)] (.mulh (sd w) (sa w) (sb w) (fb w 0))
  | 0x25 => orCode [z (fn7 w)] (.and (sd w) (sa w) (sb w))
  | 0x26 => orCode [z (fn7 w)] (.or (sd w) (sa w) (sb w))
  | 0x27 => orCode [z (fn7 w)] (.xor (sd w) (sa w) (sb w))
  | 0x28 => .ok (.andi (sd w) (sa w) (imm13 w))
  | 0x29 => .ok (.ori (sd w) (sa w) (imm13 w))
  | 0x2A => .ok (.xori (sd w) (sa w) (imm13 w))
  | 0x2B => orCode [z (fn7 w)] (.shl (sd w) (sa w) (sb w))
  | 0x2C => orCode [z (fn7 w)] (.shr (sd w) (sa w) (sb w))
  | 0x2D => orCode [z (fn7 w)] (.sar (sd w) (sa w) (sb w))
  | 0x2E =>
    let n : BitVec 5 := w.extractLsb' 0 5
    let kind := (w.extractLsb' 5 2).toNat
    orCode [z (w.extractLsb' 7 6)]
      (if kind = 0 then .shli (sd w) (sa w) n else if kind = 1 then .shri (sd w) (sa w) n
       else if kind = 2 then .sari (sd w) (sa w) n else .rori (sd w) (sa w) n)
  | 0x2F => orCode [(2, fn7 w > 3)]
      (if fb w 1 then .max (sd w) (sa w) (sb w) (fb w 0) else .min (sd w) (sa w) (sb w) (fb w 0))
  | 0x30 => orCode [(2, fn7 w > 1)] (.slt (sd w) (sa w) (sb w) (fb w 0))
  | 0x31 => .ok (.slti (sd w) (sa w) (imm13 w))
  | 0x32 => .ok (.lui (sd w) (imm19 w))
  | 0x33 => orCode [z (sb w), z (fn7 w)] (.clz (sd w) (sa w))
  | 0x34 => orCode [z (sb w), z (fn7 w)] (.popc (sd w) (sa w))
  | 0x35 => orCode [(2, fn7 w > 63)] (.sel (sd w) (sa w) (sb w) ((fn7 w).truncate 6))
  | 0x36 => orCode [(2, fn7 w > 3)] (.div (sd w) (sa w) (sb w) (fb w 1) (fb w 0))
  | 0x37 => orCode [z (sb w), (2, fn7 w > 3), badK (sd w), (4, sd w = 0), (3, fn7 w = 3 && sa w > 61)]
      (.kmov (kr (sd w)) (sa w) ((fn7 w).truncate 2))
  | 0x38 => orCode [z (sb w), (2, fn7 w > 3), badK (sa w), (3, fn7 w = 3 && sd w > 61)]
      (.skmov (sd w) (kr (sa w)) ((fn7 w).truncate 2))
  | 0x39 => orCode [(2, fn7 w > 6), badK (sd w), badK (sa w), badK (sb w), (4, sd w = 0), (2, fn7 w > 4 && sb w != 0)]
      (.kop (kr (sd w)) (kr (sa w)) (kr (sb w)) ((fn7 w).truncate 3))
  | 0x3A => orCode [z (sb w), (2, fn7 w > 1), badK (sa w)] (.kpopc (sd w) (kr (sa w)) (fb w 0))
  | 0x3B => orCode [z (sb w), (2, fn7 w > 1), badK (sa w)] (.kfirst (sd w) (kr (sa w)) (fb w 0))
  | 0x3C => if fn7 w ≤ 14 then orCode [z (sb w), z (sa w)] (.smov (sd w) ((fn7 w).truncate 4))
            else if fn7 w = 73 || fn7 w = 74 then orCode [z (sb w), z (sd w)] (.smovWrite (sa w) ((fn7 w - 64).truncate 4))
            else .error 2
  | 0x3D =>
    let n := (imm13 w).toNat
    orCode [(2, n = 0 || n > 16), (3, (sd w).toNat + n > 64 || (sa w).toNat + n > 64)] (.smovw (sd w) (sa w) (imm13 w))
  | _ => .error 1

/-- A b register named by the cd field. -/
def bx (w : Word) : BRegIx := (cd w).truncate 3
def badB (w : Word) : Nat × Bool := (3, cd w > 7)

/-- Scalar opcodes 0x40 to 0x4F (R208, R220, R221, R224, R228, R256, R257). -/
def memory (w : Word) : Except Nat Instr :=
  match op w with
  | 0x40 => .ok (.sld (sd w) (mca w) (imm14 w))
  | 0x41 => .ok (.sst (sd w) (mca w) (imm14 w))
  | 0x42 => .ok (.sldc (cd w) (ca w) (csb w) (fn9 w))
  | 0x43 => .ok (.sstc (cd w) (ca w) (csb w) (fn9 w))
  | 0x44 => if fn9 w = 0 then orCode [z (csb w), badB w] (.xlate (bx w) (ca w))
            else if fn9 w = 1 then orCode [z (ca w), badB w] (.xlateLim (bx w) (csb w))
            else .error 2
  | 0x45 => if fn9 w = 0 then orCode [z (ca w), z (csb w), badB w] (.xdrop (bx w))
            else if fn9 w = 1 then orCode [z (cd w), z (ca w), z (csb w)] .xdropAll
            else .error 2
  | 0x46 => orCode [(2, fn9 w > 7)] (.map (cd w) (ca w) (csb w) ((fn9 w).truncate 3))
  | 0x47 => if fn9 w = 8 then orCode [z (cd w), z (ca w), z (csb w)] .unmapAll
            else orCode [z (cd w), z (ca w), z (csb w), (2, fn9 w > 8)] (.unmap ((fn9 w).truncate 3))
  | 0x48 => orCode [z (cd w), (2, fn9 w > 1)] (.cflush (ca w) (csb w) (fb w 0))
  | 0x49 => orCode [z (cd w), z (fn9 w)] (.cinv (ca w) (csb w))
  | 0x4A => orCode [z (cd w), z (fn9 w)] (.cdiscard (ca w) (csb w))
  | 0x4B => orCode [z (cd w), z (fn9 w)] (.cpin (ca w) (csb w))
  | 0x4C => orCode [z (cd w), z (fn9 w)] (.cunpin (ca w) (csb w))
  | 0x4D => orCode [z (cd w), (2, fn9 w > 1)] (.pref (ca w) (csb w) (fb w 0))
  | 0x4E => orCode [z (sd w), z (sa w), z (sb w), (2, fn7 w > 1)] (if fb w 0 then .commitClose else .commit)
  | 0x4F => if fn7 w = 0 then orCode [z (sd w), z (sb w)] (.solo (sa w))
            else if fn7 w = 1 then orCode [z (sd w), z (sa w), z (sb w)] .soloEnd
            else if fn7 w = 2 then orCode [z (sa w), z (sb w)] (.soloGet (sd w))
            else .error 2
  | _ => .error 1

/-- Scalar opcodes 0x50 to 0x5F (R282, R298, R299, R332, R346, R351, R365, R404). -/
def engine (w : Word) : Except Nat Instr :=
  match op w with
  | 0x50 => orCode [(2, fn9 w > 7), (3, csb w > 61), (3, fb w 2 && cd w = 31)]
      (if fb w 2 then .tcopyG (cd w) (ca w) (csb w) (fb w 1) (fb w 0) else .tcopy (cd w) (ca w) (csb w) (fb w 1) (fb w 0))
  | 0x51 => orCode [(2, fn9 w > 3), (3, csb w > 61)] (.tstore (cd w) (ca w) (csb w) (fb w 1) (fb w 0))
  | 0x52 => orCode [(2, fn9 w > 3), (3, csb w > 60)] (.tmcast (cd w) (ca w) (csb w) (fb w 1) (fb w 0))
  | 0x53 => orCode [(2, fn9 w > 31 || fb w 2 || w.extractLsb' 3 2 = 3#2), (3, csb w > 61)]
      (.treduce (cd w) (ca w) (csb w) (w.extractLsb' 3 2) (fb w 1) (fb w 0))
  | 0x54 => if fn7 w = 0 then orCode [z (sa w), z (sb w)] (.tstat (sd w))
            else if fn7 w = 1 then orCode [z (sb w)] (.tstatDone (sd w) (sa w))
            else if fn7 w = 2 then orCode [z (sd w), z (sa w), z (sb w)] .tstatDrop
            else .error 2
  | 0x55 => orCode [(2, fn9 w > 63), (3, cd w > 24), (3, csb w > 62)]
      (if fb w 5 then .celaunchDetach (cd w) (ca w) (csb w) (fb w 4) (w.extractLsb' 0 4)
       else .celaunch (cd w) (ca w) (csb w) (fb w 4) (w.extractLsb' 0 4))
  | 0x56 => if fn7 w = 0 then orCode [z (sa w), z (sb w)] (.cestat (sd w))
            else if fn7 w = 1 then orCode [z (sb w)] (.cestatDone (sd w) (sa w))
            else if fn7 w = 2 then orCode [z (sd w), z (sa w), z (sb w)] .cestatDrop
            else .error 2
  | 0x57 => orCode [z (cd w), (2, fn9 w > 3)] (.binit (ca w) (csb w) (fb w 1) (fb w 0))
  | 0x58 => orCode [z (cd w), (2, fn9 w > 1), (3, fb w 0 && csb w = 63)] (.arrive (ca w) (csb w) (fb w 0))
  | 0x59 => orCode [z (cd w), (2, fn9 w > 1), (3, fb w 0 && csb w = 63)] (.expect (ca w) (csb w) (fb w 0))
  | 0x5A => orCode [z (cd w), (2, fn9 w > 63)] (.waitph (ca w) (csb w) (w.extractLsb' 0 6))
  | 0x5B => orCode [(2, fn9 w > 63)] (.waitphy (cd w) (ca w) (csb w) (w.extractLsb' 0 6))
  | 0x5C => orCode [z (cd w), (2, fn9 w > 63)] (.btest (ca w) (csb w) (w.extractLsb' 0 6))
  | 0x5D => orCode [z (cd w), z (csb w), z (fn9 w)] (.spawn (ca w))
  | 0x5E => orCode [z (cd w), z (csb w), (2, fn9 w > 63)] (.joindec (ca w) (w.extractLsb' 0 6))
  | 0x5F => orCode [z (cd w), z (fn9 w)] (.launch (ca w) (csb w))
  | _ => .error 1

/-- A c register named by the sb field (R179). -/
def cb (w : Word) : CReg := (csb w).truncate 5

/-- Scalar opcodes 0x60 to 0x6E (R179 to R184, R189, R192). -/
def capability (w : Word) : Except Nat Instr :=
  match op w with
  | 0x60 => orCode [z (cd w), (2, fn9 w > 15), (2, fn9 w ≥ 14 && ca w != 0)] (.cget (ca w) (csb w) ((fn9 w).truncate 4))
  | 0x61 => orCode [(2, fn9 w > 1), (3, csb w = 63)] (.cseta (cd w) (ca w) (csb w) (fb w 0))
  | 0x62 => orCode [(2, fn9 w > 3), (3, fb w 1 && csb w = 63)] (.cinc (cd w) (ca w) (csb w) (fb w 1) (fb w 0))
  | 0x63 => .ok (.cinci (cd w) (ca w) (off15 w))
  | 0x64 => orCode [(2, fn9 w > 3), (3, fb w 1 && csb w = 63)] (.csetb (cd w) (ca w) (csb w) (fb w 1) (fb w 0))
  | 0x65 => .ok (.csetbi (cd w) (ca w) (off15 w))
  | 0x66 => orCode [z (fn9 w)] (.candp (cd w) (ca w) (csb w))
  | 0x67 => if fn9 w = 0 then orCode [(3, csb w > 31)] (.cseal (cd w) (ca w) (cb w))
            else if fn9 w = 1 then orCode [z (csb w)] (.csealSentry (cd w) (ca w))
            else .error 2
  | 0x68 => orCode [z (fn9 w), (3, csb w > 31)] (.cunseal (cd w) (ca w) (cb w))
  | 0x69 => if fn9 w = 3 then .ok (.ctestSubset (cd w) (ca w) (csb w))
            else orCode [z (cd w), (2, fn9 w > 5)] (.ctest (ca w) (csb w) ((fn9 w).truncate 3))
  | 0x6A => orCode [z (csb w), z (fn9 w)] (.cmov (cd w) (ca w))
  | 0x6B => if fn9 w = 0 then orCode [z (ca w), z (csb w)] (.cclr (cd w))
            else if fn9 w = 1 then orCode [z (ca w), z (csb w)] (.cclrTag (cd w))
            else .error 2
  | 0x6D => orCode [z (cd w), z (csb w), (2, fn9 w > 1)] (if fb w 0 then .revokeClear (ca w) else .revoke (ca w))
  | 0x6E => orCode [z (sa w), z (sb w), z (fn7 w)] (.rsweep (sd w))
  | _ => .error 1

/-- Scalar opcodes 0x70 to 0x7E (R415 to R417, R420, R421, R429, R431, R433, R457, R459, R465, R467). -/
def system (w : Word) : Except Nat Instr :=
  match op w with
  | 0x70 => orCode [z (sd w), z (sa w), (2, fb w 12)] (.trap (w.extractLsb' 0 12))
  | 0x71 => orCode [z (sd w), z (sa w), z (sb w), (2, fn7 w > 3)] (if fb w 0 then .tretSkip (fb w 1) else .tret (fb w 1))
  | 0x72 => if fn7 w = 32 then orCode [z (sa w), z (sb w), (3, sd w > 31)] (.frecCap ((sd w).truncate 5))
            else orCode [z (sa w), z (sb w), (2, fn7 w > 21)] (.frec (sd w) ((fn7 w).truncate 5))
  | 0x73 => orCode [z (cd w), z (fn9 w)] (.pgmap (ca w) (csb w))
  | 0x74 => orCode [z (sd w), z (sb w), z (fn7 w)] (.idemb (sa w))
  | 0x75 => orCode [z (w.extractLsb' 0 25)] .ideme
  | 0x76 => if fn7 w = 0 then orCode [z (sa w), z (sb w)] (.prmpt (sd w))
            else orCode [z (sd w), z (sa w), z (sb w), (2, fn7 w > 1)] .prmptNow
  | 0x77 => orCode [z (sa w), (2, fb w 12), (2, !Instr.scalarOk.sysKnown (w.extractLsb' 0 12).toNat)]
      (.sysrd (sd w) (w.extractLsb' 0 12))
  | 0x78 => orCode [z (sd w), (2, fb w 12), (2, !Instr.scalarOk.sysKnown (w.extractLsb' 0 12).toNat)]
      (.syswr (sa w) (w.extractLsb' 0 12))
  | 0x79 => orCode [z (fn7 w)] (.moncfg (sd w) (sa w) (sb w))
  | 0x7A => orCode [z (sb w), (2, fn7 w > 35)] (.monrd (sd w) (sa w) (fn7 w))
  | 0x7B => orCode [z (sb w), z (fn7 w)] (.pclear (sd w) (sa w))
  | 0x7C => orCode [z (cd w), z (fn9 w)] (.scrub (ca w) (csb w))
  | 0x7D =>
    if fn9 w = 0 then orCode [z (cd w)] (.fabcfgWin (ca w) (csb w))
    else if fn9 w = 1 then orCode [z (cd w)] (.fabcfgWinrm (ca w) (csb w))
    else if fn9 w = 2 then orCode [z (cd w)] (.fabcfgMcast (ca w) (csb w))
    else if fn9 w = 3 then orCode [z (cd w)] (.fabcfgPlane (ca w) (csb w))
    else if fn9 w = 4 then orCode [z (cd w)] (.fabcfgEp (ca w) (csb w))
    else if fn9 w = 5 then orCode [z (cd w)] (.fabcfgRegion (ca w) (csb w))
    else .error 2
  | 0x7E => orCode [z (fn9 w)] (.attest (cd w) (ca w) (csb w))
  | _ => .error 1

end Sc

/-- The instruction of a scalar word, or the ILLEGAL code (R60, R65). -/
def decodeScalar (w : Word) : Except Nat Instr :=
  if Sc.op w < 0x20 then Sc.control w
  else if Sc.op w < 0x40 then Sc.integer w
  else if Sc.op w < 0x50 then Sc.memory w
  else if Sc.op w < 0x60 then Sc.engine w
  else if Sc.op w < 0x70 then Sc.capability w
  else Sc.system w

/-- The fields of a lane word (R40). -/
def RawLane.ofWord (w : LaneWord) : RawLane :=
  { op := w.extractLsb' 86 10, dsel := w.extractLsb' 84 2, didx := w.extractLsb' 74 10, lat := w.extractLsb' 71 3,
    nowb := bit1 (w.extractLsb' 70 1), a := .ofBits (w.extractLsb' 56 14), b := .ofBits (w.extractLsb' 42 14),
    tail := w.extractLsb' 0 42 }

/-- The lane word of its fields. -/
def RawLane.word (r : RawLane) : LaneWord :=
  r.op ++ r.dsel ++ r.didx ++ r.lat ++ ofBit r.nowb ++ r.a.bits ++ r.b.bits ++ r.tail

/-- The shared fields of a lane word. -/
def RawLane.hdr (r : RawLane) : LaneHdr :=
  { dst := dstOf r.dsel r.didx, lat := latOf r.lat, nowb := r.nowb, a := r.a.src, b := r.b.src, c := r.c.src,
    pred := r.pred, neg := r.neg }

/-- The shared fields of an I-form. -/
def RawLane.ihdr (r : RawLane) : IHdr := { dst := dstOf r.dsel r.didx, lat := latOf r.lat, nowb := r.nowb, a := r.a.src }

/-- Arithmetic modifiers from bits 22..7. -/
def amodsOf (m : BitVec 16) : AMods :=
  { ty := (Ty.ofCode (m.extractLsb' 11 5).toNat).getD .dflt, rnd := (Rnd.ofCode (m.extractLsb' 8 3).toNat).getD .rne,
    ftz := bit1 (m.extractLsb' 7 1), sat := bit1 (m.extractLsb' 6 1), x := m.extractLsb' 0 6 }

/-- Memory modifiers from bits 22..7. -/
def mmodsOf (m : BitVec 16) : MMods :=
  { ty := (Ty.ofCode (m.extractLsb' 11 5).toNat).getD .dflt, scope := (Scope.ofCode (m.extractLsb' 8 3).toNat).getD .dflt,
    atom := (Atom.ofCode (m.extractLsb' 6 2).toNat).getD .none, x := m.extractLsb' 0 6 }

namespace Ln

/-- Lane opcodes 0x000 to 0x020 (R117). -/
def integer (r : RawLane) : Option Instr :=
  match r.op.toNat with
  | 0x000 => some (.lnop r.pred r.neg)
  | 0x001 => some (.mov r.hdr (amodsOf r.mods))
  | 0x002 => some (.movi r.ihdr r.imm r.imods)
  | 0x003 => some (.iadd r.hdr (amodsOf r.mods))
  | 0x004 => some (.isub r.hdr (amodsOf r.mods))
  | 0x005 => some (.iaddi r.ihdr r.imm r.imods)
  | 0x006 => some (.imul r.hdr (amodsOf r.mods))
  | 0x007 => some (.imulh r.hdr (amodsOf r.mods))
  | 0x008 => some (.imad r.hdr (amodsOf r.mods))
  | 0x009 => some (.imadw r.hdr (amodsOf r.mods))
  | 0x00A => some (.iabs r.hdr (amodsOf r.mods))
  | 0x00B => some (.imin r.hdr (amodsOf r.mods))
  | 0x00C => some (.imax r.hdr (amodsOf r.mods))
  | 0x00D => some (.andLane r.hdr (amodsOf r.mods))
  | 0x00E => some (.orLane r.hdr (amodsOf r.mods))
  | 0x00F => some (.xorLane r.hdr (amodsOf r.mods))
  | 0x010 => some (.bool3 r.hdr (amodsOf r.mods))
  | 0x011 => some (.shlLane r.hdr (amodsOf r.mods))
  | 0x012 => some (.shrLane r.hdr (amodsOf r.mods))
  | 0x013 => some (.sarLane r.hdr (amodsOf r.mods))
  | 0x014 => some (.wshift r.hdr (amodsOf r.mods))
  | 0x015 => some (.extr r.hdr (amodsOf r.mods))
  | 0x016 => some (.insr r.hdr (amodsOf r.mods))
  | 0x017 => some (.popcLane r.hdr (amodsOf r.mods))
  | 0x018 => some (.clzLane r.hdr (amodsOf r.mods))
  | 0x019 => some (.bitrev r.hdr (amodsOf r.mods))
  | 0x01A => some (.bswz r.hdr (amodsOf r.mods))
  | 0x01B => some (.icmp r.hdr (amodsOf r.mods))
  | 0x01C => some (.selLane r.hdr (amodsOf r.mods))
  | 0x01D => some (.idot4 r.hdr (amodsOf r.mods))
  | 0x01E => some (.isad r.hdr (amodsOf r.mods))
  | 0x01F => some (.nbr r.hdr (amodsOf r.mods))
  | 0x020 => some (.lbcast r.hdr (amodsOf r.mods))
  | _ => none

/-- Lane opcodes 0x100 to 0x11D (R148). -/
def float (r : RawLane) : Option Instr :=
  match r.op.toNat with
  | 0x100 => some (.fadd r.hdr (amodsOf r.mods))
  | 0x101 => some (.fsub r.hdr (amodsOf r.mods))
  | 0x102 => some (.fmul r.hdr (amodsOf r.mods))
  | 0x103 => some (.ffma r.hdr (amodsOf r.mods))
  | 0x104 => some (.fmin r.hdr (amodsOf r.mods))
  | 0x105 => some (.fmax r.hdr (amodsOf r.mods))
  | 0x106 => some (.fcmp r.hdr (amodsOf r.mods))
  | 0x107 => some (.fclass r.hdr (amodsOf r.mods))
  | 0x108 => some (.fdiv r.hdr (amodsOf r.mods))
  | 0x109 => some (.fsqrt r.hdr (amodsOf r.mods))
  | 0x10A => some (.frcp r.hdr (amodsOf r.mods))
  | 0x10B => some (.frsq r.hdr (amodsOf r.mods))
  | 0x10C => some (.fexp2 r.hdr (amodsOf r.mods))
  | 0x10D => some (.flog2 r.hdr (amodsOf r.mods))
  | 0x10E => some (.fsin r.hdr (amodsOf r.mods))
  | 0x10F => some (.fcos r.hdr (amodsOf r.mods))
  | 0x110 => some (.ftanh r.hdr (amodsOf r.mods))
  | 0x111 => some (.frnd r.hdr (amodsOf r.mods))
  | 0x112 => some (.fscale r.hdr (amodsOf r.mods))
  | 0x113 => some (.pkadd r.hdr (amodsOf r.mods))
  | 0x114 => some (.pkmul r.hdr (amodsOf r.mods))
  | 0x115 => some (.pkfma r.hdr (amodsOf r.mods))
  | 0x116 => some (.dadd r.hdr (amodsOf r.mods))
  | 0x117 => some (.dmul r.hdr (amodsOf r.mods))
  | 0x118 => some (.dfma r.hdr (amodsOf r.mods))
  | 0x119 => some (.cvt r.hdr (amodsOf r.mods))
  | 0x11A => some (.pack r.hdr (amodsOf r.mods))
  | 0x11B => some (.unpack r.hdr (amodsOf r.mods))
  | 0x11C => some (.qblk r.hdr (amodsOf r.mods))
  | 0x11D => some (.dqblk r.hdr (amodsOf r.mods))
  | _ => none

/-- Lane opcodes 0x200 to 0x208 (R186). -/
def cap (r : RawLane) : Option Instr :=
  match r.op.toNat with
  | 0x200 => some (.vcget r.hdr r.mods)
  | 0x201 => some (.vcseta r.hdr r.mods)
  | 0x202 => some (.vcinc r.hdr r.mods)
  | 0x203 => some (.vcsetb r.hdr r.mods)
  | 0x204 => some (.vcandp r.hdr r.mods)
  | 0x205 => some (.vctest r.hdr r.mods)
  | 0x206 => some (.vcmov r.hdr r.mods)
  | 0x207 => some (.vcclr r.hdr r.mods)
  | 0x208 => some (.vcderive r.hdr r.mods)
  | _ => none

/-- Lane opcodes 0x240 to 0x24F (R213, R258 to R275). -/
def mem (r : RawLane) : Option Instr :=
  match r.op.toNat with
  | 0x240 => some (.ld r.hdr (mmodsOf r.mods))
  | 0x241 => some (.st r.hdr (mmodsOf r.mods))
  | 0x242 => some (if r.mods.getLsbD 5 then .ldcX r.hdr (mmodsOf r.mods) else .ldc r.hdr (mmodsOf r.mods))
  | 0x243 => some (if r.mods.getLsbD 5 then .stcX r.hdr (mmodsOf r.mods) else .stc r.hdr (mmodsOf r.mods))
  | 0x244 => some (.ldx r.hdr (mmodsOf r.mods))
  | 0x245 => some (.stx r.hdr (mmodsOf r.mods))
  | 0x246 => some (.lds r.hdr (mmodsOf r.mods))
  | 0x247 => some (.sts r.hdr (mmodsOf r.mods))
  | 0x248 => some (.atom r.hdr (mmodsOf r.mods))
  | 0x249 => some (.red r.hdr (mmodsOf r.mods))
  | 0x24A => some (.atoms r.hdr (mmodsOf r.mods))
  | 0x24B => some (.matchL r.hdr (mmodsOf r.mods))
  | 0x24C => some (.ldsum r.hdr (mmodsOf r.mods))
  | 0x24D => some (.stm r.hdr (mmodsOf r.mods))
  | 0x24E => some (.redsp r.hdr (mmodsOf r.mods))
  | 0x24F => some (.stt r.hdr r.mods)
  | _ => none

/-- Lane opcodes 0x2C0 to 0x2C9 (R314 to R328). -/
def mat (r : RawLane) : Option Instr :=
  match r.op.toNat with
  | 0x2C0 => some (.mloop r.hdr r.mods)
  | 0x2C1 => some (.mstep r.hdr r.mods)
  | 0x2C2 => some (.mzero r.hdr r.mods)
  | 0x2C3 => some (.mlda r.hdr r.mods)
  | 0x2C4 => some (.msta r.hdr r.mods)
  | 0x2C5 => some (if r.mods.getLsbD 0 then .mjoinDrop r.hdr r.mods else .mjoin r.hdr r.mods)
  | 0x2C6 => some (if r.mods.getLsbD 0 then .mctxRel r.hdr r.mods else .mctxAcq r.hdr r.mods)
  | 0x2C7 => some (.mscale r.hdr r.mods)
  | 0x2C8 => some (.mchk r.hdr r.mods)
  | 0x2C9 => some (.mepi r.hdr r.mods)
  | _ => none

end Ln

/-- The instruction of the fields of a lane word, apart from their legality. -/
def RawLane.build (r : RawLane) : Option Instr :=
  if r.op.toNat < 0x100 then Ln.integer r
  else if r.op.toNat < 0x200 then Ln.float r
  else if r.op.toNat < 0x240 then Ln.cap r
  else if r.op.toNat < 0x2C0 then Ln.mem r
  else Ln.mat r

/-- The instruction of a lane word in a group with `alloc` v registers and, if `accs`, a matrix context, or the ILLEGAL
code (R61, R64, R65). -/
def decodeLane (alloc : Nat) (accs : Bool) (w : LaneWord) : Except Nat Instr :=
  let r := RawLane.ofWord w
  match laneCode alloc accs r with
  | some c => .error c
  | none => match r.build with | some i => .ok i | none => .error 1

/-- Word 0 of a CE command but for its op (R354). -/
def ceFields (w : DWord) : CeFields :=
  { s := w.extractLsb' 54 4, d := w.extractLsb' 50 4, k := w.extractLsb' 46 4, nb := bit1 (w.extractLsb' 45 1),
    t := w.extractLsb' 43 2, x := w.extractLsb' 40 3, ix := bit1 (w.extractLsb' 39 1), m := w.extractLsb' 32 7,
    l := w.extractLsb' 0 32 }

/-- Word 0 of a CE command. -/
def CeFields.word (f : CeFields) (op : Nat) : DWord :=
  BitVec.ofNat 6 op ++ f.s ++ f.d ++ f.k ++ ofBit f.nb ++ f.t ++ f.x ++ ofBit f.ix ++ f.m ++ f.l

/-- The two words of a network command after word 0 (R354). -/
def netWords (w1 w2 : DWord) : NetWords :=
  { endpoint := w1.extractLsb' 48 10, region := w1.extractLsb' 32 16, localOff := w1.extractLsb' 0 32, remoteOff := w2 }

def NetWords.word1 (n : NetWords) : DWord := (0 : BitVec 6) ++ n.endpoint ++ n.region ++ n.localOff

/-- The number of 64-bit words of a CE command by its op (R355). -/
def ceLen (op : Nat) : Nat :=
  match op with
  | 1 | 2 | 3 | 4 | 5 | 8 => 2
  | 12 | 13 | 14 => 3
  | _ => 1

/-- The op of a CE command. -/
def ceOp (w0 : DWord) : Nat := (w0.extractLsb' 58 6).toNat

/-- The instruction of a CE command, or the ILLEGAL detail (R62, R355). -/
noncomputable def decodeCe (w0 w1 w2 : DWord) : Except Nat Instr :=
  let f := ceFields w0
  let op := ceOp w0
  let go (i : Instr) : Except Nat Instr := if f.ok op then .ok i else .error 2
  match op with
  | 0 => go .enop
  | 1 => go (.esend f w1)
  | 2 => go (.eput f (w1.extractLsb' 32 32) (w1.extractLsb' 0 32))
  | 3 => go (.eget f (w1.extractLsb' 32 32) (w1.extractLsb' 0 32))
  | 4 => go (.ered f (w1.extractLsb' 32 32) (w1.extractLsb' 0 32))
  | 5 => go (.emcast f (w1.extractLsb' 32 32) (w1.extractLsb' 0 32))
  | 6 => go (.ewait f)
  | 7 => go (.earrive f)
  | 8 => go (.esig f w1)
  | 9 => go (.eadd f)
  | 10 => go (.ebr f)
  | 11 => go (.eloop f)
  | 12 => if w1.extractLsb' 58 6 != 0 then .error 2 else go (.enput f (netWords w1 w2))
  | 13 => if w1.extractLsb' 58 6 != 0 then .error 2 else go (.enget f (netWords w1 w2))
  | 14 => if snapWords f w1 w2 then go (.esnap f w1 w2) else .error 2
  | 15 => go .eend
  | _ => .error 1

/-- The words of a CE command; none for another instruction. -/
def encodeCe : Instr → Option (List DWord)
  | .enop => some [(default : CeFields).word 0]
  | .esend f d => some [f.word 1, d]
  | .eput f d s => some [f.word 2, d ++ s]
  | .eget f d s => some [f.word 3, d ++ s]
  | .ered f d s => some [f.word 4, d ++ s]
  | .emcast f d s => some [f.word 5, d ++ s]
  | .ewait f => some [f.word 6]
  | .earrive f => some [f.word 7]
  | .esig f d => some [f.word 8, d]
  | .eadd f => some [f.word 9]
  | .ebr f => some [f.word 10]
  | .eloop f => some [f.word 11]
  | .enput f w => some [f.word 12, w.word1, w.remoteOff]
  | .enget f w => some [f.word 13, w.word1, w.remoteOff]
  | .esnap f a b => some [f.word 14, a, b]
  | .eend => some [(default : CeFields).word 15]
  | _ => none

/-- Bytes k to k+n-1 of a queue record, as a number. -/
def qf (r : BitVec 256) (k n : Nat) : Nat := (r.toNat >>> (8 * k)) % 2 ^ (8 * n)

/-- The byte offset of the first non-zero byte among bytes k to k+n-1, if any. -/
def firstNonzero (r : BitVec 256) (k : Nat) : Nat → Option Nat
  | 0 => none
  | n + 1 => if qf r k 1 != 0 then some k else firstNonzero r (k + 1) n

/-- Checks of a queue record in byte order: an offset and whether it fails there. -/
def firstFail : List (Option Nat) → Option Nat
  | [] => none
  | some k :: l => some (match firstFail l with | none => k | some j => if j < k then j else k)
  | none :: l => firstFail l

/-- The operands of a QWAIT record (R390). -/
structure QwaitWords where
  after : Bool
  cmp : BitVec 3
  sem : DWord
  operand : DWord
  mask : DWord

/-- The checks of a QWAIT record beyond its flags byte (R384, R390). -/
def qwaitChecks (r : BitVec 256) : List (Option Nat) :=
  [if qf r 2 1 > 7 then some 2 else none, firstNonzero r 3 5, if qf r 8 8 % 8 != 0 then some 8 else none,
    if qf r 2 1 = 6 then none else firstNonzero r 24 8]

/-- The operands of a record that is a well-formed QWAIT. -/
def qwaitOf (r : BitVec 256) : Option QwaitWords :=
  if qf r 0 1 = 3 && firstFail ((if qf r 1 1 > 1 then some 1 else none) :: qwaitChecks r) = none then
    some { after := mbit (qf r 1 1) 0, cmp := BitVec.ofNat 3 (qf r 2 1), sem := BitVec.ofNat 64 (qf r 8 8),
           operand := BitVec.ofNat 64 (qf r 16 8), mask := BitVec.ofNat 64 (qf r 24 8) }
  else none

/-- The instruction of a queue record, or its failure code and DETAIL (R63, R383, R384). -/
noncomputable def decodeQueue (r : BitVec 256) : Except (Nat × Nat) Instr :=
  let after := mbit (qf r 1 1) 0
  let z (k n : Nat) := firstNonzero r k n
  let bad (k : Nat) (b : Bool) : Option Nat := if b then some k else none
  let flags := bad 1 (qf r 1 1 > 1)
  let w64 (k : Nat) : DWord := BitVec.ofNat 64 (qf r k 8)
  let w32 (k : Nat) : Word := BitVec.ofNat 32 (qf r k 4)
  let obj : BitVec 10 := BitVec.ofNat 10 (qf r 4 2)
  let level (mk : BitVec 2 → BitVec 10 → Instr) : Except (Nat × Nat) Instr :=
    match firstFail [flags, bad 2 (qf r 2 1 > 2), z 3 1, if qf r 2 1 = 2 then z 4 2 else bad 4 (qf r 4 2 > 1023), z 6 26] with
    | some k => .error (2, k)
    | none => .ok (mk (BitVec.ofNat 2 (qf r 2 1)) obj)
  let go (cs : List (Option Nat)) (i : Instr) : Except (Nat × Nat) Instr :=
    match firstFail (flags :: cs) with | some k => .error (2, k) | none => .ok i
  match qf r 0 1 with
  | 0 => go [z 2 30] (.qnop after)
  | 1 => go [z 2 6, bad 8 (qf r 8 8 % 64 != 0), bad 16 (qf r 16 8 % 8 != 0), z 28 4] (.qlaunch after (w64 8) (w64 16) (w32 24))
  | 2 => go [bad 2 (qf r 2 1 > 15), z 3 5, bad 8 (qf r 8 8 % 64 != 0), bad 16 (qf r 16 8 % 8 != 0), z 28 4]
      (.qtask after (BitVec.ofNat 4 (qf r 2 1)) (w64 8) (w64 16) (w32 24))
  | 3 => go (qwaitChecks r)
      (.qwait after (BitVec.ofNat 3 (qf r 2 1)) (w64 8) (w64 16) (w64 24))
  | 4 => go [bad 2 (qf r 2 1 > 2), z 3 5, bad 8 (qf r 8 8 % 8 != 0), z 24 8]
      (.qsignal after (BitVec.ofNat 2 (qf r 2 1)) (w64 8) (w64 16))
  | 5 => level (.qgraph after)
  | 6 => level (.qphase after)
  | 7 => level (.qjob after)
  | 8 => go [bad 2 (qf r 2 1 = 0 || qf r 2 1 > 4), z 3 1, bad 4 (qf r 4 2 > 1023 || (qf r 2 1 = 4 && qf r 4 2 > 63)), z 6 26]
      (.qcancel after (BitVec.ofNat 3 (qf r 2 1)) obj)
  | 9 => go [bad 2 (qf r 2 1 = 0 || qf r 2 1 > 3), z 3 1, bad 4 (qf r 4 2 > 1023), z 6 2, bad 8 (qf r 8 8 % 16 != 0), z 16 16]
      (.qcount after (BitVec.ofNat 3 (qf r 2 1)) obj (w64 8))
  | 10 => go [z 2 2, z 8 24] (.qjump after (w32 4))
  | 11 => go [bad 2 (qf r 2 1 > 3), z 3 29] (.qprio after (BitVec.ofNat 2 (qf r 2 1)))
  | _ => .error (1, 0)

/-- A queue record from its op, flag and the bytes after them. -/
def qword (op : Nat) (after : Bool) (b2 : BitVec 8) (b3 : BitVec 8) (b4 : BitVec 32) (b8 b16 b24 : DWord) : BitVec 256 :=
  b24 ++ b16 ++ b8 ++ b4 ++ b3 ++ b2 ++ (0 : BitVec 7) ++ ofBit after ++ BitVec.ofNat 8 op

/-- The 32-byte record of a queue command; none for another instruction. -/
def encodeQueue : Instr → Option (BitVec 256)
  | .qnop a => some (qword 0 a 0 0 0 0 0 0)
  | .qlaunch a b s n => some (qword 1 a 0 0 0 b s (n.zeroExtend 64))
  | .qtask a sh b s n => some (qword 2 a (sh.zeroExtend 8) 0 0 b s (n.zeroExtend 64))
  | .qwait a c s o m => some (qword 3 a (c.zeroExtend 8) 0 0 s o m)
  | .qsignal a op s o => some (qword 4 a (op.zeroExtend 8) 0 0 s o 0)
  | .qgraph a op o => some (qword 5 a (op.zeroExtend 8) 0 (o.zeroExtend 32) 0 0 0)
  | .qphase a op o => some (qword 6 a (op.zeroExtend 8) 0 (o.zeroExtend 32) 0 0 0)
  | .qjob a op o => some (qword 7 a (op.zeroExtend 8) 0 (o.zeroExtend 32) 0 0 0)
  | .qcancel a k o => some (qword 8 a (k.zeroExtend 8) 0 (o.zeroExtend 32) 0 0 0)
  | .qcount a k o t => some (qword 9 a (k.zeroExtend 8) 0 (o.zeroExtend 32) t 0 0)
  | .qjump a t => some (qword 10 a 0 0 t 0 0 0)
  | .qprio a p => some (qword 11 a (p.zeroExtend 8) 0 0 0 0 0)
  | _ => none

namespace Sc

/-- Scalar words by format (R37). -/
def s3 (op : Nat) (sd sa sb : BitVec 6) (fn : Nat) : Word := BitVec.ofNat 7 op ++ sd ++ sa ++ sb ++ BitVec.ofNat 7 fn
def si (op : Nat) (sd sa : BitVec 6) (imm : BitVec 13) : Word := BitVec.ofNat 7 op ++ sd ++ sa ++ imm
def sB (op : Nat) (cf : BitVec 4) (sa : BitVec 6) (off : BitVec 15) : Word := BitVec.ofNat 7 op ++ cf ++ sa ++ off
def sj (op : Nat) (off : BitVec 25) : Word := BitVec.ofNat 7 op ++ off
def sx (op : Nat) (len : BitVec 5) (off : BitVec 16) : Word := BitVec.ofNat 7 op ++ len ++ (0 : BitVec 4) ++ off
def sc (op : Nat) (cd ca : BitVec 5) (sb : BitVec 6) (fn : Nat) : Word := BitVec.ofNat 7 op ++ cd ++ ca ++ sb ++ BitVec.ofNat 9 fn
def sc15 (op : Nat) (cd ca : BitVec 5) (imm : BitVec 15) : Word := BitVec.ofNat 7 op ++ cd ++ ca ++ imm
def sm (op : Nat) (sd : BitVec 6) (ca : BitVec 5) (imm : BitVec 14) : Word := BitVec.ofNat 7 op ++ sd ++ ca ++ imm

/-- A k register as a 6-bit field, and a b register as a 5-bit field. -/
def k6 (k : KReg) : BitVec 6 := k.zeroExtend 6
def b5 (b : BRegIx) : BitVec 5 := b.zeroExtend 5
/-- A flag at bit i of fn. -/
def fbit (b : Bool) (i : Nat) : Nat := if b then 2 ^ i else 0

end Sc

open Sc in
/-- The 32-bit word of a scalar instruction; none for another instruction. -/
def encodeScalar : Instr → Option Word
  | .snop => some (s3 0x00 0 0 0 0)
  | .br o => some (sj 0x01 o)
  | .brc c a o => some (sB 0x02 c a o)
  | .brk c k o => some (sB 0x03 c (k6 k) o)
  | .bdiv n k o => some (sB 0x04 (if n then 1 else 0) (k6 k) o)
  | .merge => some (s3 0x05 0 0 0 0)
  | .call o => some (sj 0x06 o)
  | .calli d a => some (sc 0x07 d a 0 0)
  | .ret a => some (sc 0x08 0 a 0 0)
  | .jmpi a b => some (sc 0x09 0 a b 0)
  | .execBlk l o => some (sx 0x0A l o)
  | .execwBlk l o => some (sx 0x0B l o)
  | .lcb a => some (sc 0x0C 0 a 0 0)
  | .lcbGet d => some (sc 0x0C d 0 0 1)
  | .compact d a => some (s3 0x0D d a 0 0)
  | .uncompact d => some (s3 0x0E d 0 0 0)
  | .yieldS a => some (s3 0x0F 0 a 0 0)
  | .exit => some (s3 0x10 0 0 0 0)
  | .splitq d => some (s3 0x11 d 0 0 0)
  | .dbnz a o => some (sB 0x12 0 a o)
  | .vread d a b => some (s3 0x13 d a b 0)
  | .vwrite d a b => some (s3 0x14 d a b 0)
  | .add d a b s => some (s3 0x20 d a b (fbit s 0))
  | .sub d a b s => some (s3 0x21 d a b (fbit s 0))
  | .addi d a i => some (si 0x22 d a i)
  | .mul d a b => some (s3 0x23 d a b 0)
  | .mulh d a b u => some (s3 0x24 d a b (fbit u 0))
  | .and d a b => some (s3 0x25 d a b 0)
  | .or d a b => some (s3 0x26 d a b 0)
  | .xor d a b => some (s3 0x27 d a b 0)
  | .andi d a i => some (si 0x28 d a i)
  | .ori d a i => some (si 0x29 d a i)
  | .xori d a i => some (si 0x2A d a i)
  | .shl d a b => some (s3 0x2B d a b 0)
  | .shr d a b => some (s3 0x2C d a b 0)
  | .sar d a b => some (s3 0x2D d a b 0)
  | .shli d a n => some (si 0x2E d a ((0 : BitVec 8) ++ n))
  | .shri d a n => some (si 0x2E d a ((1 : BitVec 8) ++ n))
  | .sari d a n => some (si 0x2E d a ((2 : BitVec 8) ++ n))
  | .rori d a n => some (si 0x2E d a ((3 : BitVec 8) ++ n))
  | .min d a b u => some (s3 0x2F d a b (fbit u 0))
  | .max d a b u => some (s3 0x2F d a b (2 + fbit u 0))
  | .slt d a b u => some (s3 0x30 d a b (fbit u 0))
  | .slti d a i => some (si 0x31 d a i)
  | .lui d i => some (BitVec.ofNat 7 0x32 ++ d ++ i)
  | .clz d a => some (s3 0x33 d a 0 0)
  | .popc d a => some (s3 0x34 d a 0 0)
  | .sel d a b c => some (s3 0x35 d a b c.toNat)
  | .div d a b r u => some (s3 0x36 d a b (fbit r 1 + fbit u 0))
  | .kmov k a b => some (s3 0x37 (k6 k) a 0 b.toNat)
  | .skmov d k b => some (s3 0x38 d (k6 k) 0 b.toNat)
  | .kop d a b o => some (s3 0x39 (k6 d) (k6 a) (k6 b) o.toNat)
  | .kpopc d k x => some (s3 0x3A d (k6 k) 0 (fbit x 0))
  | .kfirst d k x => some (s3 0x3B d (k6 k) 0 (fbit x 0))
  | .smov d c => some (s3 0x3C d 0 0 c.toNat)
  | .smovWrite a c => some (s3 0x3C 0 a 0 (64 + c.toNat))
  | .smovw d a n => some (si 0x3D d a n)
  | .sld d a i => some (sm 0x40 d a i)
  | .sst d a i => some (sm 0x41 d a i)
  | .sldc d a b f => some (sc 0x42 d a b f.toNat)
  | .sstc d a b f => some (sc 0x43 d a b f.toNat)
  | .xlate b a => some (sc 0x44 (b5 b) a 0 0)
  | .xlateLim b d => some (sc 0x44 (b5 b) 0 d 1)
  | .xdrop b => some (sc 0x45 (b5 b) 0 0 0)
  | .xdropAll => some (sc 0x45 0 0 0 1)
  | .map d a b n => some (sc 0x46 d a b n.toNat)
  | .unmap n => some (sc 0x47 0 0 0 n.toNat)
  | .unmapAll => some (sc 0x47 0 0 0 8)
  | .cflush a b i => some (sc 0x48 0 a b (fbit i 0))
  | .cinv a b => some (sc 0x49 0 a b 0)
  | .cdiscard a b => some (sc 0x4A 0 a b 0)
  | .cpin a b => some (sc 0x4B 0 a b 0)
  | .cunpin a b => some (sc 0x4C 0 a b 0)
  | .pref a b l => some (sc 0x4D 0 a b (fbit l 0))
  | .commit => some (s3 0x4E 0 0 0 0)
  | .commitClose => some (s3 0x4E 0 0 0 1)
  | .solo a => some (s3 0x4F 0 a 0 0)
  | .soloEnd => some (s3 0x4F 0 0 0 1)
  | .soloGet d => some (s3 0x4F d 0 0 2)
  | .tcopy d a b n t => some (sc 0x50 d a b (fbit n 1 + fbit t 0))
  | .tcopyG d a b n t => some (sc 0x50 d a b (4 + fbit n 1 + fbit t 0))
  | .tstore d a b n t => some (sc 0x51 d a b (fbit n 1 + fbit t 0))
  | .tmcast d a b n t => some (sc 0x52 d a b (fbit n 1 + fbit t 0))
  | .treduce d a b o n t => some (sc 0x53 d a b (8 * o.toNat + fbit n 1 + fbit t 0))
  | .tstat d => some (s3 0x54 d 0 0 0)
  | .tstatDone d a => some (s3 0x54 d a 0 1)
  | .tstatDrop => some (s3 0x54 0 0 0 2)
  | .celaunch d a b die e => some (sc 0x55 d a b (fbit die 4 + e.toNat))
  | .celaunchDetach d a b die e => some (sc 0x55 d a b (32 + fbit die 4 + e.toNat))
  | .cestat d => some (s3 0x56 d 0 0 0)
  | .cestatDone d a => some (s3 0x56 d a 0 1)
  | .cestatDrop => some (s3 0x56 0 0 0 2)
  | .binit a b z k => some (sc 0x57 0 a b (fbit z 1 + fbit k 0))
  | .arrive a b w => some (sc 0x58 0 a b (fbit w 0))
  | .expect a b w => some (sc 0x59 0 a b (fbit w 0))
  | .waitph a b r => some (sc 0x5A 0 a b r.toNat)
  | .waitphy d a b r => some (sc 0x5B d a b r.toNat)
  | .btest a b r => some (sc 0x5C 0 a b r.toNat)
  | .spawn a => some (sc 0x5D 0 a 0 0)
  | .joindec a r => some (sc 0x5E 0 a 0 r.toNat)
  | .launch a b => some (sc 0x5F 0 a b 0)
  | .cget a b f => some (sc 0x60 0 a b f.toNat)
  | .cseta d a b e => some (sc 0x61 d a b (fbit e 0))
  | .cinc d a b w e => some (sc 0x62 d a b (fbit w 1 + fbit e 0))
  | .cinci d a i => some (sc15 0x63 d a i)
  | .csetb d a b w e => some (sc 0x64 d a b (fbit w 1 + fbit e 0))
  | .csetbi d a i => some (sc15 0x65 d a i)
  | .candp d a b => some (sc 0x66 d a b 0)
  | .cseal d a k => some (sc 0x67 d a (k.zeroExtend 6) 0)
  | .csealSentry d a => some (sc 0x67 d a 0 1)
  | .cunseal d a k => some (sc 0x68 d a (k.zeroExtend 6) 0)
  | .ctest a b f => some (sc 0x69 0 a b f.toNat)
  | .ctestSubset d a b => some (sc 0x69 d a b 3)
  | .cmov d a => some (sc 0x6A d a 0 0)
  | .cclr d => some (sc 0x6B d 0 0 0)
  | .cclrTag d => some (sc 0x6B d 0 0 1)
  | .revoke a => some (sc 0x6D 0 a 0 0)
  | .revokeClear a => some (sc 0x6D 0 a 0 1)
  | .rsweep d => some (s3 0x6E d 0 0 0)
  | .trap c => some (si 0x70 0 0 ((0 : BitVec 1) ++ c))
  | .tret s => some (s3 0x71 0 0 0 (fbit s 1))
  | .tretSkip s => some (s3 0x71 0 0 0 (fbit s 1 + 1))
  | .frec d i => some (s3 0x72 d 0 0 i.toNat)
  | .frecCap d => some (s3 0x72 (d.zeroExtend 6) 0 0 32)
  | .pgmap a b => some (sc 0x73 0 a b 0)
  | .idemb a => some (s3 0x74 0 a 0 0)
  | .ideme => some (s3 0x75 0 0 0 0)
  | .prmpt d => some (s3 0x76 d 0 0 0)
  | .prmptNow => some (s3 0x76 0 0 0 1)
  | .sysrd d n => some (si 0x77 d 0 ((0 : BitVec 1) ++ n))
  | .syswr a n => some (si 0x78 0 a ((0 : BitVec 1) ++ n))
  | .moncfg d a b => some (s3 0x79 d a b 0)
  | .monrd d a f => some (s3 0x7A d a 0 f.toNat)
  | .pclear d a => some (s3 0x7B d a 0 0)
  | .scrub a b => some (sc 0x7C 0 a b 0)
  | .fabcfgWin a b => some (sc 0x7D 0 a b 0)
  | .fabcfgWinrm a b => some (sc 0x7D 0 a b 1)
  | .fabcfgMcast a b => some (sc 0x7D 0 a b 2)
  | .fabcfgPlane a b => some (sc 0x7D 0 a b 3)
  | .fabcfgEp a b => some (sc 0x7D 0 a b 4)
  | .fabcfgRegion a b => some (sc 0x7D 0 a b 5)
  | .attest d a b => some (sc 0x7E d a b 0)
  | _ => none

/-- The lane word of a lane instruction; none for another instruction. -/
def encodeLane (i : Instr) : Option LaneWord := i.laneRaw.map RawLane.word

/-- The n little-endian bytes of a number (R1). -/
def leBytes : Nat → Nat → List Byte
  | 0, _ => []
  | n + 1, x => BitVec.ofNat 8 x :: leBytes n (x / 256)

/-- The number of little-endian bytes (R1). -/
def leNat : List Byte → Nat
  | [] => 0
  | b :: l => b.toNat + 256 * leNat l

/-- The bytes of an instruction as the hardware stores them, empty for an event, which has no encoding (R1, R37, R40, R62, R63). -/
def encode (i : Instr) : List Byte :=
  match encodeScalar i with
  | some w => leBytes 4 w.toNat
  | none => match encodeLane i with
    | some w => leBytes 12 w.toNat
    | none => match encodeCe i with
      | some ws => ws.flatMap (fun w => leBytes 8 w.toNat)
      | none => match encodeQueue i with
        | some r => leBytes 32 r.toNat
        | none => []

/-- Where an instruction's bytes stand: the stream decides which encoding they hold (R37, R40, R62, R63). -/
inductive Stream where
  | scalar | lane | ce | queue
  deriving DecidableEq, Repr, Inhabited

/-- The first instruction of a stream's bytes and the bytes after it, or why there is none. Lane words are judged as
`Instr.wf` judges them. -/
noncomputable def decode (st : Stream) (bytes : List Byte) : Except Reject (Instr × List Byte) :=
  let need (n : Nat) (k : Nat → Except Reject Instr) : Except Reject (Instr × List Byte) :=
    if bytes.length < n then .error .short
    else match k (leNat (bytes.take n)) with
      | .ok i => .ok (i, bytes.drop n)
      | .error e => .error e
  match st with
  | .scalar => need 4 fun x => match decodeScalar (BitVec.ofNat 32 x) with | .ok i => .ok i | .error c => .error (.illegal c)
  | .lane => need 12 fun x => match decodeLane 256 true (BitVec.ofNat 96 x) with | .ok i => .ok i | .error c => .error (.illegal c)
  | .ce =>
    let n := ceLen (ceOp (BitVec.ofNat 64 (leNat (bytes.take 8))))
    need (8 * n) fun x =>
      match decodeCe (BitVec.ofNat 64 x) (BitVec.ofNat 64 (x >>> 64)) (BitVec.ofNat 64 (x >>> 128)) with
      | .ok i => .ok i | .error c => .error (.ce c)
  | .queue => need 32 fun x => match decodeQueue (BitVec.ofNat 256 x) with | .ok i => .ok i | .error c => .error (.queue c.1 c.2)

/-- The stream whose instructions have this many bits in the opcode table. -/
def streamOf (nbits : Nat) : Stream :=
  if nbits ≤ 32 then .scalar else if nbits = 96 then .lane else if nbits = 256 then .queue else .ce

/-- The instruction that the decoder reads from the bits of a row of spec/opcode_table.json: the bytes are laid out in
ascending order, the bits above nbits are zero. -/
noncomputable def decodeTableWord (nbits w : Nat) : Option Instr :=
  match decode (streamOf nbits) (leBytes 32 w) with
  | .ok (i, _) => some i
  | .error _ => none

end Sys2Proof
end

