-- ==== Sys2Proof/Config.lean ====
section
/-! DEFINITION. What an implementation fixes and the values the manual leaves open: uninterpreted constants, so that
no proof can see a value of them (log 6, 9, 13, 14). -/

namespace Sys2Proof.Config

/-- A free bit per draw: whether an access uses the old or the new translation entry (R206), or an old or new code word (R67). -/
opaque freeBit : Nat → Bool

/-- A free word per draw, for values the manual does not state. -/
opaque freeWord : Nat → Word

/-- The fixed approximations of the transcendental instructions before their stated bounds and special cases apply (R144, R155; log 13). -/
opaque frcp : Word → Word
opaque frsq : Word → Word
opaque fexp2 : Word → Word
opaque flog2 : Word → Word
opaque fsin : Word → Word
opaque fcos : Word → Word
opaque ftanh : Word → Word

/-- The context through which the walk of an epoch translates the base of a capability in a granule, which R193 does not name. -/
opaque sweepCtx : Nat → Nat

/-- SHA-384 as the manual uses it (R454, R455). -/
opaque sha384 : List Byte → BitVec 384
/-- AES-256-GCM under a named key and nonce (R460, R461): ciphertext of a plaintext, its inverse, and the tag. -/
opaque gcmSeal : Nat → Nat → List Byte → List Byte
opaque gcmOpen : Nat → Nat → List Byte → List Byte
opaque gcmTag : Nat → Nat → List Byte → List Byte → BitVec 128
/-- The ECDSA P-384 signature of a quote by the attestation key of an incarnation (R455). -/
opaque quoteSig : Word → List Byte → BitVec 768
/-- The check of a debug token by the fused debug authority (R456). -/
opaque debugTokenOk : List Byte → Bool
/-- The transport key in a blob sealed to the key-exchange public key (R453). -/
opaque ueKey : List Byte → List Byte
/-- The key-exchange public key of an incarnation (R453). -/
opaque kxKey : Word → List Byte
/-- Random bytes of a debug nonce (R456). -/
opaque nonceByte : Nat → Nat → Byte
/-- The measurement registers that boot extends, M0 to M4 (R454, R471). -/
opaque bootMeas : Nat → BitVec 384
/-- The device serial from the fuses (R455). -/
opaque serial : DWord

end Sys2Proof.Config
end

