-- ==== Sys2Proof/Machine/State.lean ====
section
/-! DEFINITION. The state of one T9 node as plain data, and the machine right after reset.
Sparse maps are lists of (key, value) pairs with rising keys and no entry equal to the default (Machine/AList.lean). -/

namespace Sys2Proof.Machine

/-- A sparse map: keys strictly rising, no entry equal to the map's default. -/
abbrev AList (α : Type) := List (Nat × α)

/-- Bytes by address; an unlisted address reads 0 (device memory: R471 step 5; scratchpad: R278; host memory: log 5). -/
abbrev Memory := List (Nat × Byte)

/-- Why the machine stops. -/
inductive Fault where
  /-- Raised by a meaning when `State.actor` names no live agent of the instruction's kind, so there is nothing whose
  instruction this is. Safe: no step of the machine reaches it (Step.lean sets the actor before it calls exec). -/
  | noActor
  deriving DecidableEq, Repr

/-- Why an instruction has no meaning. -/
inductive Refusal where
  /-- Raised by exec for an instruction that is not modelled yet. Safe: the machine stops. -/
  | notModelled (mnemonic : String)
  deriving DecidableEq, Repr

/-- Where a byte lies: device memory by device physical address, host memory by host physical address,
the logical scratchpad of a workgroup by offset, another node's pod space by offset (R197, R225). -/
inductive Space where
  | hbm | host | pad (wg : Nat) | remote (node : Nat)
  deriving DecidableEq, Repr, Inhabited

structure Loc where
  sp : Space
  a : Nat
  deriving DecidableEq, Repr, Inhabited

/-- What an instruction outside windows has performed of the access of one lane, or of a scalar access, event by event (R216, R231): the
lane (0 for a scalar access, 96 for none), the units read, each with its place, its bytes and its tag, and the number of bytes done. -/
structure Part where
  lane : Nat
  got : List (Loc × List Byte × Bool)
  done : Nat
  deriving DecidableEq, Repr, Inhabited

/-- A translation register (R207). `here` says that it holds a local translation; `base` and `size` are those of the entry from which
it came (R206). -/
structure BReg where
  cap : Cap
  frame : Nat
  limit : Word
  rd : Bool
  wr : Bool
  host : Bool
  uc : Bool
  scope : BitVec 3
  an : Bool
  anchor : BitVec 8
  key : BitVec 6
  here : Bool
  stale : Bool
  base : Nat
  size : Nat
  deriving DecidableEq, Repr, Inhabited

/-- What a split is doing (R83): issuing, or parked. A wait names where the split continues when that is not the next word
(R287). -/
inductive SplitSt where
  | ready
  | merge
  | rendezvous (sd : Nat) (units : Word)
  | partner (sd : Nat)
  | waitph (obj : Loc) (p : Word) (res : SReg) (cont : Option Cap)
  | yield (n : Nat)
  | handler
  | attest (cd ca : CReg) (sb : SReg)
  deriving DecidableEq, Repr, Inhabited

/-- The state set of one split (R79). s61 to s63 are `act`, stored once. -/
structure Split where
  idx : Nat
  s : AList Word
  act : LaneMask
  withheld : LaneMask
  c : AList Cap
  pcc : Cap
  lcc : Cap
  st : SplitSt
  age : Nat
  issued : Nat
  noWatch : Bool
  part : Option Part := none
  deriving DecidableEq, Repr, Inhabited

/-- The registers that a chain run writes, as they stood before its first instruction: v registers with their dead bits, quad
tags, k registers and q registers, and the bits of STATUS that its completed instructions have set (R59). -/
structure RunPre where
  v : List (Nat × Row × Bool)
  quads : List (Nat × LaneMask)
  k : List (Nat × LaneMask)
  q : List (Nat × Row)
  stick : Word
  deriving DecidableEq, Repr, Inhabited

/-- A lane block in the lane queue (R84): its words as decoded at the EXEC, the next instruction, the mask and the
scalar and capability operands at the EXEC (R42, R82), the latches, and what resumption needs (R415). `pre` holds inside a chain run
that has issued its first instruction and not its last (R58, R59); `part` while the head instruction performs events one by one outside
windows (R231). -/
structure LaneBlock where
  split : Nat
  pc : Nat
  base : Nat
  words : List LaneWord
  next : Nat
  mask : LaneMask
  s : AList Word
  c : AList Cap
  splits : Nat
  full : Bool
  receiver : Bool
  compacting : Bool
  todo : Option LaneMask
  lat : AList Row
  noWatch : Bool
  pre : Option RunPre
  part : Option Part := none
  deriving DecidableEq, Repr, Inhabited

/-- A live compaction record of a receiver (R99): register units, the partner's lanes H and the receiver's lanes S. -/
structure CompactRec where
  units : Word
  h : List Nat
  s : List Nat
  partner : Nat
  deriving DecidableEq, Repr, Inhabited

/-- The part of a group that a rollback returns to its value at the window start (R79, R86, R239). -/
structure GCore where
  splits : List Split
  k : AList LaneMask
  v : AList Row
  dead : BitVec 256
  qtags : AList LaneMask
  b : AList BReg
  status : Word
  laneQ : List LaneBlock
  compact : Option CompactRec
  nbrSeq : Word
  nbrPosted : Bool
  deriving DecidableEq, Repr, Inhabited

/-- Operations on a barrier object (R279). -/
inductive BarOp where
  | init (n : BitVec 16) (z keep : Bool)
  | arrive (k : Int)
  | expect (k : Int)
  | count (m : Int)
  | error
  deriving DecidableEq, Repr, Inhabited

/-- A failed check that stops an engine operation (R318, R344, R364). -/
structure StopRec where
  missing : Nat
  kind : Nat
  detail : Nat
  access : Nat
  home : Bool
  addr : Nat
  cap : Cap
  w16 : Word
  w17 : Word
  w18 : Word
  deriving DecidableEq, Repr, Inhabited

/-- What a matrix operation does (R306). -/
inductive MatKind where
  | steps | zero | load | scale (setting sreg : Nat) | check (rate : Nat) (trap clr : Bool)
  deriving DecidableEq, Repr, Inhabited

/-- A matrix operation (R306, R314, R315, R321, R330). -/
structure MatOp where
  uid : Nat
  kind : MatKind
  word : LaneWord
  group : Nat
  tile : Nat
  areg : Nat
  b : BReg
  off : Word
  inc : Word
  count : Nat
  stride : Nat
  span : BitVec 3
  ty : Ty
  reuse : Bool
  rowStride : Word
  deriving DecidableEq, Repr, Inhabited

/-- The slices that the A collector holds (R316): per step, eight registers, and the scale register where scales applied. -/
structure Collector where
  ty : Ty
  slices : List (List Row × Option Row)
  deriving DecidableEq, Repr, Inhabited

/-- A matrix context (R302, R319, R328). `step` and `stopped` are MSTATE.STEP and MSTATE.STOPPED; `damaged` says that the array will write
a wrong result in its next checked column (R328, R410). -/
structure MatCtx where
  bank : AList Row
  coll : Option Collector
  scale : Nat
  sreg : Nat
  rate : Nat
  trapOn : Bool
  run : Option MatOp
  queue : List MatOp
  step : Nat
  stopped : Bool
  pending : Option StopRec
  holder : Option Nat
  waiters : List Nat
  stepCtr : Word
  checkCtr : Word
  count : BitVec 16
  col : BitVec 7
  colStep : BitVec 16
  damaged : Bool := false
  deriving DecidableEq, Repr, Inhabited

/-- The condition of an engine operation or list (R331, R349). -/
inductive EngSt where
  | queued | running | stopped | ended | error
  deriving DecidableEq, Repr, Inhabited

inductive TceKind where
  | copy | copyG | store | mcast | reduce (op : AtomOp)
  deriving DecidableEq, Repr, Inhabited

/-- A shape record as read at issue (R334). -/
structure Shape where
  ndim : Nat
  gty : Ty
  sty : Ty
  fillOn : Bool
  sat : Bool
  span : BitVec 3
  fill : Word
  ext : List Nat
  lim : List Nat
  org : List Int
  str : List Nat
  pitch : Nat
  deriving DecidableEq, Repr, Inhabited

/-- A tensor copy operation (R331 to R345). `next` is the element that it is at: `got` and `tag` are the source bytes read for it, and
`put` the destination bytes written, over all its receivers (R341). `cnt` is the number of barriers that the count under way has reached
(R342). -/
structure TceOp where
  uid : Nat
  core : Nat
  group : Nat
  wg : Nat
  gang : Nat
  pcid : Nat
  ticket : Word
  word : Word
  kind : TceKind
  shape : Shape
  gcap : Cap
  gcap2 : Cap
  ccap : Cap
  row : Nat
  bar : Nat
  dstOff : Int
  srcOff : Int
  recv : BitVec 16
  nobar : Bool
  st : EngSt
  next : Nat
  got : List Byte
  tag : Bool
  put : Nat
  uncounted : Nat
  cnt : Nat
  stop : Option StopRec
  deriving DecidableEq, Repr, Inhabited

/-- A data command of a list that has started and not ended (R357 to R359, R363, R364): its name as a requester, its address and its words
as fetched, the counters as they stood at its start, the bytes that have landed, those of them that are not counted yet, the source bytes
read for the next unit with the tag that they carry, its contributions on their way, whether it awaits a remote endpoint, and its stop. -/
structure CeCmd where
  uid : Nat
  pc : Nat
  w0 : DWord
  w1 : DWord
  w2 : DWord
  n : List DWord
  done : Nat
  due : Nat
  got : List Byte
  tag : Bool
  flights : List (BitVec 16)
  asking : Bool
  stop : Option StopRec
  deriving DecidableEq, Repr, Inhabited

/-- A CE command list (R349 to R353). `group` is the launching group, also of a detached list. `cmds` are its data commands under way, in
list order. `word`, `word1` and `word2` are the words of the command whose turn it is at `pc`, or at which the list waits or has
stopped, and `stop` that stop. -/
structure CeList where
  uid : Nat
  die : Nat
  engine : Nat
  ctx : Option Nat
  owner : Option Nat
  group : Nat
  gang : Nat
  wg : Nat
  launch : Nat
  pcid : Nat
  ticket : Word
  image : Cap
  e : List Cap
  n : List DWord
  pc : Nat
  st : EngSt
  waiting : Bool
  cmds : List CeCmd
  word : DWord
  word1 : DWord
  word2 : DWord
  stop : Option StopRec
  deriving DecidableEq, Repr, Inhabited

/-- A continuation record with its tags, as four granules, and the launch it belongs to (R296, R389). -/
structure TaskRec where
  q : List Cap
  launch : Nat
  deriving DecidableEq, Repr, Inhabited

/-- What authorises a request to another node: the capability that it carries and the scope that the instruction states (R176,
R205). -/
structure Auth where
  cap : Cap
  stated : Nat
  deriving DecidableEq, Repr, Inhabited

/-- Work that a window buffers until its commit (R240), in issue order. Places are of this node; a write of n bytes at another node's
offset is `remote`, with what authorises it (R176). -/
inductive BufOp where
  | write (loc : Loc) (data : List Byte) (span : BitVec 3)
  | writeCap (loc : Loc) (v : Cap)
  | red (loc : Loc) (op : AtomOp) (ty : Ty) (operand : DWord)
  | remote (node off n : Nat) (au : Auth) (k : ApKind)
  | contrib (c : Contribution)
  | sparse (win : Nat) (gen : BitVec 16) (index value : Word)
  | mcast (grp : Nat) (off : Nat) (data : List Byte) (au : Auth)
  | bar (obj : Loc) (op : BarOp)
  | tce (op : TceOp)
  | ce (l : CeList)
  | mat (op : MatOp)
  | ring (q : Nat) (data : List Byte)
  | spawn (parent : Option Loc) (shelf : Nat) (r : TaskRec)
  deriving DecidableEq, Repr, Inhabited

/-- A remote sub-page that a window read, with the stamp it saw (R248). -/
structure RemoteRead where
  node : Nat
  sub : Nat
  stamp : Word
  deriving DecidableEq, Repr, Inhabited

/-- An uncommitted window (R237 to R245). `xl` are the translation entries that it used: 2 × context, plus 1 for the pod table, with
the base and the size of the page or run (R206). `lastLoad` is the number in the window of its latest load (R250). `passed` are the lines
of the read set whose bits an L2 slice holds for the L1 (R246). -/
structure Window where
  start : Nat
  snap : GCore
  buf : List BufOp
  reads : List Loc
  grans : List Nat
  remote : List RemoteRead
  asked : List (Nat × Nat)
  valid : List (Nat × Nat)
  xl : List (Nat × Nat × Nat)
  count : Nat
  closed : Bool
  hit : Bool
  ckpt : List Nat
  qOld : AList Row
  lastLoad : Nat
  passed : List Loc := []
  deriving DecidableEq, Repr, Inhabited

/-- The trap frame (R413). -/
structure TrapFrame where
  split : Nat
  s : AList Word
  act : LaneMask
  c : AList Cap
  pcc : Cap
  lcc : Cap
  block : Option LaneBlock
  aside : List LaneBlock
  kind : Nat
  engine : Bool
  matrix : Bool
  op : Nat
  parked : List (Nat × SplitSt)
  deriving DecidableEq, Repr, Inhabited

/-- The region entry record of an idempotent region (R429), with the values of its kept units and their quad tags as they stand
at the entry (R430). -/
structure Region where
  idx : Nat
  rows : AList Row
  qt : AList LaneMask
  s : AList Word
  act : LaneMask
  c : AList Cap
  pcc : Cap
  lcc : Cap
  k : AList LaneMask
  b : AList BReg
  status : Word
  tce : Word
  ce : Word
  nbr : Word
  kept : Word
  dead : BitVec 256
  deriving DecidableEq, Repr, Inhabited

/-- A dormant group's wait (R287). -/
structure Dormant where
  obj : Loc
  p : Word
  res : SReg
  deriving DecidableEq, Repr, Inhabited

/-- A posted pair of edge values of a linked NBR (R130): number, lane 0, lane 95, and whether A was dead. -/
structure NbrPost where
  n : Word
  lo : Word
  hi : Word
  dead : Bool
  deriving DecidableEq, Repr, Inhabited

/-- A group (R29, R79). `wg` is 0 for a task. `integ` names the load that takes an INTEGRITY fault when it executes again: its
window's start and its number in the window (R250). -/
structure Grp where
  uid : Nat
  launch : Nat
  gang : Nat
  wg : Nat
  task : Bool
  shelf : Nat
  core : Nat
  slot : Nat
  gidx : Nat
  regs : Nat
  g : GCore
  wins : List Window
  rbcount : Word
  rbStart : Nat
  rbRun : Nat
  rbNext : Nat
  solo : Option Nat
  tceTicket : Word
  ceTicket : Word
  posts : List NbrPost
  frec : List Word
  recTag : Bool
  frame : Option TrapFrame
  watch : AList Word
  region : Option Region
  dormant : Option Dormant
  ySlot : Option Nat
  saved : Bool
  ended : Bool
  integ : Option (Nat × Nat)
  deriving DecidableEq, Repr, Inhabited

/-- A logical scratchpad (R168, R278, R312): bytes, tags by granule, span records by row, size. -/
structure Pad where
  mem : Memory
  tags : AList Bool
  span : AList (BitVec 3)
  size : Nat
  deriving DecidableEq, Repr, Inhabited

/-- A live scratchpad mapping (R224, R225). -/
structure MapEnt where
  wg : Nat
  slot : Nat
  pa : Nat
  off : Nat
  len : Nat
  deriving DecidableEq, Repr, Inhabited

/-- Everything that events of the sequential order read and write on this node (R231, R232). -/
structure Ram where
  hbm : Memory
  tags : AList Bool
  host : Memory
  pads : AList Pad
  maps : List MapEnt
  vers : AList Word
  deriving DecidableEq, Repr, Inhabited

/-- A placed or saved workgroup (R20, R21, R29). `mapSave` are the mapping slots recorded by a save (R227). -/
structure Wg where
  uid : Nat
  launch : Nat
  gang : Nat
  wgid : Nat
  core0 : Nat
  perCore : List Nat
  scratch : Nat
  ctxs : AList MatCtx
  slot : Option Nat
  mapSave : List MapEnt
  ended : Bool
  deriving DecidableEq, Repr, Inhabited

inductive GangSt where
  | placed | saving | saved | discarded
  deriving DecidableEq, Repr, Inhabited

/-- A placed or saved gang (R29, R421). -/
structure Gang where
  uid : Nat
  launch : Nat
  gangid : Nat
  wgs : List Nat
  st : GangSt
  request : Bool
  stamp : Nat
  prio : Nat
  deriving DecidableEq, Repr, Inhabited

/-- A kernel descriptor (R70). -/
structure KDesc where
  task : Bool
  accs : Bool
  idem : Bool
  latency : Nat
  gang : Nat
  regs : Nat
  groups : Nat
  scratch : Nat
  entry : Nat
  size : Nat
  laneBase : Nat
  laneSize : Nat
  params : List (BitVec 16 × Nat)
  argMap : List Nat
  deriving DecidableEq, Repr, Inhabited

/-- An accepted launch (R387, R388, R393, R412). -/
structure Lnch where
  uid : Nat
  queue : Nat
  pcid : Nat
  prio : Nat
  graph : Option Nat
  phase : Option Nat
  job : Option Nat
  hidden : Nat
  shelf : Nat
  recIx : Word
  sem : DWord
  kd : KDesc
  root : Cap
  pcc : Cap
  lcc : Cap
  params : List Cap
  args : List Word
  stack : Nat
  stackSize : Nat
  hPcc : Cap
  hLcc : Cap
  hData : Cap
  hMap : Cap
  count : Nat
  next : Nat
  host : Bool
  cancelled : Bool
  complete : Bool
  deriving DecidableEq, Repr, Inhabited

/-- One of the 64 hardware queues (R377, R378, R381, R383). `waiting` marks a QWAIT or `.after` wait. -/
structure Que where
  base : DWord
  ctl : Word
  rootp : BitVec 16
  wr : Word
  rd : Word
  stat : Word
  frd : Word
  root : Cap
  graph : Option Nat
  phase : Option Nat
  job : Option Nat
  deriving DecidableEq, Repr, Inhabited

/-- A level object (R392). -/
structure Level where
  out : DWord
  done : DWord
  cancelled : Bool
  deriving DecidableEq, Repr, Inhabited

/-- A shelf: its descriptor (R403) and its records in order, of which those past 256 stand in the spill area too; `tail` counts the records that
have been spilled (R297). -/
structure Shelf where
  base : DWord
  cap : Word
  pcid : BitVec 16
  flags : BitVec 16
  recs : List TaskRec
  tail : Nat := 0
  deriving DecidableEq, Repr, Inhabited

/-- A monitor unit (R433). -/
structure Monitor where
  cfg : Word
  samples : Word
  least : Word
  most : Word
  bins : AList Word
  deriving DecidableEq, Repr, Inhabited

/-- A remembered translation: context, pod table or not, page base, page size, and the leaf entry used (R206). -/
structure TlbEnt where
  pcid : Nat
  pod : Bool
  base : Nat
  size : Nat
  leaf : DWord
  deriving DecidableEq, Repr, Inhabited

/-- A context descriptor as translation uses it until an invalidation with ALL (R385). -/
structure CtxDesc where
  valid : Bool
  root : Nat
  podRoot : Nat
  handler : Nat
  pool : Nat
  prot : Bool
  key : Nat
  deriving DecidableEq, Repr, Inhabited

/-- A pending walk of the walk scheduler, and the instruction that asked for it (R210). -/
structure Walk where
  die : Nat
  pcid : Nat
  va : Nat
  inst : Nat
  starved : Bool
  deriving DecidableEq, Repr, Inhabited

/-- A guest line of another node (R248), with the authorisations under which its home has sent it. -/
structure GuestLine where
  node : Nat
  pcid : Nat
  line : Nat
  data : List Byte
  tags : List Bool
  stamp : Word
  auths : List Auth
  deriving DecidableEq, Repr, Inhabited

/-- A hold on a sub-page of this home (R243): the node that holds it, for a window or an LDSUM, the sub-page of device memory, the sub-page of
the pod space by which the holder names it, and whether it is a write hold. -/
structure Hold where
  node : Nat
  sub : Nat
  off : Nat
  write : Bool
  deriving DecidableEq, Repr, Inhabited

/-- A pin of a context on a line in the L2 of a die (R230). -/
structure Pin where
  pcid : Nat
  die : Nat
  line : Loc
  deriving DecidableEq, Repr, Inhabited

/-- The contents of a 128-byte line with its eight tags. -/
structure LineImg where
  data : List Byte
  tags : List Bool
  deriving DecidableEq, Repr, Inhabited

/-- A committed line whose store has not drained (R242). -/
structure Drain where
  group : Nat
  line : Loc
  deriving DecidableEq, Repr, Inhabited

/-- The owner of a granule of device memory and of its split sub-pages (R251). -/
structure Own where
  owner : Nat
  subs : AList Nat
  deriving DecidableEq, Repr, Inhabited

/-- A die proxy of a barrier object (R292): the groups whose operations the forward in flight carries, and those whose operations wait
for the next one. -/
structure Proxy where
  wg : Nat
  off : Nat
  die : Nat
  flight : List Nat
  gathered : List Nat
  phase : Word
  deriving DecidableEq, Repr, Inhabited

/-- A reduction, replica or sparse window descriptor with its member list (R265). -/
structure WinDesc where
  kind : Nat
  fmt : Nat
  acc : Bool
  gen : BitVec 16
  members : List Nat
  range : Nat
  len : Nat
  notify : Nat
  contributors : BitVec 176
  pcid : Nat
  deriving DecidableEq, Repr, Inhabited

/-- A contribution held at a combining point (R267), or the node partial of a rank (R276). -/
structure Held where
  rank : Nat
  contributor : Nat
  off : Nat
  value : Word
  tag : BitVec 16
  folded : Nat := 0
  hi : Word := 0
  deriving DecidableEq, Repr, Inhabited

/-- An installed window and its round at this node (R267 to R269, R275). -/
structure Win where
  d : WinDesc
  broken : Bool
  held : List Held
  merged : List Nat
  rounds : Nat
  sparse : List (Word × List Word)
  deriving DecidableEq, Repr, Inhabited

/-- What an event does to a round word: it counts n, and sets bit 63 with `ovf`; it sets bit 63; it clears the word (R269, R275). -/
inductive RoundOp where
  | count (n : Nat) (ovf : Bool)
  | fail
  | clear
  deriving DecidableEq, Repr, Inhabited

/-- An event on a round word that a window's engine thread has still to make at this home: the window id, the word's offset, the context, and
what it does (R269). -/
structure RoundDue where
  win : Nat
  notify : Nat
  pcid : Nat
  op : RoundOp
  deriving DecidableEq, Repr, Inhabited

/-- A multicast group entry (R273). -/
structure McGroup where
  gen : BitVec 16
  members : BitVec 512
  deriving DecidableEq, Repr, Inhabited

/-- A multicast engine thread (R273): its name as a requester, the group or list that forked it, the multicast group with the generation
that it had then, the place and the data, what authorises it, whether a plane has read the entry, and the bytes of this node's own replica
that are written, if it is to have one. -/
structure McThread where
  uid : Nat
  group : Nat
  grp : Nat
  gen : BitVec 16
  off : Nat
  data : List Byte
  pcid : Nat
  au : Auth
  read : Bool
  own : Option Nat
  deriving DecidableEq, Repr, Inhabited

/-- An endpoint table entry (R373, R467). -/
structure Endpoint where
  valid : Bool
  tclass : Byte
  job : Word
  addr : BitVec 128
  key : List Byte
  deriving DecidableEq, Repr, Inhabited

/-- A region table entry (R373, R467), with the context that translates its capability's addresses: the context that installed it. -/
structure UeRegion where
  puts : Bool
  gets : Bool
  cap : Cap
  pcid : Nat
  deriving DecidableEq, Repr, Inhabited

/-- A peer table entry: the incarnation accepted at the latest key exchange, 0 where there was none, and the incarnation for which
the peer is lost (R446, R447). -/
structure Peer where
  incarn : Word
  lost : Option Word
  deriving DecidableEq, Repr, Inhabited

/-- A request of this node that has no answer yet (R449). A posted one is a write that its requester does not await at once; what must
follow its event looks here (R242, R255, R357). -/
structure Req where
  tag : BitVec 16
  node : Nat
  group : Nat
  off : Nat
  pcid : Nat
  kind : ApKind
  auth : Auth
  posted : Bool
  retried : Bool
  stomped : Bool
  deriving DecidableEq, Repr, Inhabited

/-- An answer that its requester has not taken yet (R217). -/
structure Ans where
  node : Nat
  group : Nat
  off : Nat
  kind : ApKind
  auth : Auth
  ans : ApAns
  deriving DecidableEq, Repr, Inhabited

/-- A packet of a window: a contribution or node partial, or a sparse pair (R276). -/
inductive WinPacket where
  | sum (c : Contribution)
  | pair (p : SparsePair)
  deriving DecidableEq, Repr, Inhabited

/-- A packet of a window sent to another home that has no acknowledgement yet (R270, R449). -/
structure Sent where
  home : Nat
  packet : WinPacket
  retried : Bool
  stomped : Bool
  deriving DecidableEq, Repr, Inhabited

/-- The states of a key slot (R452, R462, R463). -/
inductive SlotSt where
  | free | loading | sealed | destroying
  deriving DecidableEq, Repr, Inhabited

/-- A key slot 1 to 63 (R452, R460 to R462). `key` names the key; its bits are never visible. `pool` are the regions of the save
slots that hold the context's images (R463). -/
structure KeySlot where
  st : SlotSt
  pcid : BitVec 16
  dom : BitVec 16
  mask : BitVec 18
  key : Nat
  mc : BitVec 384
  taint : List Nat
  vers : List (Nat × Nat)
  ctr : Nat
  pool : List Nat
  deriving DecidableEq, Repr, Inhabited

/-- The scrub record and its progress (R463, R464, R466). Regions are numbered over both dies. -/
structure Scrub where
  regions : List Nat
  active : Bool
  resumed : Bool
  prog : Nat
  total : Nat
  deriving DecidableEq, Repr, Inhabited

/-- What the whole chip is doing (R443, R468 to R471). -/
inductive Power where
  | run | p3 | p3Leaving | stopped | tripped | off
  deriving DecidableEq, Repr, Inhabited

/-- What the device has sent to the outside: fabric requests and answers, with the extension header where there is one (R276), QP vectors,
DOE responses, CXL data. -/
inductive Out where
  | request (r : Req) (header : Option (BitVec 128))
  | answer (node : Nat) (tag : BitVec 16) (a : ApAns)
  | fill (node : Nat) (tag : BitVec 16) (data : List Byte) (tags : List Bool) (version : Word)
  | contribution (home : Nat) (c : Contribution) (header : BitVec 128)
  | sparsePair (home : Nat) (p : SparsePair) (header : BitVec 128)
  | fabAnswer (node : Nat) (result : Word)
  | validate (node sub : Nat) (write : Bool)
  | version (node sub : Nat) (version : Word) (ok : Bool)
  | release (node sub : Nat)
  | bump (sub : Nat)
  | bumpAck (node sub : Nat)
  | msix (vector : Nat)
  | doe (code status : Nat) (bytes : List Byte)
  | cxl (pa : Nat) (data : List Byte) (poison : Bool)
  | uePut (list : Nat) (endpoint : Nat) (region : Nat) (off : DWord) (data : List Byte)
  | ueGet (list : Nat) (endpoint : Nat) (region : Nat) (off : DWord) (n : Nat)
  | ueAnswer (data : List Byte) (ok : Bool)
  | backInvalidate (line : Nat)
  | keyExchange (port : Nat)
  | stomp (tag : BitVec 16)
  deriving DecidableEq, Repr, Inhabited

/-- A home's record of a request it has answered (R449). -/
structure TagRec where
  node : Nat
  tag : BitVec 16
  msg : Out
  deriving DecidableEq, Repr, Inhabited

/-- Storage that holds an uncorrectable error until it is written (R410): a byte of memory or of a scratchpad, with the detail that a read
of it reports; a lane of a v register of a group or of a q register of a context; a checkpoint entry of a window of a group, named as a
v or q register. -/
inductive Damage where
  | byte (l : Loc) (detail : Nat)
  | vreg (uid n lane detail : Nat)
  | qreg (wg pos n lane detail : Nat)
  | ckpt (uid start name lane : Nat)
  deriving DecidableEq, Repr, Inhabited

/-- What happens to the machine from outside, or by chance, beside the rows of the table (log 16): errors of storage (R328, R410), the state of
the caches (R67, R245, R246), messages of other nodes (R248, R265, R267, R243), and the vector mask of the host (R400). -/
inductive Input where
  | corrected
  | damage (d : Damage)
  | wrongColumn (wg pos : Nat)
  | codeDrop (core : Nat)
  | codeFill (core pcid va : Nat) (words : List Word)
  | l1Full (core slot : Nat) (line : Loc)
  | l2Full (core slot : Nat) (lines : List Loc)
  | bumpAck (node sub : Nat)
  | release (node sub : Nat)
  | merged (win off : Nat)
  | roundEvent
  | fabWin (node : Nat) (block : List Byte) (apply : Bool)
  | fabWinrm (node win : Nat)
  | fabMcast (block : List Byte)
  | fabPlane (block : List Byte)
  | vectorMask (masked : Bool)
  deriving DecidableEq, Repr, Inhabited

/-- A turn: which agent moves next, an event of the table with the operands that the outside supplies, or an input. A turn of a context is one
of its list (none) or of the data command at a place among those under way. -/
inductive Turn where
  | slot (core slot : Nat)
  | lane (core slot : Nat)
  | queue (q : Nat)
  | ce (die engine ctx : Nat) (cmd : Option Nat)
  | event (i : Instr)
  | input (x : Input)
  deriving DecidableEq, Repr, Inhabited

/-- The agent whose instruction exec runs; a context's list, or the data command at a place among those under way. -/
inductive Actor where
  | none
  | split (core slot idx : Nat) (word : Word)
  | lane (core slot : Nat)
  | queue (q : Nat)
  | ce (die engine ctx : Nat) (cmd : Option Nat)
  deriving DecidableEq, Repr, Inhabited

/-- BAR0 and system registers and tables that belong to the chip (R376, R400, R402, R432). -/
structure Chip where
  ctxBase : DWord
  ctxCount : Word
  pgrace : Word
  taskSlots : Word
  evBase : DWord
  evLogn : Word
  evWr : Word
  evRd : Word
  evLost : Word
  msixMask : Bool
  invVa : DWord
  invCtl : Word
  invAt : DWord
  saveBase : DWord
  saveCount : Word
  pslack : Word
  mcdrop : Word
  poolEvent : AList Word
  queues : AList Que
  levels : AList Level
  shelves : AList Shelf
  monitors : AList Monitor
  lastPop : AList Nat
  lastQueue : Nat
  lastServed : Nat
  escal : AList Nat
  deriving DecidableEq, Repr, Inhabited

/-- Revocation (R189 to R196): the bitmap by 4 KiB granule, REVSTAT, REVEPOCH, REVDONE and the
engine operations in flight when the epoch started. -/
structure Revoke where
  bitmap : AList Bool
  sweepDone : Bool
  queued : Bool
  marked : Bool
  epoch : Word
  done : Word
  inFlight : List Nat
  deriving DecidableEq, Repr, Inhabited

/-- The pod fabric as this node sees it (R265, R273, R369 to R373, R441 to R449). `known` are the windows of the pod that this node has
installed elsewhere (R265), `owed` the events on round words that are still to be made, in order (R269). `bumps` lists the sub-pages of this home with an
epoch bump out, each with the nodes that have not acknowledged it (R248). -/
structure Fabric where
  node : BitVec 9
  nodeSet : Bool
  launched : Bool
  incarn : Word
  wins : AList Win
  known : AList WinDesc
  flight : List Contribution
  sparseFlight : List SparsePair
  owed : List RoundDue
  mcast : AList McGroup
  mcThreads : List McThread
  planeMap : AList Nat
  planeDown : AList Bool
  endpoints : AList Endpoint
  regions : AList UeRegion
  peers : AList Peer
  linkstat : AList Word
  reqs : List Req
  sent : List Sent
  answers : List Ans
  tagRecs : List TagRec
  nextTag : BitVec 16
  guest : List GuestLine
  holds : List Hold
  bumps : List (Nat × List Nat)
  uciBad : Bool
  deriving DecidableEq, Repr, Inhabited

/-- Armoire (R451 to R466): slots, domain table by region, scrub, measurements, debug, power state. -/
structure Armoire where
  slots : AList KeySlot
  domains : AList Byte
  scrub : Scrub
  meas : List (BitVec 384)
  unlocked : Bool
  debugNonce : List Byte
  ideCache : Bool
  ideMem : Bool
  cur : BitVec 2
  req : BitVec 2
  life : AList Word
  flash : AList Word
  deriving DecidableEq, Repr, Inhabited

/-- One T9 node and the inputs that await it. `dirty` keeps, for each line that a cache of the device may hold dirty, the
contents that its home's memory may still hold (R228, R229). `hostHeld` tells, by 64-byte line of device memory, what the host caches:
1 it may hold the line, 2 a back-invalidation snoop is out (R408). `hostMesi` is the state of a host line in the L2s, by 128-byte line: 0 I,
1 S, 2 E, 3 M (R407), and `bad` the damaged storage (R410). `waiting` lists the splits (group, split) whose instruction did
not retire at its latest try, `performing` the groups whose lane instruction (none) or split (some) awaits an event of its own
(R83, R241). -/
structure State where
  ram : Ram
  grps : List Grp
  wgs : List Wg
  gangs : List Gang
  launches : List Lnch
  tces : List TceOp
  ces : List CeList
  chip : Chip
  rev : Revoke
  fab : Fabric
  arm : Armoire
  domains : AList (BitVec 6)
  clearing : AList Bool
  ctxs : AList CtxDesc
  tlb : List TlbEnt
  codeCache : AList Nat
  walks : List Walk
  pins : List Pin
  dirty : AList (List LineImg)
  hostHeld : AList Nat
  hostMesi : AList Nat
  bad : List Damage
  drains : List Drain
  waiting : List (Nat × Nat)
  performing : List (Nat × Option Nat)
  owners : AList Own
  proxies : List Proxy
  saveUsed : List Nat
  power : Power
  agenda : List Turn
  actor : Actor
  nonce : Nat
  uid : Nat
  outbox : List Out
  deriving DecidableEq, Repr

/-- Device registers after a reset (R376, R400, R402, R432; zero where the spec gives none, log 4). -/
def Chip.reset : Chip :=
  { ctxBase := 0, ctxCount := 0, pgrace := 50, taskSlots := 0, evBase := 0, evLogn := 0, evWr := 0, evRd := 0,
    evLost := 0, msixMask := false, invVa := 0, invCtl := 0, invAt := 0, saveBase := 0, saveCount := 0, pslack := 0, mcdrop := 0, poolEvent := [],
    queues := [], levels := [], shelves := [], monitors := [], lastPop := [], lastQueue := 63, lastServed := 63, escal := [] }

/-- Revocation state after a reset (R196, R471 step 5). -/
def Revoke.reset : Revoke :=
  { bitmap := [], sweepDone := true, queued := false, marked := false, epoch := 0, done := 0, inFlight := [] }

/-- The fabric state after a reset (R432, R445; log 4). INCARN is 1: never 0 (R446). -/
def Fabric.reset : Fabric :=
  { node := 0, nodeSet := false, launched := false, incarn := 1, wins := [], known := [], flight := [], sparseFlight := [], owed := [], mcast := [], mcThreads := [],
    planeMap := [], planeDown := [], endpoints := [], regions := [], peers := [], linkstat := [], reqs := [], sent := [],
    answers := [], tagRecs := [], nextTag := 0, guest := [], holds := [], bumps := [], uciBad := false }

/-- Armoire after a reset (R452, R454, R466, R468, R471). -/
def Armoire.reset : Armoire :=
  { slots := [], domains := [], scrub := { regions := [], active := false, resumed := false, prog := 0, total := 0 },
    meas := [Config.bootMeas 0, Config.bootMeas 1, Config.bootMeas 2, Config.bootMeas 3, Config.bootMeas 4, 0, 0, 0], unlocked := false, debugNonce := [], ideCache := false, ideMem := false, cur := 0, req := 0,
    life := [], flash := [] }

/-- The machine right after reset (R470, R471): memory zero, nothing placed, no input waiting. -/
def State.reset : State :=
  { ram := { hbm := [], tags := [], host := [], pads := [], maps := [], vers := [] },
    grps := [], wgs := [], gangs := [], launches := [], tces := [], ces := [],
    chip := Chip.reset, rev := Revoke.reset, fab := Fabric.reset, arm := Armoire.reset,
    domains := [], clearing := [], ctxs := [], tlb := [], codeCache := [], walks := [], pins := [], dirty := [], hostHeld := [], hostMesi := [], bad := [], drains := [], waiting := [], performing := [], owners := [],
    proxies := [], saveUsed := [], power := .run, agenda := [], actor := .none, nonce := 0, uid := 100, outbox := [] }

end Sys2Proof.Machine
end

