-- ==== Sys2Proof/Machine/AList.lean ====
section
/-! DEFINITION. Sparse maps in canonical form, and memory as one of them: keys strictly rising, no entry equal to the
default. -/

namespace Sys2Proof.Machine

/-- The value at key k; d where no entry is listed. -/
def aget {α : Type} (d : α) : AList α → Nat → α
  | [], _ => d
  | (j, v) :: l, k => if k = j then v else aget d l k

/-- The map without key k. -/
def adel {α : Type} (l : AList α) (k : Nat) : AList α := l.filter fun e => e.1 != k

/-- The map with v at key k: an entry equal to the default is dropped. -/
def aset {α : Type} [DecidableEq α] (d : α) : AList α → Nat → α → AList α
  | [], k, v => if v = d then [] else [(k, v)]
  | (j, w) :: l, k, v =>
    if k < j then (if v = d then (j, w) :: adel l k else (k, v) :: (j, w) :: l)
    else if k = j then (if v = d then adel l k else (k, v) :: l)
    else (j, w) :: aset d l k v

/-- The canonical form of a sparse map: keys strictly rising from `lo`, no entry equal to the default. -/
def awfFrom {α : Type} [DecidableEq α] (d : α) : Nat → AList α → Bool
  | _, [] => true
  | lo, (k, v) :: l => lo ≤ k && v ≠ d && awfFrom d (k + 1) l

/-- The canonical form of a sparse map. -/
def awf {α : Type} [DecidableEq α] (d : α) (l : AList α) : Bool := awfFrom d 0 l

/-- The canonical form of memory. -/
def Memory.wf (m : Memory) : Bool := awf (0 : Byte) m

/-- The byte at an address; an unlisted address reads 0. -/
def rd8 (m : Memory) (a : Nat) : Byte := aget 0 m a

/-- Memory with one byte written. -/
def wr8 (m : Memory) (a : Nat) (b : Byte) : Memory := aset 0 m a b

/-- The n bytes from an address up. -/
def rdBytes (m : Memory) (a : Nat) : Nat → List Byte
  | 0 => []
  | n + 1 => rd8 m a :: rdBytes m (a + 1) n

/-- Memory with bytes written from an address up. -/
def wrBytes (m : Memory) (a : Nat) : List Byte → Memory
  | [] => m
  | b :: l => wrBytes (wr8 m a b) (a + 1) l

/-- Replaces the elements that satisfy p. -/
def updWhere {α : Type} (p : α → Bool) (f : α → α) (l : List α) : List α := l.map fun x => if p x then f x else x

/-- Tails of n consecutive numbers from k. -/
def upto (k : Nat) : Nat → List Nat
  | 0 => []
  | n + 1 => k :: upto (k + 1) n

/-- Numbers from 0 below n. -/
def below (n : Nat) : List Nat := upto 0 n

end Sys2Proof.Machine
end

