-- ==== Sys2Proof/Machine/Bits.lean ====
section
/-! DEFINITION. Exact numbers from words and back, byte lists, masks and rows. -/

namespace Sys2Proof.Machine

/-- u(x) and s(x) of a word as exact integers (R7). -/
def uI (x : Word) : Int := x.toNat
def sI (x : Word) : Int := x.toInt

/-- wrap(x): bits 31..0 of an exact integer. -/
def wrapI (x : Int) : Word := BitVec.ofInt 32 x

/-- clamp(x) to a range. -/
def clampI (lo hi x : Int) : Int := if x < lo then lo else if x > hi then hi else x

/-- clamp_t(x) of R117: .s32 or, if `uns`, .z32. -/
def clampT (uns : Bool) (x : Int) : Int := if uns then clampI 0 (2 ^ 32 - 1) x else clampI (-(2 ^ 31)) (2 ^ 31 - 1) x

/-- t(x) of R117. -/
def tI (uns : Bool) (x : Word) : Int := if uns then uI x else sI x

/-- An exact integer modulo 2^n, as a natural number. -/
def modPow (x : Int) (n : Nat) : Nat := (x % (2 ^ n : Int)).toNat

/-- The low half and the high half of a 64-bit number. -/
def lo32 (x : Nat) : Word := BitVec.ofNat 32 x
def hi32 (x : Nat) : Word := BitVec.ofNat 32 (x / 2 ^ 32)

/-- Two words as a 64-bit number, low word first. -/
def pair64 (lo hi : Word) : Nat := hi.toNat * 2 ^ 32 + lo.toNat

/-- A natural number below 2^n read as signed. -/
def sgn (n x : Nat) : Int := if x % 2 ^ n < 2 ^ (n - 1) then (x % 2 ^ n : Int) else (x % 2 ^ n : Int) - 2 ^ n

/-- The n low bits of x, sign-extended to a word. -/
def sext (n x : Nat) : Word := wrapI (sgn n x)

/-- Bit l of a lane mask. -/
def lane (m : LaneMask) (l : Nat) : Bool := m.getLsbD l

/-- The mask with the lanes that satisfy p. -/
def maskOf (p : Nat → Bool) : LaneMask := (below 96).foldl (fun m l => if p l then m ||| BitVec.ofNat 96 (2 ^ l) else m) 0

/-- The lanes of a mask, ascending. -/
def lanesOf (m : LaneMask) : List Nat := (below 96).filter (lane m)

/-- All 96 lanes. -/
def allLanes : LaneMask := BitVec.allOnes 96

/-- The number of lanes of a mask. -/
def popMask (m : LaneMask) : Nat := (lanesOf m).length

/-- Beat b of a mask (R4). -/
def beat (m : LaneMask) (b : Nat) : Word := m.extractLsb' (32 * b) 32

/-- A mask with beat b replaced. -/
def setBeat (m : LaneMask) (b : Nat) (w : Word) : LaneMask :=
  (m &&& ~~~(BitVec.ofNat 96 ((2 ^ 32 - 1) * 2 ^ (32 * b)))) ||| BitVec.ofNat 96 (w.toNat * 2 ^ (32 * b))

/-- The poison value (R51). -/
def poison : Word := 0x7FA00DEA

/-- A row that holds one value in every lane. -/
def rowOf (w : Word) : Row := List.replicate 96 w
def poisonRow : Row := rowOf poison
def zeroRow : Row := rowOf 0

/-- Lane l of a row. -/
def rl (r : Row) (l : Nat) : Word := r.getD l 0

/-- A row computed lane by lane. -/
def rowFn (f : Nat → Word) : Row := (below 96).map f

/-- The lanes of m from the first row, the others from the second. -/
def mergeRow (m : LaneMask) (new old : Row) : Row := rowFn fun l => if lane m l then rl new l else rl old l

/-- The k-th byte of a word. -/
def byteOf (w : Word) (k : Nat) : Byte := w.extractLsb' (8 * k) 8

/-- Words as bytes, low byte first (R1). -/
def wordsBytes (ws : List Word) : List Byte := ws.flatMap fun w => leBytes 4 w.toNat

/-- Bytes as words, low byte first. -/
def bytesWords : List Byte → List Word
  | a :: b :: c :: d :: l => BitVec.ofNat 32 (leNat [a, b, c, d]) :: bytesWords l
  | [] => []
  | l => [BitVec.ofNat 32 (leNat l)]

/-- Bits n+k-1..k of a natural number. -/
def nbits (x k n : Nat) : Nat := (x >>> k) % 2 ^ n

/-- The number of set bits and of leading zeros of a word. -/
def popWord (w : Word) : Nat := ((below 32).filter w.getLsbD).length
def clzWord (w : Word) : Nat := if w = 0 then 32 else 31 - Nat.log2 w.toNat

end Sys2Proof.Machine
end

