-- ==== Sys2Proof/Machine/Float.lean ====
section
/-! DEFINITION. Number formats, exact values, rounding, flags, NaNs and conversions
(spec/05_lane_float.md R134 to R143, R149 to R154, R156, R159 to R164). -/

namespace Sys2Proof.Machine

/-- How a format holds NaNs and infinities (R134). -/
inductive NanKind where
  | ieee | e4m3 | none
  deriving DecidableEq, Repr

/-- A floating-point format: exponent width, fraction width F, bias b (R134). -/
structure Fmt where
  eb : Nat
  f : Nat
  bias : Int
  nan : NanKind
  deriving DecidableEq, Repr

def fmt64 : Fmt := ⟨11, 52, 1023, .ieee⟩
def fmt32 : Fmt := ⟨8, 23, 127, .ieee⟩
def fmt16 : Fmt := ⟨5, 10, 15, .ieee⟩
def fmtB16 : Fmt := ⟨8, 7, 127, .ieee⟩
def fmtE5 : Fmt := ⟨5, 2, 15, .ieee⟩
def fmtE4 : Fmt := ⟨4, 3, 7, .e4m3⟩
def fmtE3 : Fmt := ⟨3, 2, 3, .none⟩
def fmtE2M3 : Fmt := ⟨2, 3, 1, .none⟩
def fmtE2M1 : Fmt := ⟨2, 1, 1, .none⟩

/-- The format of a floating-point type. -/
def fmtOf : Ty → Option Fmt
  | .f64 => some fmt64 | .f32 => some fmt32 | .f16 => some fmt16 | .bf16 => some fmtB16 | .e5m2 => some fmtE5
  | .e4m3 => some fmtE4 | .e3m2 => some fmtE3 | .e2m3 => some fmtE2M3 | .e2m1 => some fmtE2M1 | _ => none

/-- Flags as the field FPFLAGS (R142): INVALID, DIVBYZERO, OVERFLOW, UNDERFLOW, INEXACT. -/
abbrev Flags := BitVec 5
def flInvalid : Flags := 1
def flDivZero : Flags := 2
def flOverflow : Flags := 4
def flUnderflow : Flags := 8
def flInexact : Flags := 16

/-- An exact value: m × 2^e with a sign; `sticky` adds a positive amount below 2^e to the magnitude. -/
inductive FV where
  | nan
  | inf (neg : Bool)
  | fin (neg : Bool) (m : Nat) (e : Int) (sticky : Bool)
  deriving DecidableEq, Repr, Inhabited

/-- Fields of a pattern: sign, exponent, fraction. -/
def fSign (F : Fmt) (x : Nat) : Bool := (x >>> (F.eb + F.f)) % 2 = 1
def fExp (F : Fmt) (x : Nat) : Nat := nbits x F.f F.eb
def fFrac (F : Fmt) (x : Nat) : Nat := nbits x 0 F.f

/-- The pattern of sign, exponent and fraction. -/
def fPack (F : Fmt) (neg : Bool) (e f : Nat) : Nat := (if neg then 2 ^ (F.eb + F.f) else 0) + e * 2 ^ F.f + f

def isNan (F : Fmt) (x : Nat) : Bool :=
  match F.nan with
  | .ieee => fExp F x = 2 ^ F.eb - 1 && fFrac F x != 0
  | .e4m3 => fExp F x = 2 ^ F.eb - 1 && fFrac F x = 2 ^ F.f - 1
  | .none => false

/-- A signalling NaN (R136). -/
def isSnan (F : Fmt) (x : Nat) : Bool := isNan F x && F.nan = .ieee && fFrac F x < 2 ^ (F.f - 1)

/-- The value of a pattern (R135). -/
def fVal (F : Fmt) (x : Nat) : FV :=
  if isNan F x then .nan
  else if F.nan = .ieee && fExp F x = 2 ^ F.eb - 1 then .inf (fSign F x)
  else if fExp F x = 0 then .fin (fSign F x) (fFrac F x) (1 - F.bias - F.f) false
  else .fin (fSign F x) (2 ^ F.f + fFrac F x) (fExp F x - F.bias - F.f) false

/-- A subnormal pattern. -/
def isSub (F : Fmt) (x : Nat) : Bool := fExp F x = 0 && fFrac F x != 0

/-- in(x): a subnormal read as a zero of its sign under `.ftz` (R141). -/
def fIn (F : Fmt) (ftz : Bool) (x : Nat) : FV :=
  if ftz && isSub F x then .fin (fSign F x) 0 0 false else fVal F x

/-- The canonical NaN (R136); 0 where the format has none (R143). -/
def canonNan (F : Fmt) : Nat :=
  match F.nan with
  | .ieee => fPack F false (2 ^ F.eb - 1) (2 ^ (F.f - 1))
  | .e4m3 => 0x7F
  | .none => 0

/-- An infinity of the format, for formats that have one. -/
def infPat (F : Fmt) (neg : Bool) : Nat := fPack F neg (2 ^ F.eb - 1) 0

/-- The largest finite pattern (R135). -/
def maxPat (F : Fmt) (neg : Bool) : Nat :=
  match F.nan with
  | .ieee => fPack F neg (2 ^ F.eb - 2) (2 ^ F.f - 1)
  | .e4m3 => fPack F neg (2 ^ F.eb - 1) (2 ^ F.f - 2)
  | .none => fPack F neg (2 ^ F.eb - 1) (2 ^ F.f - 1)

/-- The largest finite magnitude, as m and e. -/
def maxMag (F : Fmt) : Nat × Int :=
  match fVal F (maxPat F false) with | .fin _ m e _ => (m, e) | _ => (0, 0)

/-- m1 × 2^e1 > m2 × 2^e2. -/
def gtMag (m1 : Nat) (e1 : Int) (m2 : Nat) (e2 : Int) : Bool :=
  let d := if e1 < e2 then e1 else e2
  m1 * 2 ^ (e1 - d).toNat > m2 * 2 ^ (e2 - d).toNat

/-- The magnitude m × 2^e (plus sticky) as a multiple of 2^q: the truncated count, whether it is inexact, and the
comparison of the rest with half a unit: 0 below, 1 equal, 2 above. -/
def splitAt (m : Nat) (e : Int) (sticky : Bool) (q : Int) : Nat × Bool × Nat :=
  if q ≤ e then
    -- only exact values reach this branch with sticky set to no effect: quotients and roots carry more bits than F
    (m * 2 ^ (e - q).toNat, sticky, 0)
  else
    let s := (q - e).toNat
    let n := m >>> s
    let r := m % 2 ^ s
    let half := 2 ^ (s - 1)
    (n, r != 0 || sticky, if r < half then 0 else if r = half then (if sticky then 2 else 1) else 2)

/-- Whether a rounding mode increases the truncated magnitude (R140). -/
def roundsUp (mode : Rnd) (neg odd inexact : Bool) (cmp : Nat) : Bool :=
  match mode with
  | .rne => cmp = 2 || (cmp = 1 && odd)
  | .rna => cmp ≥ 1
  | .rz => false
  | .ru => inexact && !neg
  | .rd => inexact && neg

/-- The magnitude rounded to a multiple of 2^q, and whether that changed it. -/
def roundQ (mode : Rnd) (neg : Bool) (m : Nat) (e : Int) (sticky : Bool) (q : Int) : Nat × Bool :=
  let (n, inex, cmp) := splitAt m e sticky q
  (if roundsUp mode neg (n % 2 = 1) inex cmp then n + 1 else n, inex)

/-- The result of rounding: a pattern, or an overflow of this sign, with the flags that rounding sets. -/
structure Rounded where
  pat : Nat
  ovf : Bool
  neg : Bool
  flags : Flags

/-- Rounds a finite non-zero exact value into a format (R140, R142). A sticky value is first given bits below its last. -/
def roundFin (F : Fmt) (mode : Rnd) (neg : Bool) (m0 : Nat) (e0 : Int) (sticky : Bool) : Rounded :=
  let m := if sticky then m0 * 2 ^ (F.f + 4) else m0
  let e := if sticky then e0 - (F.f + 4) else e0
  let lead : Int := (Nat.log2 m : Int) + e
  let qn : Int := lead - F.f
  let qmin : Int := 1 - F.bias - F.f
  let q := if qn < qmin then qmin else qn
  let (n, inex) := roundQ mode neg m e sticky q
  let (n1, _) := roundQ mode neg m e sticky qn
  let tiny : Bool := gtMag 1 (1 - F.bias) n1 qn
  let (mm, me) := maxMag F
  if gtMag n q mm me then { pat := 0, ovf := true, neg := neg, flags := flOverflow ||| flInexact }
  else
    let (n2, q2) := if n ≥ 2 ^ (F.f + 1) then (n / 2, q + 1) else (n, q)
    let pat := if n2 < 2 ^ F.f then fPack F neg 0 n2 else fPack F neg (q2 + F.f + F.bias).toNat (n2 - 2 ^ F.f)
    { pat := pat, ovf := false, neg := neg,
      flags := (if inex then flInexact else 0) ||| (if tiny && inex then flUnderflow else 0) }

/-- The pattern that an overflow gives by mode, in a format with infinities (R140). -/
def overPat (F : Fmt) (mode : Rnd) (neg : Bool) : Nat :=
  match mode with
  | .rne | .rna => infPat F neg
  | .rz => maxPat F neg
  | .ru => if neg then maxPat F true else infPat F false
  | .rd => if neg then infPat F true else maxPat F false

/-- round(x) of an exact value into an IEEE-like format, NaN canonical (R140, R143). -/
def roundF (F : Fmt) (mode : Rnd) (v : FV) : Nat × Flags :=
  match v with
  | .nan => (canonNan F, 0)
  | .inf neg => (infPat F neg, 0)
  | .fin neg m e st =>
    if m = 0 && !st then (fPack F neg 0 0, 0)
    else
      let r := roundFin F mode neg m e st
      (if r.ovf then overPat F mode neg else r.pat, r.flags)

/-- The flush of a subnormal result under `.ftz` (R141). -/
def ftzOut (F : Fmt) (ftz : Bool) (r : Nat × Flags) : Nat × Flags :=
  if ftz && isSub F r.1 then (fPack F (fSign F r.1) 0 0, r.2 ||| flUnderflow ||| flInexact) else r

/-- The clamp of R150 to the range +0 to 1.0. -/
def satUnit (F : Fmt) (sat : Bool) (x : Nat) : Nat :=
  if !sat then x
  else if isNan F x || fSign F x then 0
  else if x > fPack F false F.bias.toNat 0 then fPack F false F.bias.toNat 0
  else x

/-- The NaN result of an operation in one format (R143): canonical, or with `.nanp` the first NaN source quieted. -/
def nanResult (F : Fmt) (nanp : Bool) (srcs : List Nat) : Nat :=
  match if nanp then srcs.find? (isNan F) else none with
  | some x => if F.nan = .ieee then x ||| 2 ^ (F.f - 1) else x
  | none => canonNan F

/-- The exact sum, with the sign of an exact zero by mode (R140). -/
def addV (mode : Rnd) (a b : FV) : FV :=
  match a, b with
  | .nan, _ | _, .nan => .nan
  | .inf x, .inf y => if x = y then .inf x else .nan
  | .inf x, _ => .inf x
  | _, .inf y => .inf y
  | .fin na ma ea sa, .fin nb mb eb sb =>
    if ma = 0 && mb = 0 then .fin (if na = nb then na else mode = .rd) 0 0 false
    else if ma = 0 then .fin nb mb eb sb
    else if mb = 0 then .fin na ma ea sa
    else
      let e := if ea < eb then ea else eb
      let x : Int := (if na then -1 else 1) * (ma * 2 ^ (ea - e).toNat : Nat)
      let y : Int := (if nb then -1 else 1) * (mb * 2 ^ (eb - e).toNat : Nat)
      let z := x + y
      if z = 0 then .fin (mode = .rd) 0 0 false else .fin (z < 0) z.natAbs e false

/-- The exact product. -/
def mulV (a b : FV) : FV :=
  match a, b with
  | .nan, _ | _, .nan => .nan
  | .inf x, .inf y => .inf (x != y)
  | .inf x, .fin y m _ _ | .fin y m _ _, .inf x => if m = 0 then .nan else .inf (x != y)
  | .fin x m e _, .fin y n f _ => .fin (x != y) (m * n) (e + f) false

def negV : FV → FV
  | .nan => .nan
  | .inf x => .inf (!x)
  | .fin x m e s => .fin (!x) m e s

/-- The quotient with p bits or more, the rest sticky; zero and infinity by IEEE 754. -/
def divV (p : Nat) (a b : FV) : FV :=
  match a, b with
  | .nan, _ | _, .nan => .nan
  | .inf _, .inf _ => .nan
  | .inf x, .fin y _ _ _ => .inf (x != y)
  | .fin x _ _ _, .inf y => .fin (x != y) 0 0 false
  | .fin x m e _, .fin y n f _ =>
    if n = 0 then (if m = 0 then .nan else .inf (x != y))
    else if m = 0 then .fin (x != y) 0 0 false
    else
      let k := Nat.log2 n + p + 2 - Nat.log2 m
      .fin (x != y) (m * 2 ^ k / n) (e - f - k) (m * 2 ^ k % n != 0)

/-- The integer square root, one result bit a step, from bit i-1 down. -/
def isqrtGo (x : Nat) : Nat → Nat → Nat
  | 0, r => r
  | i + 1, r => let t := r + 2 ^ i; if t * t ≤ x then isqrtGo x i t else isqrtGo x i r

def isqrt (x : Nat) : Nat := isqrtGo x (Nat.log2 x / 2 + 1) 0

/-- The square root with p bits or more, the rest sticky; negative values give a NaN, zeros and +∞ themselves. -/
def sqrtV (p : Nat) (a : FV) : FV :=
  match a with
  | .nan => .nan
  | .inf x => if x then .nan else .inf false
  | .fin x m e _ =>
    if m = 0 then a
    else if x then .nan
    else
      let k0 := 2 * p + 4
      let k := if (e - k0) % 2 = 0 then k0 else k0 + 1
      let n := m * 2 ^ k
      let r := isqrt n
      .fin false r ((e - k) / 2) (r * r != n)

/-- One arithmetic instruction in one format (R141 to R143, R149, R150): sources, the exact result, and flags of the
operation itself for non-NaN sources. -/
def arith (F : Fmt) (mode : Rnd) (ftz sat nanp : Bool) (srcs : List Nat) (op : List FV → FV × Flags) : Nat × Flags :=
  let vs := srcs.map (fIn F ftz)
  let sn : Flags := if srcs.any (isSnan F) then flInvalid else 0
  let (v, fl) := op vs
  if srcs.any (isNan F) then (satUnit F sat (nanResult F nanp srcs), sn ||| fl)
  else if v = .nan then (satUnit F sat (canonNan F), fl ||| flInvalid)
  else
    let r := ftzOut F ftz (roundF F mode v)
    (satUnit F sat r.1, r.2 ||| fl)

def isZeroV : FV → Bool
  | .fin _ m _ s => m = 0 && !s
  | _ => false
def isInfV : FV → Bool
  | .inf _ => true
  | _ => false

/-- A sum, difference, product and fused product sum (R149). -/
def opAdd (mode : Rnd) : List FV → FV × Flags
  | [a, b] => (addV mode a b, 0)
  | _ => (.nan, 0)
def opSub (mode : Rnd) : List FV → FV × Flags
  | [a, b] => (addV mode a (negV b), 0)
  | _ => (.nan, 0)
def opMul : List FV → FV × Flags
  | [a, b] => (mulV a b, 0)
  | _ => (.nan, 0)
def opFma (mode : Rnd) : List FV → FV × Flags
  | [a, b, c] =>
    let bad : Bool := (isZeroV a && isInfV b) || (isInfV a && isZeroV b)
    (addV mode (mulV a b) c, if bad then flInvalid else 0)
  | _ => (.nan, 0)
/-- FDIV and FSQRT (R154). -/
def opDiv : List FV → FV × Flags
  | [a, b] => (divV 56 a b, if isZeroV b && (match a with | .fin _ m _ _ => m != 0 | _ => false) then flDivZero else 0)
  | _ => (.nan, 0)
def opSqrt : List FV → FV × Flags
  | [a] => (sqrtV 56 a, 0)
  | _ => (.nan, 0)

/-- Compares non-NaN values: -1, 0 or 1, with −0 equal to +0. -/
def cmpV (a b : FV) : Int :=
  let big (x : Bool) : Int := if x then -1 else 1
  match a, b with
  | .inf x, .inf y => if x = y then 0 else big x
  | .inf x, _ => big x
  | _, .inf y => -(big y)
  | .fin na ma ea _, .fin nb mb eb _ =>
    let e := if ea < eb then ea else eb
    let x : Int := (if na then -1 else 1) * (ma * 2 ^ (ea - e).toNat : Nat)
    let y : Int := (if nb then -1 else 1) * (mb * 2 ^ (eb - e).toNat : Nat)
    if x < y then -1 else if x = y then 0 else 1
  | .nan, _ | _, .nan => 0

/-- A source as read under `.ftz`, as a pattern. -/
def inPat (F : Fmt) (ftz : Bool) (x : Nat) : Nat := if ftz && isSub F x then fPack F (fSign F x) 0 0 else x

/-- FMIN and FMAX (R151). -/
def fMinMax (F : Fmt) (max nan ftz nanp : Bool) (a0 b0 : Nat) : Nat × Flags :=
  let a := inPat F ftz a0
  let b := inPat F ftz b0
  let fl : Flags := if isSnan F a || isSnan F b then flInvalid else 0
  if isNan F a && isNan F b then (nanResult F nanp [a, b], fl)
  else if isNan F a then (if nan then nanResult F nanp [a, b] else b, fl)
  else if isNan F b then (if nan then nanResult F nanp [a, b] else a, fl)
  else
    let c := cmpV (fVal F a) (fVal F b)
    -- −0 stands below +0
    let c' : Int := if c = 0 && isZeroV (fVal F a) then
        (if fSign F a = fSign F b then 0 else if fSign F a then -1 else 1) else c
    (if max then (if c' ≥ 0 then a else b) else (if c' ≤ 0 then a else b), fl)

/-- FCMP (R152): the condition and the flags. -/
def fCmp (F : Fmt) (ftz : Bool) (cond : Nat) (a b : Nat) : Bool × Flags :=
  let un : Bool := isNan F a || isNan F b
  let sn : Bool := isSnan F a || isSnan F b
  let c := cmpV (fIn F ftz a) (fIn F ftz b)
  let r : Bool := match cond with
    | 0 => !un && c = 0 | 1 => un || c != 0 | 2 => !un && c < 0 | 3 => !un && c ≤ 0
    | 4 => !un && c > 0 | 5 => !un && c ≥ 0 | 6 => un | _ => !un
  (r, if sn || (un && 2 ≤ cond && cond ≤ 5) then flInvalid else 0)

/-- FCLASS (R153). -/
def fClass (F : Fmt) (x : Nat) : Nat :=
  if isNan F x then (if isSnan F x then 256 else 512)
  else
    let s := fSign F x
    if fExp F x = 2 ^ F.eb - 1 then (if s then 1 else 128)
    else if fExp F x = 0 then
      (if fFrac F x = 0 then (if s then 8 else 16) else if s then 4 else 32)
    else if s then 2 else 64

/-- FRND (R156): an integral value, never INEXACT. -/
def fRnd (F : Fmt) (mode : Rnd) (ftz nanp : Bool) (x : Nat) : Nat × Flags :=
  if isNan F x then (nanResult F nanp [x], if isSnan F x then flInvalid else 0)
  else match fIn F ftz x with
    | .fin neg m e _ =>
      if m = 0 || e ≥ 0 then (inPat F ftz x, 0)
      else
        let (n, _) := roundQ mode neg m e false 0
        ((roundF F mode (.fin neg n 0 false)).1, 0)
    | _ => (x, 0)

/-- FSCALE (R156). -/
def fScale (F : Fmt) (mode : Rnd) (ftz nanp : Bool) (x : Nat) (k : Int) : Nat × Flags :=
  arith F mode ftz false nanp [x] fun vs => match vs with
    | [.fin n m e s] => (.fin n m (e + k) s, 0)
    | [v] => (v, 0)
    | _ => (.nan, 0)

/-- A NaN carried into another format with `.nanp`: quieted, sign and high fraction bits kept (R143, R161). Into a wider format
the fraction's bits stand at its high end: DESIGN CHOICE (log 76). -/
def nanMove (S D : Fmt) (nanp : Bool) (x : Nat) : Nat :=
  if !nanp then canonNan D
  else match D.nan with
    | .none => 0
    | .e4m3 => (if fSign S x then 0x80 else 0) + 0x7F
    | .ieee =>
      let q := fFrac S x ||| 2 ^ (S.f - 1)
      let f := if D.f ≤ S.f then q >>> (S.f - D.f) else q <<< (D.f - S.f)
      fPack D (fSign S x) (2 ^ D.eb - 1) f

/-- Conversion of an exact value into a format (R140, R161). -/
def convV (D : Fmt) (mode : Rnd) (ftz sat : Bool) (v : FV) : Nat × Flags :=
  match v with
  | .nan => if D.nan = .none then (0, flInvalid) else (canonNan D, 0)
  | .inf neg =>
    if sat then (maxPat D neg, flOverflow ||| flInexact)
    else match D.nan with
      | .ieee => (infPat D neg, 0)
      | .e4m3 => (0x7F, flInvalid)
      | .none => (maxPat D neg, flInvalid)
  | .fin neg m e st =>
    if m = 0 && !st then (fPack D neg 0 0, 0)
    else
      let r := roundFin D mode neg m e st
      if r.ovf then
        (if sat then maxPat D neg
         else match D.nan with
           | .ieee => overPat D mode neg
           | .e4m3 => (if neg then 0xFF else 0x7F)
           | .none => maxPat D neg, r.flags)
      else ftzOut D ftz (r.pat, r.flags)

/-- float → float (R159, R161). -/
def convFF (S D : Fmt) (mode : Rnd) (ftz sat nanp : Bool) (x : Nat) : Nat × Flags :=
  if isNan S x then
    (if D.nan = .none then (0, flInvalid)
     else (nanMove S D nanp x, if isSnan S x then flInvalid else 0))
  else convV D mode ftz sat (fIn S ftz x)

/-- An exact value rounded to an integer by mode: the integer and whether that changed it. -/
def toIntV (mode : Rnd) (v : FV) : Int × Bool :=
  match v with
  | .fin neg m e st =>
    let (n, ix) := roundQ mode neg m e st 0
    (if neg then -(n : Int) else n, ix)
  | _ => (0, false)

/-- float → integer (R159): the clamped value and the flags. -/
def convFI (S : Fmt) (lo hi : Int) (mode : Rnd) (ftz : Bool) (x : Nat) : Int × Flags :=
  match fIn S ftz x with
  | .nan => (0, flInvalid)
  | .inf neg => (if neg then lo else hi, flInvalid)
  | v =>
    let (n, ix) := toIntV mode v
    if n < lo then (lo, flInvalid) else if n > hi then (hi, flInvalid) else (n, if ix then flInexact else 0)

/-- The exact value of an integer. -/
def intV (x : Int) : FV := .fin (x < 0) x.natAbs 0 false

/-- The scale of a code: exponent e − 127 and quarters 4 + m, for E8M0 or, if `ws`, E8M2; none for a NaN scale (R139). -/
def scaleOf (ws : Bool) (code : Nat) : Option (Nat × Int) :=
  if ws then (if nbits code 2 8 = 255 then none else some (4 + code % 4, (nbits code 2 8 : Int) - 129))
  else (if code % 256 = 255 then none else some (4, (code % 256 : Nat) - (129 : Int)))

/-- A scale as an exact value. -/
def scaleV (ws : Bool) (code : Nat) : FV :=
  match scaleOf ws code with | none => .nan | some (m, e) => .fin false m e false

/-- Whether a scale code times EMAX reaches the magnitude m × 2^e (R163). -/
def scaleReaches (ws : Bool) (code emaxM : Nat) (emaxE : Int) (m : Nat) (e : Int) : Bool :=
  match scaleOf ws code with
  | none => true
  | some (q, x) => !gtMag m e (q * emaxM) (x + emaxE)

/-- The code of the smallest scale s with s ≥ m / EMAX (R163). -/
def scaleCode (ws : Bool) (emaxM : Nat) (emaxE : Int) (m : Nat) (e : Int) : Nat :=
  ((below (if ws then 1020 else 255)).find? (fun c => scaleReaches ws c emaxM emaxE m e)).getD (if ws then 0x3FB else 0xFE)

end Sys2Proof.Machine
end

