-- ==== Sys2Proof/Machine/Flags.lean ====
section
/-! DEFINITION. The status flags and the comparisons that instructions compute (spec/05_lane_float.md R142;
spec/03_scalar_stream.md R90, R111; spec/04_lane_integer.md R126). -/

namespace Sys2Proof.Machine

/-- Floating-point flags in their place in STATUS, bits 6..2 (R111, R142). -/
def fpStatus (f : Flags) : Word := f.zeroExtend 32 <<< 2

/-- The W1C write of STATUS (R111): the writable bits are 6..0. -/
def statusW1C (old v : Word) : Word := old &&& ~~~ (v &&& 0x7F)

/-- The conditions of BRC (R90). -/
def brcCond (cond : Nat) (v : Word) : Bool :=
  match cond with
  | 0 => v = 0
  | 1 => v != 0
  | 2 => sI v < 0
  | 3 => sI v ≥ 0
  | 4 => sI v ≤ 0
  | _ => sI v > 0

/-- The conditions of ICMP over exact integers (R126). -/
def icmpCond (cond : Nat) (a b : Int) : Bool :=
  match cond with
  | 0 => a = b
  | 1 => a != b
  | 2 => a < b
  | 3 => a ≤ b
  | 4 => a > b
  | _ => a ≥ b

end Sys2Proof.Machine
end

