-- ==== Sys2Proof/Machine/Caps.lean ====
section
/-! DEFINITION. The capability word, its bounds, the derivations and the checks at use (spec/06_capabilities.md R165 to R187). -/

namespace Sys2Proof.Machine

/-- Why an access or an instruction traps: the fields of the fault record that depend on the cause (R411). -/
structure TrapInfo where
  kind : Nat
  detail : Nat
  access : Nat := 0
  home : Bool := false
  cap : Cap := { bits := 0, tag := false }
  missing : Nat := 0
  addr : Nat := 0
  mask : LaneMask := 0
  undone : LaneMask := 0
  w16 : Word := 0
  w17 : Word := 0
  w18 : Word := 0
  deriving DecidableEq, Repr, Inhabited

/-- The fault kinds of R409. -/
def kIllegal : Nat := 1
def kPartial : Nat := 2
def kCap : Nat := 3
def kPage : Nat := 4
def kScope : Nat := 5
def kSwizzle : Nat := 6
def kPeerlost : Nat := 7
def kIntegrity : Nat := 8
def kSpoiled : Nat := 9
def kSdc : Nat := 10
def kDiverge : Nat := 11
def kWatch : Nat := 12
def kSoftware : Nat := 13

/-- Access kinds of the fault record (R411). -/
def accNone : Nat := 0
def accRead : Nat := 1
def accWrite : Nat := 2
def accAtomic : Nat := 3
def accFetch : Nat := 4
def accMap : Nat := 5
def accEngine : Nat := 6

def capNull : Cap := { bits := 0, tag := false }

/-- The fields of a capability (R165). -/
def cPerms (c : Cap) : BitVec 16 := c.bits.extractLsb' 112 16
def cOtype (c : Cap) : Nat := (c.bits.extractLsb' 106 6).toNat
def cSP (c : Cap) : Bool := c.bits.getLsbD 104
def cE (c : Cap) : Nat := (c.bits.extractLsb' 98 6).toNat
def cB (c : Cap) : Nat := (c.bits.extractLsb' 81 17).toNat
def cT (c : Cap) : Nat := (c.bits.extractLsb' 64 17).toNat
def cAddr (c : Cap) : Nat := (c.bits.extractLsb' 0 64).toNat

/-- The permission bits of R166, by number minus 112. -/
def pLOAD : Nat := 0
def pSTORE : Nat := 1
def pEXEC : Nat := 2
def pLOADCAP : Nat := 3
def pSTORECAP : Nat := 4
def pSTORELOCAL : Nat := 5
def pSEAL : Nat := 6
def pUNSEAL : Nat := 7
def pSYS : Nat := 8
def pREMOTE : Nat := 9
def pATOMIC : Nat := 10
def pMAP : Nat := 11
def pCOPY : Nat := 12
def pGLOBAL : Nat := 13
def pREVAUTH : Nat := 14

/-- A permission of a capability. -/
def cHas (c : Cap) (p : Nat) : Bool := (cPerms c).getLsbD p

/-- A permission set from bit numbers. -/
def permSet (l : List Nat) : BitVec 16 := l.foldl (fun m p => m ||| BitVec.ofNat 16 (2 ^ p)) 0

/-- A capability of these fields. -/
def mkCap (perms : BitVec 16) (otype : Nat) (sp : Bool) (e b t addr : Nat) (tag : Bool) : Cap :=
  { bits := perms ++ BitVec.ofNat 6 otype ++ (0 : BitVec 1) ++ ofBit sp ++ BitVec.ofNat 6 e ++ BitVec.ofNat 17 b
      ++ BitVec.ofNat 17 t ++ BitVec.ofNat 64 addr, tag := tag }

/-- A capability with another address; every other field as it stands, bit 105 of an untagged one among them (R180; R165 says that a
derivation writes it 0): DESIGN CHOICE (log 76). -/
def withAddr (c : Cap) (a : Int) : Cap :=
  { c with bits := c.bits.extractLsb' 64 64 ++ BitVec.ofNat 64 (modPow a 64) }

/-- A capability with other permissions. -/
def withPerms (c : Cap) (p : BitVec 16) : Cap := { c with bits := p ++ c.bits.extractLsb' 0 112 }

/-- A capability with another otype. -/
def withOtype (c : Cap) (o : Nat) : Cap :=
  { c with bits := c.bits.extractLsb' 112 16 ++ BitVec.ofNat 6 o ++ c.bits.extractLsb' 0 106 }

/-- A capability with other bounds fields. -/
def withBounds (c : Cap) (e b t : Nat) : Cap :=
  { c with bits := c.bits.extractLsb' 104 24 ++ BitVec.ofNat 6 e ++ BitVec.ofNat 17 b ++ BitVec.ofNat 17 t
      ++ c.bits.extractLsb' 0 64 }

/-- The length in granules, the margin, and the base, top and representable region (R169). -/
def capLen (c : Cap) : Nat := (cT c + 2 ^ 17 - cB c) % 2 ^ 17
def capMargin (c : Cap) : Nat := (2 ^ 17 - capLen c) / 8
def capBase (c : Cap) : Int :=
  let g : Int := 2 ^ cE c
  let y : Int := cAddr c + capMargin c * g
  y - (y - cB c * g) % 2 ^ (cE c + 17)
def capTop (c : Cap) : Int := capBase c + capLen c * 2 ^ cE c
def capRegionLo (c : Cap) : Int := capBase c - capMargin c * 2 ^ cE c
def inRegion (c : Cap) (a : Int) : Bool := capRegionLo c ≤ a && a < capRegionLo c + 2 ^ (cE c + 17)

/-- ⌈t / 2^e⌉. -/
def ceilDiv (t : Int) (e : Nat) : Int := -((-t) / 2 ^ e)

/-- The smallest exponent of R170, searched upward from e with the given fuel. -/
def encExp (a t : Int) (e : Nat) : Nat → Option Nat
  | 0 => none
  | n + 1 => if ceilDiv t e - a / 2 ^ e ≤ 2 ^ 17 - 1 then some e else encExp a t (e + 1) n

/-- The bounds encoding of [a, t): b′, t′ and E; none when it is unrepresentable (R170). -/
def encBounds (a t : Int) : Option (Int × Int × Nat) :=
  match encExp a t 0 48 with
  | none => none
  | some e => some (a / 2 ^ e * 2 ^ e, ceilDiv t e * 2 ^ e, e)

/-- The address form of R180; the error is a CAPFAULT detail. -/
def addrForm (x : Cap) (a : Int) (exact : Bool) : Except Nat Cap :=
  if x.tag && cOtype x != 0 then .error 2
  else
    let r := withAddr x a
    if inRegion x a then .ok r
    else if exact && x.tag then .error 5
    else .ok { r with tag := false }

/-- The bounds form of R180 with base a and length k; the error is a CAPFAULT detail. -/
def boundsForm (x : Cap) (a k : Int) (exact : Bool) : Except Nat Cap :=
  if x.tag && cOtype x != 0 then .error 2
  else
    let enc := encBounds a (a + k)
    let r0 := withAddr x a
    let r := match enc with
      | none => r0
      | some (b, t, e) => withBounds r0 e (modPow (b / 2 ^ e) 17) (modPow (t / 2 ^ e) 17)
    let outside : Bool := a < capBase x || a + k > capTop x
    match enc with
    | none => if exact && x.tag then .error (if outside then 4 else 5) else .ok { r with tag := false }
    | some (b, t, _) =>
      if outside then (if exact && x.tag then .error 4 else .ok { r with tag := false })
      else if b != a || t != a + k then
        (if exact && x.tag then .error 5
         else .ok { r with tag := r.tag && b ≥ capBase x && t ≤ capTop x })
      else .ok r

/-- The fields that CGET and VCGET read (R181); an untagged value with E above 47 has base, top and length 0 (R169). -/
def capField (c : Cap) (f : Nat) : Word :=
  let dead : Bool := cE c > 47
  let base : Nat := if dead then 0 else modPow (capBase c) 64
  let top : Nat := if dead then 0 else modPow (capTop c) 64
  let len : Nat := if dead then 0 else capLen c * 2 ^ cE c
  match f with
  | 0 => lo32 (cAddr c) | 1 => hi32 (cAddr c)
  | 2 => lo32 base | 3 => hi32 base
  | 4 => lo32 top | 5 => hi32 top
  | 6 => lo32 len | 7 => hi32 len
  | 8 => (cPerms c).zeroExtend 32
  | 9 => BitVec.ofNat 32 (cOtype c)
  | 10 => if c.tag then 1 else 0
  | 11 => (if cSP c then 1 else 0) + (if c.bits.getLsbD 105 then 2 else 0)
  | 12 => BitVec.ofNat 32 (cE c)
  | 13 => wrapI ((cAddr c : Int) - base)
  | _ => 0

/-- The exponent of `.rlen` and `.ralign` (R181). -/
def rlenExp (l : Nat) : Nat := (encExp 0 l 0 48).getD 47

/-- `.rlen` and `.ralign` of a length (R181). -/
def rlen (l : Nat) : Word := wrapI (ceilDiv l (rlenExp l) * 2 ^ rlenExp l)
def ralign (l : Nat) : Word := ~~~(BitVec.ofNat 32 (2 ^ rlenExp l - 1))

/-- CTEST and VCTEST (R184); y is the second capability of `.subset`. -/
def capTest (x y : Cap) (f : Nat) : Bool :=
  match f with
  | 0 => x.tag
  | 1 => cOtype x != 0
  | 2 => cOtype x = 63
  | 3 => x.tag == y.tag && capBase y ≤ capBase x && capTop x ≤ capTop y && (cPerms x &&& ~~~(cPerms y)) = 0
  | 4 => capBase x ≤ cAddr x && (cAddr x : Int) < capTop x
  | _ => cSP x

/-- CANDP (R182). -/
def capAndp (x : Cap) (m : Word) : Except Nat Cap :=
  if x.tag && cOtype x != 0 then .error 2
  else .ok (withPerms x (cPerms x &&& (m.truncate 16) &&& 0x7FFF))

/-- The lowest of the needed permissions that x lacks. -/
def lowestMissing (x : Cap) (need : List Nat) : Option Nat := (need.filter (fun p => !cHas x p)).min?

/-- A CAPFAULT with its detail and capability. -/
def capFault (x : Cap) (detail : Nat) (addr : Int := 0) (access : Nat := 0) (missing : Nat := 0) : TrapInfo :=
  { kind := kCap, detail := detail, cap := x, addr := modPow addr 64, access := access, missing := missing }

/-- Checks 1 to 3 of R177: tag, seal and permissions. -/
def checkPerms (x : Cap) (need : List Nat) (a : Int) (access : Nat) : Except TrapInfo Unit :=
  if !x.tag then .error (capFault x 1 a access)
  else if cOtype x != 0 then .error (capFault x 2 a access)
  else match lowestMissing x need with
    | some p => .error (capFault x 3 a access p)
    | none => .ok ()

/-- Whether an address has bit 56 set. -/
def isAperture (a : Int) : Bool := (a / 2 ^ 56) % 2 = 1

/-- Checks 1 to 6 of R177 for n bytes at a. `cap16` marks a capability access, `sp` the space that the instruction
demands, and `pad` gives the scratchpad size of a workgroup index of the accessing group's gang (R168). -/
def checkUse (x : Cap) (need : List Nat) (a : Int) (n : Nat) (access : Nat) (cap16 : Bool) (sp : Option Bool)
    (pad : Nat → Option Nat) : Except TrapInfo Unit :=
  let need' := if isAperture a then need ++ [pREMOTE] else need
  match checkPerms x need' a access with
  | .error t => .error t
  | .ok () =>
    let spOk : Bool :=
      !cSP x || (0 ≤ a && a < 2 ^ 25 &&
        (match pad (a.toNat / 2 ^ 21) with | none => false | some size => a.toNat % 2 ^ 21 + n ≤ size))
    if !(capBase x ≤ a && a + n ≤ capTop x) || !spOk then .error (capFault x 4 a access)
    else if cap16 && a % 16 != 0 then .error (capFault x 10 a access)
    else match sp with
      | some b => if cSP x != b then .error (capFault x 4 a access) else .ok ()
      | none => .ok ()

end Sys2Proof.Machine
end

