-- ==== Sys2Proof/Machine/Translate.lean ====
section
/-! DEFINITION. Physical memory with its tags and span records, context descriptors, the translation walk and its checks
(spec/01_machine.md R22, R23; spec/06_capabilities.md R171 to R173; spec/07_memory_access.md R197 to R206, R224, R225;
spec/16_protection_links.md R438 to R440). -/

namespace Sys2Proof.Machine

/-- The offset of the carve-out within a die (R22). -/
def carveOut : Nat := 0x3F80000000

/-- A device physical address outside the carve-outs (R22). -/
def isHbm (a : Nat) : Bool := a < 2 ^ 39 && a % 2 ^ 38 < carveOut

/-- An empty scratchpad. -/
def padNone : Pad := { mem := [], tags := [], span := [], size := 0 }

/-- The scratchpad of a workgroup. -/
def padOf (r : Ram) (wg : Nat) : Pad := aget padNone r.pads wg

/-- Where a byte of device memory lies: on the row of a live mapping, or in HBM (R225). -/
def resolve (r : Ram) (l : Loc) : Loc :=
  match l.sp with
  | .hbm => match r.maps.find? (fun m => m.pa ≤ l.a && l.a < m.pa + m.len) with
    | some m => { sp := .pad m.wg, a := m.off + (l.a - m.pa) }
    | none => l
  | _ => l

/-- The byte at a resolved location. -/
def byteAt (r : Ram) (l : Loc) : Byte :=
  match l.sp with
  | .hbm => rd8 r.hbm l.a
  | .host => rd8 r.host l.a
  | .pad w => rd8 (padOf r w).mem l.a
  | .remote _ => 0

/-- Ram with one byte of a resolved location written; tags and records are not touched. -/
def putByte (r : Ram) (l : Loc) (b : Byte) : Ram :=
  match l.sp with
  | .hbm => { r with hbm := wr8 r.hbm l.a b }
  | .host => { r with host := wr8 r.host l.a b }
  | .pad w => let p := padOf r w; { r with pads := aset padNone r.pads w { p with mem := wr8 p.mem l.a b } }
  | .remote _ => r

/-- The tag of the granule that holds a resolved location (R172); host memory has none. -/
def tagAt (r : Ram) (l : Loc) : Bool :=
  match l.sp with
  | .hbm => aget false r.tags (l.a / 16)
  | .pad w => aget false (padOf r w).tags (l.a / 16)
  | _ => false

/-- Ram with the tag of a granule written. -/
def putTag (r : Ram) (l : Loc) (t : Bool) : Ram :=
  match l.sp with
  | .hbm => { r with tags := aset false r.tags (l.a / 16) t }
  | .pad w => let p := padOf r w; { r with pads := aset padNone r.pads w { p with tags := aset false p.tags (l.a / 16) t } }
  | _ => r

/-- The span record of the row that holds a resolved scratchpad location (R312). -/
def spanAt (r : Ram) (l : Loc) : BitVec 3 :=
  match l.sp with
  | .pad w => aget 0 (padOf r w).span (l.a / 128)
  | _ => 0

/-- Ram with the span record of a row written. -/
def putSpan (r : Ram) (l : Loc) (c : BitVec 3) : Ram :=
  match l.sp with
  | .pad w => let p := padOf r w; { r with pads := aset padNone r.pads w { p with span := aset 0 p.span (l.a / 128) c } }
  | _ => r

/-- The n bytes at a location. -/
def ramRead (r : Ram) (l : Loc) : Nat → List Byte
  | 0 => []
  | n + 1 => byteAt r (resolve r l) :: ramRead r { l with a := l.a + 1 } n

/-- Bytes written from a location up: every touched granule loses its tag (R173) and every touched scratchpad row takes
the span code (R312; 0 for a plain write). -/
def ramWrite (r : Ram) (l : Loc) (span : BitVec 3) : List Byte → Ram
  | [] => r
  | b :: bs =>
    let p := resolve r l
    ramWrite (putSpan (putTag (putByte r p b) p false) p span) { l with a := l.a + 1 } span bs

/-- The 16 bytes of a granule as a capability with its tag (R171). -/
def ramReadCap (r : Ram) (l : Loc) : Cap :=
  { bits := BitVec.ofNat 128 (leNat (ramRead r l 16)), tag := tagAt r (resolve r l) }

/-- A capability written to a granule with its tag. -/
def ramWriteCap (r : Ram) (l : Loc) (v : Cap) : Ram :=
  let r' := ramWrite r l 0 (leBytes 16 v.bits.toNat)
  putTag r' (resolve r' l) v.tag

/-- The little-endian number in n bytes. -/
def ramNat (r : Ram) (l : Loc) (n : Nat) : Nat := leNat (ramRead r l n)

/-- A location in device memory. -/
def hbmLoc (a : Nat) : Loc := { sp := .hbm, a := a }

/-- The 128-byte line of a location (R24). -/
def lineOf (l : Loc) : Loc := { l with a := l.a / 128 * 128 }

/-- The lines that n bytes at a location touch. -/
def linesOf (r : Ram) (l : Loc) (n : Nat) : List Loc :=
  if n = 0 then []
  else (upto (l.a / 128) ((l.a + n - 1) / 128 + 1 - l.a / 128)).map fun k => lineOf (resolve r { l with a := k * 128 })

/-- The place of device memory that a row of a live mapping stands for (R225); any other place is its own. -/
def behind (r : Ram) (l : Loc) : Loc :=
  match l.sp with
  | .pad w => match r.maps.find? (fun m => m.wg = w && m.off ≤ l.a && l.a < m.off + m.len) with
    | some m => hbmLoc (m.pa + (l.a - m.off))
    | none => l
  | _ => l

/-- The sub-pages of device memory that n bytes at a place touch, those of mapped rows among them (R225). -/
def subsOf (r : Ram) (l : Loc) (n : Nat) : List Nat :=
  let span (a k : Nat) : List Nat := if k = 0 then [] else upto (a / 4096) ((a + k - 1) / 4096 + 1 - a / 4096)
  match l.sp with
  | .hbm => span l.a n
  | .pad w => ((r.maps.filter fun m => m.wg = w).flatMap fun m =>
      let lo := max l.a m.off
      span (m.pa + (lo - m.off)) (min (l.a + n) (m.off + m.len) - lo)).eraseDups
  | _ => []

/-- The write versions of the sub-pages that n bytes at a place touch advance by 1 (R248). -/
def bumpVers (r : Ram) (l : Loc) (n : Nat) : Ram :=
  { r with vers := (subsOf r l n).foldl (fun v k => aset 0 v k (aget 0 v k + 1)) r.vers }

/-- No context descriptor in force. -/
def ctxNone : CtxDesc := { valid := false, root := 0, podRoot := 0, handler := 0, pool := 0, prot := false, key := 0 }

/-- The state of a key slot. -/
def slotOf (s : State) (k : Nat) : KeySlot :=
  aget { st := .free, pcid := 0, dom := 0, mask := 0, key := 0, mc := 0, taint := [], vers := [], ctr := 0, pool := [] } s.arm.slots k

/-- The descriptor in the context table, with its validity (R385, R438). -/
def readCtx (s : State) (pcid : Nat) : CtxDesc :=
  let base := s.chip.ctxBase.toNat + 64 * pcid
  let n (k w : Nat) := ramNat s.ram (hbmLoc (base + k)) w
  let flags := n 32 2
  let key := n 34 1
  let prot := flags / 2 % 2 = 1
  let slot := slotOf s key
  let bound : Bool := key ≠ 0 && key ≤ 63 && (slot.st = .sealed || slot.st = .destroying) && slot.pcid.toNat = pcid
  { valid := pcid < s.chip.ctxCount.toNat && isHbm base && flags % 2 = 1 && flags / 4 = 0
      && (ramRead s.ram (hbmLoc (base + 35)) 29).all (· = 0) && (if prot then bound else key = 0),
    root := n 0 8, podRoot := n 8 8, handler := n 16 8, pool := n 24 8, prot := prot, key := key }

/-- The descriptor that translation uses: the one that the latest invalidation with ALL put in force (R385). -/
def ctxOf (s : State) (pcid : Nat) : CtxDesc := aget ctxNone s.ctxs pcid

/-- The domain of the 2 MiB region of a device physical address (R439). -/
def regionDom (s : State) (a : Nat) : Nat := (aget (0 : Byte) s.arm.domains (a / 2 ^ 21)).toNat

/-- A leaf as translation uses it: the page or run, its base address in the space walked, and the entry that holds the
anchor (R200, R204). -/
structure Leaf where
  base : Nat
  size : Nat
  raw : Nat
  entry : Nat
  deriving DecidableEq, Repr, Inhabited

/-- Fields of a leaf (R200). -/
def Leaf.rd (l : Leaf) : Bool := nbits l.raw 4 1 = 1
def Leaf.wr (l : Leaf) : Bool := nbits l.raw 5 1 = 1
def Leaf.ex (l : Leaf) : Bool := nbits l.raw 6 1 = 1
def Leaf.scope (l : Leaf) : Nat := nbits l.raw 7 3
def Leaf.host (l : Leaf) : Bool := nbits l.raw 10 1 = 1
def Leaf.uc (l : Leaf) : Bool := nbits l.raw 11 1 = 1
def Leaf.frame (l : Leaf) : Nat := nbits l.raw 12 36 * 4096
def Leaf.key (l : Leaf) : Nat := nbits l.raw 48 6
def Leaf.anchor (l : Leaf) : Nat := nbits l.raw 54 8
def Leaf.an (l : Leaf) : Bool := nbits l.raw 63 1 = 1
/-- The physical location of an address of the page. -/
def Leaf.loc (l : Leaf) (va : Nat) : Loc := { sp := if l.host then .host else .hbm, a := l.frame + (va - l.base) }

/-- The malformed leaves of R200, by level; level 0 takes no leaf. AN is read in a run's first entry only. -/
def leafBad (raw level : Nat) (first : Bool) : Bool :=
  let run := nbits raw 2 2
  let scope := nbits raw 7 3
  let host := nbits raw 10 1 = 1
  level = 0 || run = 3 || (level = 1 && run != 0) || scope = 0 || scope ≥ 6
  || (host && scope != 5) || (host && nbits raw 48 6 != 0) || (first && nbits raw 63 1 = 1 && scope > 2)
  || (!host && nbits raw 39 9 != 0)

/-- The size of one entry's page by level. -/
def levelSize (level : Nat) : Nat := if level = 1 then 2 ^ 34 else if level = 2 then 2 ^ 21 else 2 ^ 12

/-- The entries of a run by level and RUN (R200). -/
def runLen (level run : Nat) : Nat := if run = 0 then 1 else if run = 1 then 16 else if level = 3 then 64 else 256

/-- Clears the anchor fields and FRAME, for the comparison of a run's entries (R200). -/
def runKey (raw : Nat) : Nat := raw % 4096 + nbits raw 48 6 * 4096 + nbits raw 62 1 * 2 ^ 20

/-- One level of the walk (R199 to R202): the table at `tab`, the address, and the level; `dom` bounds the regions of
the tables. The error is a PAGEFAULT detail. A single 2 MiB or 16 GiB leaf whose FRAME is not aligned to its size is malformed, as a
run of one entry is (log 70). -/
def walkGo (s : State) (dom : Nat) (va : Nat) : Nat → Nat → Nat → Except Nat Leaf
  | 0, _, _ => .error 8
  | fuel + 1, tab, level =>
    if !isHbm tab || !(regionDom s tab = 0 || regionDom s tab = dom) then .error 8
    else
      let (shift, bits) := match level with | 0 => (47, 9) | 1 => (34, 13) | 2 => (21, 13) | _ => (12, 9)
      let idx := nbits va shift bits
      let ent (i : Nat) := ramNat s.ram (hbmLoc (tab + 8 * i)) 8
      let raw := ent idx
      if raw % 2 = 0 then .error (if nbits raw 62 1 = 1 then 3 else 2)
      else if nbits raw 1 1 = 1 then
        if leafBad raw level false then .error 8
        else
          let n := runLen level (nbits raw 2 2)
          let first := idx / n * n
          let f0 := ent first
          let size := levelSize level
          let ok := (below n).all fun j =>
            ent (first + j) % 4 = 3 && runKey (ent (first + j)) = runKey f0 && !leafBad (ent (first + j)) level (j = 0)
            && nbits (ent (first + j)) 12 36 * 4096 = nbits f0 12 36 * 4096 + j * size
          if !ok || (nbits f0 12 36 * 4096) % (n * size) != 0 then .error 8
          else .ok { base := va / (n * size) * (n * size), size := n * size, raw := f0, entry := tab + 8 * first }
      else if level ≥ 3 || nbits raw 2 10 != 0 || nbits raw 48 16 != 0 then .error 8
      else walkGo s dom va fuel (nbits raw 12 36 * 4096) (level + 1)

/-- The walk of a context's own tables, or of its pod table on this node (R199, R203). -/
def walk (s : State) (c : CtxDesc) (pod : Bool) (va : Nat) : Except Nat Leaf :=
  if !c.valid then .error 8
  else if pod then walkGo s c.key va 3 c.podRoot 1
  else walkGo s c.key va 4 c.root 0

/-- Who makes an access: the requester's name, its context, core, die and gang (R204, R168), and whether it may use host pages
(R407). -/
structure Agt where
  uid : Nat
  pcid : Nat
  core : Option Nat
  die : Nat
  gang : Nat
  host : Bool := true
  deriving DecidableEq, Repr, Inhabited

/-- The checks of R202 from order 4 on and of R440 for an access kind. Row 4 is applied to the physical address of the access, which
differs from FRAME only in a leaf that begins below a carve-out and reaches into it (R22; log 70). -/
def leafCheck (s : State) (key : Nat) (l : Leaf) (va access : Nat) : Except Nat Unit :=
  let p := (l.loc va).a
  if !l.host && !isHbm p then .error 7
  else if !l.host && (l.key != key || regionDom s p != l.key) then .error 12
  else if (access = accRead || access = accAtomic) && !l.rd then .error 5
  else if (access = accWrite || access = accAtomic) && !l.wr then .error 4
  else if access = accFetch && !l.ex then .error 6
  else .ok ()

/-- What R204 and R205 say of an agent on a page: refused with a SCOPEFAULT detail, allowed, or allowed once the page is
anchored with this value. -/
def scopeCheck (ag : Agt) (l : Leaf) (pod : Bool) (stated : Nat) : Except Nat (Option Nat) :=
  if pod && l.scope < 4 then .error 1
  else
    let base : Except Nat (Option Nat) :=
      if l.scope = 1 then
        match ag.core with
        | none => .error 1
        | some c => if !l.an then .ok (some c) else if l.anchor = c then .ok none else .error 1
      else if l.scope = 2 then
        (if !l.an then .ok (some ag.die) else if l.anchor % 2 = ag.die then .ok none else .error 1)
      else .ok none
    match base with
    | .error d => .error d
    | .ok a => if stated != 0 && l.scope > stated then .error 2 else .ok a

/-- A leaf with its anchor set. -/
def Leaf.setAnchor (l : Leaf) (a : Nat) : Leaf :=
  { l with raw := l.raw % 2 ^ 54 + a % 256 * 2 ^ 54 + nbits l.raw 62 1 * 2 ^ 62 + 2 ^ 63 }

/-- The remembered entry for an address. -/
def tlbFind (s : State) (pcid : Nat) (pod : Bool) (va : Nat) : Option TlbEnt :=
  s.tlb.find? fun e => e.pcid = pcid && e.pod = pod && e.base ≤ va && va < e.base + e.size

/-- Remembers a leaf in place of an older entry for the address; walks of its pages that wait have joined this one (R210). -/
def tlbPut (s : State) (pcid : Nat) (pod : Bool) (l : Leaf) : State :=
  { s with walks := s.walks.filter fun w => !(!pod && w.pcid = pcid && l.base ≤ 4096 * w.va && 4096 * w.va < l.base + l.size), tlb := { pcid := pcid, pod := pod, base := l.base, size := l.size, leaf := BitVec.ofNat 64 l.raw } ::
      s.tlb.filter (fun e => !(e.pcid = pcid && e.pod = pod && e.base < l.base + l.size && l.base < e.base + e.size)) }

/-- Remembers a leaf beside the older entries for the address: each has been used until the invalidation (R206). -/
def tlbKeep (s : State) (pcid : Nat) (pod : Bool) (l : Leaf) : State :=
  let e : TlbEnt := { pcid := pcid, pod := pod, base := l.base, size := l.size, leaf := BitVec.ofNat 64 l.raw }
  if s.tlb.contains e then s else { s with tlb := s.tlb ++ [e] }

/-- A fresh draw for a free value (log 6). -/
def draw (s : State) : Nat × State := (s.nonce, { s with nonce := s.nonce + 1 })

/-- Whether a use of a leaf would write its anchor first (R204). -/
def Leaf.unset (l : Leaf) : Bool := (l.scope = 1 || l.scope = 2) && !l.an

/-- The leaf that an access uses: the tables' entry, or, where a remembered entry differs from it, either of them until
the invalidation completes (R206; log 9). A remembered entry without its anchor serves no access: the anchor is written by a walk. -/
def leafFor (s : State) (c : CtxDesc) (pcid : Nat) (pod : Bool) (va : Nat) : State × Except Nat Leaf :=
  let now := walk s c pod va
  match tlbFind s pcid pod va with
  | none => (match now with | .ok l => tlbPut s pcid pod l | .error _ => s, now)
  | some e =>
    let old : Leaf := { base := e.base, size := e.size, raw := e.leaf.toNat, entry := match now with | .ok l => l.entry | .error _ => 0 }
    if (match now with | .ok l => l.base = old.base && l.size = old.size && l.raw = old.raw | .error _ => false) then (s, now)
    else
      let (k, s1) := draw s
      if Config.freeBit k && !old.unset then (s1, .ok old)
      else (match now with | .ok l => tlbKeep s1 pcid pod l | .error _ => s1, now)

/-- A place that an access reaches: a local location with the leaf it came through, or another node (R197). -/
inductive Tgt where
  | here (l : Loc) (leaf : Option Leaf)
  | there (node off : Nat)
  deriving DecidableEq, Repr, Inhabited

/-- A PAGEFAULT or SCOPEFAULT at an address. -/
def xlFault (kind detail access : Nat) (addr : Nat) (home : Bool) : TrapInfo :=
  { kind := kind, detail := detail, access := access, addr := addr, home := home }

/-- The address of a tainted page of a context: PAGEFAULT detail 2 there is INTEGRITY detail 3 (R461). -/
def tainted (s : State) (c : CtxDesc) (va : Nat) : Bool := c.prot && (slotOf s c.key).taint.contains (va / 2 ^ 21 * 2 ^ 21)

/-- The granule of device memory in which the base of a capability lies, through a context's own tables (R191). A base with bit 56
clear and a bit among 63..57 set is walked by its low bits (log 70). -/
def baseGran (s : State) (pcid : Nat) (c : Cap) : Option Nat :=
  if !c.tag || cSP c || isAperture (capBase c) || capBase c < 0 then none
  else match walk s (ctxOf s pcid) false (capBase c).toNat with
    | .ok l => if l.host then none else some ((l.loc (capBase c).toNat).a / 4096)
    | .error _ => none

/-- The load barrier (R191): a capability whose base lies in a marked granule loses its tag. -/
def barrier (s : State) (pcid : Nat) (c : Cap) : Cap :=
  match baseGran s pcid c with
  | some k => if aget false s.rev.bitmap k then { c with tag := false } else c
  | none => c

/-- A tagged granule passes the load barrier as it is written while an epoch runs (R194). -/
def epochBar (s : State) (pcid : Nat) (c : Cap) : Cap := if s.rev.sweepDone then c else barrier s pcid c

end Sys2Proof.Machine
end

