-- ==== Sys2Proof/Machine/Group.lean ====
section
/-! DEFINITION. Groups: which one is meant, and the reads and writes of the registers that a group holds
(spec/03_scalar_stream.md R79 to R83, R108; spec/02_instruction_words.md R48 to R52; spec/11_matrix.md R302). -/

namespace Sys2Proof.Machine

/-- A group that holds a slot. -/
def Grp.live (g : Grp) : Bool := !g.saved && !g.ended && g.dormant.isNone

/-- The group in a slot. -/
def grpAt (s : State) (core slot : Nat) : Option Grp := s.grps.find? fun g => g.core = core && g.slot = slot && g.live

/-- A group by its name. -/
def grpOf (s : State) (uid : Nat) : Option Grp := s.grps.find? fun g => g.uid = uid

/-- The group of a slot, as its name finds it. -/
def actorGrp (s : State) (core slot : Nat) : Option Grp := match grpAt s core slot with | some g => grpOf s g.uid | none => none

/-- The state with one group replaced. -/
def setGrp (s : State) (g : Grp) : State := { s with grps := updWhere (fun x => x.uid = g.uid) (fun _ => g) s.grps }

/-- The state with one group's contents changed. -/
def modGrp (s : State) (uid : Nat) (f : Grp → Grp) : State := { s with grps := updWhere (fun x => x.uid = uid) f s.grps }

/-- A group put back as it stood before an instruction that is tried again; its windows keep the conflicts marked since (R245). -/
def undoEnter (s : State) (g : Grp) : State :=
  modGrp s g.uid fun h => { g with wins := g.wins.map fun w => { w with hit := w.hit || h.wins.any fun v => v.start = w.start && v.hit } }

/-- Workgroups, gangs and launches by name. -/
def wgBy (s : State) (uid : Nat) : Option Wg := s.wgs.find? fun w => w.uid = uid
def modWg (s : State) (uid : Nat) (f : Wg → Wg) : State := { s with wgs := updWhere (fun x => x.uid = uid) f s.wgs }
def gangBy (s : State) (uid : Nat) : Option Gang := s.gangs.find? fun w => w.uid = uid
def modGang (s : State) (uid : Nat) (f : Gang → Gang) : State := { s with gangs := updWhere (fun x => x.uid = uid) f s.gangs }
def lnchBy (s : State) (uid : Nat) : Option Lnch := s.launches.find? fun w => w.uid = uid
def modLnch (s : State) (uid : Nat) (f : Lnch → Lnch) : State :=
  { s with launches := updWhere (fun x => x.uid = uid) f s.launches }

/-- The context of a launch. -/
def pcidOf (s : State) (launch : Nat) : Nat := match lnchBy s launch with | some l => l.pcid | none => 0

/-- Whether a launch may use host pages: its context has feature bit 13 (R407). -/
def hostOkL (s : State) (launch : Nat) : Bool := match lnchBy s launch with | some l => l.host | none => true

/-- Who a group is to the checks of an access (R204). -/
def agtOf (s : State) (g : Grp) : Agt :=
  { uid := g.uid, pcid := pcidOf s g.launch, core := some g.core, die := g.core / 72, gang := g.gang, host := hostOkL s g.launch }

/-- The workgroup at an index of a gang (R168). -/
def gangWg (s : State) (gang i : Nat) : Option Nat := match gangBy s gang with | some x => x.wgs[i]? | none => none

/-- The scratchpad size of the workgroup at an index of a gang, none where there is no such workgroup (R168, R198). -/
def gangPad (s : State) (gang i : Nat) : Option Nat := (gangWg s gang i).map fun w => (padOf s.ram w).size

/-- The index of a workgroup in its gang (R168). -/
def wgIndex (s : State) (g : Grp) : Nat := match gangBy s g.gang with | some x => x.wgs.idxOf g.wg | none => 0

/-- Whether the workgroup of a group holds a matrix context (R20). -/
def accsOf (s : State) (g : Grp) : Bool := match lnchBy s g.launch with | some l => l.kd.accs && !g.task | none => false

/-- The idle matrix context of a fresh placement (R302). -/
def matNone : MatCtx :=
  { bank := [], coll := none, scale := 0, sreg := 0, rate := 0, trapOn := false, run := none, queue := [], step := 0,
    stopped := false, pending := none, holder := none, waiters := [], stepCtr := 0, checkCtr := 0, count := 0, col := 0,
    colStep := 0 }

/-- The position of a group's core in its workgroup's run, which names its matrix context (R302). -/
def matPos (s : State) (g : Grp) : Nat := match wgBy s g.wg with | some w => g.core - w.core0 | none => 0

/-- The matrix context of a group. -/
def matOf (s : State) (g : Grp) : MatCtx := match wgBy s g.wg with | some w => aget matNone w.ctxs (matPos s g) | none => matNone

/-- The state with the matrix context at a position of a workgroup's run changed. -/
def modMat (s : State) (wg pos : Nat) (f : MatCtx → MatCtx) : State :=
  modWg s wg fun w => { w with ctxs := aset matNone w.ctxs pos (f (aget matNone w.ctxs pos)) }

/-! Splits. -/

/-- A split by its index. -/
def GCore.split (g : GCore) (i : Nat) : Option Split := g.splits.find? fun x => x.idx = i

/-- The group state with one split replaced. -/
def GCore.setSplit (g : GCore) (x : Split) : GCore := { g with splits := updWhere (fun y => y.idx = x.idx) (fun _ => x) g.splits }

/-- The group state with one split changed. -/
def GCore.modSplit (g : GCore) (i : Nat) (f : Split → Split) : GCore := { g with splits := updWhere (fun y => y.idx = i) f g.splits }

/-- The program counter and the lane-code base of a split (R79). -/
def Split.pc (x : Split) : Nat := cAddr x.pcc
def Split.lbase (x : Split) : Nat := cAddr x.lcc

/-- A scalar register: s0 reads 0, s61 to s63 are the activity mask (R38, R79). -/
def sGet (x : Split) (r : SReg) : Word :=
  if r = 0 then 0 else if r.toNat ≥ 61 then beat x.act (r.toNat - 61) else aget 0 x.s r.toNat

/-- The lanes that no write of R81 by split i can claim: lanes held by the other splits, and withheld lanes (R413). -/
def GCore.foreign (g : GCore) (i : Nat) : LaneMask :=
  g.splits.foldl (fun m x => m ||| x.withheld ||| (if x.idx = i then 0 else x.act)) 0

/-- A write of a scalar register of split i (R38, R81). -/
def GCore.sSet (g : GCore) (i r : Nat) (v : Word) : GCore :=
  if r = 0 then g
  else if r ≥ 61 then g.modSplit i fun x => { x with act := setBeat x.act (r - 61) v &&& ~~~ (g.foreign i) }
  else g.modSplit i fun x => { x with s := aset 0 x.s r v }

/-- Several writes in order. -/
def GCore.sSets (g : GCore) (i : Nat) : List (Nat × Word) → GCore
  | [] => g
  | (r, v) :: l => GCore.sSets (g.sSet i r v) i l

/-- Whether a change of split i's mask claims a lane that a queued block of another split is still to write (R81). -/
def GCore.claimWaits (g g' : GCore) (i : Nat) : Bool :=
  match g.split i, g'.split i with
  | some x, some y =>
    let gained := y.act &&& ~~~ x.act
    gained != 0 && g.laneQ.any fun b => b.split != i && (b.mask &&& gained) != 0
  | _, _ => false

/-- A capability register (R79). -/
def cGet (x : Split) (r : CReg) : Cap := aget capNull x.c r.toNat
def cSet (x : Split) (r : CReg) (v : Cap) : Split := { x with c := aset capNull x.c r.toNat v }

/-! Lane registers. -/

/-- k0 reads as all ones (R40). -/
def kGet (g : GCore) (n : Nat) : LaneMask := if n = 0 then allLanes else aget 0 g.k n

/-- A write of a k register in the lanes of a mask; k0 is not written (R108). -/
def kSet (g : GCore) (n : Nat) (m v : LaneMask) : GCore :=
  if n = 0 then g else { g with k := aset 0 g.k n ((kGet g n &&& ~~~m) ||| (v &&& m)) }

/-- Whether a v register is dead (R48). -/
def vDead (g : GCore) (n : Nat) : Bool := g.dead.getLsbD n

/-- A v register; a dead one reads the poison value in every lane (R51). -/
def vGet (g : GCore) (n : Nat) : Row := if vDead g n then poisonRow else aget zeroRow g.v n

/-- Marks a v register dead; its values and its quad's tags are gone (R49). -/
def vKill (g : GCore) (n : Nat) : GCore :=
  { g with dead := g.dead ||| BitVec.ofNat 256 (2 ^ n), v := aset zeroRow g.v n zeroRow, qtags := aset 0 g.qtags (n / 4) 0 }

/-- A write of a v register in the lanes of a mask: it revives a dead register when the mask holds a lane, and clears
the quad tags of those lanes (R52, R172). -/
def vSet (g : GCore) (n : Nat) (m : LaneMask) (r : Row) : GCore :=
  if m = 0 then g
  else { g with dead := g.dead &&& ~~~ (BitVec.ofNat 256 (2 ^ n)), v := aset zeroRow g.v n (mergeRow m r (vGet g n)),
                qtags := aset 0 g.qtags (n / 4) (aget 0 g.qtags (n / 4) &&& ~~~m) }

/-- Consecutive v registers from n. -/
def vSets (g : GCore) (n : Nat) (m : LaneMask) : List Row → GCore
  | [] => g
  | r :: l => vSets (vSet g n m r) (n + 1) m l

/-- The capability in lane l of the quad at v register n (R171). -/
def quadCap (g : GCore) (n l : Nat) : Cap :=
  { bits := rl (vGet g (n + 3)) l ++ rl (vGet g (n + 2)) l ++ rl (vGet g (n + 1)) l ++ rl (vGet g n) l,
    tag := lane (aget 0 g.qtags (n / 4)) l }

/-- Word k of a capability. -/
def capWord (c : Cap) (k : Nat) : Word := c.bits.extractLsb' (32 * k) 32

/-- A capability write of a quad in the lanes of a mask (R171). -/
def quadSet (g : GCore) (n : Nat) (m : LaneMask) (f : Nat → Cap) : GCore :=
  if m = 0 then g
  else
    let g1 := vSets g n m ((below 4).map fun k => rowFn fun l => if lane m l then capWord (f l) k else 0)
    { g1 with qtags := aset 0 g1.qtags (n / 4) ((aget 0 g1.qtags (n / 4) &&& ~~~m) ||| (maskOf (fun l => lane m l && (f l).tag))) }

/-- A q register of a group's matrix context (R302). -/
def qGet (s : State) (g : Grp) (n : Nat) : Row := aget zeroRow (matOf s g).bank n

/-- A q register as a window's checkpoint names it (R239). -/
def ckptQ (n : Nat) : Nat := 256 + n

/-- Keeps the old value of a register that an uncommitted window writes for the first time (R239). A v register keeps its
value in the window's shadow copy; only its pool entry is recorded. -/
def keepOld (ws : List Window) (name : Nat) (old : Row) : List Window :=
  ws.map fun w => if w.ckpt.contains name then w
    else { w with ckpt := name :: w.ckpt, qOld := if name < 256 then w.qOld else aset zeroRow w.qOld name old }

/-- A write of a q register in the lanes of a mask, with its checkpoint. -/
def qSet (s : State) (g : Grp) (n : Nat) (m : LaneMask) (r : Row) : State :=
  if m = 0 then s
  else
    let s1 := modGrp s g.uid fun x => { x with wins := keepOld x.wins (ckptQ n) (qGet s g n) }
    modMat s1 g.wg (matPos s g) fun c => { c with bank := aset zeroRow c.bank n (mergeRow m r (aget zeroRow c.bank n)) }

/-! Damaged registers (R410). -/

/-- The detail of a damaged lane among these of a v register of a group. -/
def vBad (s : State) (uid n : Nat) (m : LaneMask) : Option Nat :=
  s.bad.findSome? fun d => match d with | .vreg u k l x => if u = uid && k = n && lane m l then some x else none | _ => none

/-- The detail of a damaged lane among these of a q register of a group's context. -/
def qBad (s : State) (g : Grp) (n : Nat) (m : LaneMask) : Option Nat :=
  s.bad.findSome? fun d => match d with | .qreg w p k l x => if w = g.wg && p = matPos s g && k = n && lane m l then some x else none | _ => none

/-- Registers written in the lanes of a mask: v registers by number, q registers by 1,000 plus their number. -/
def mendRegs (s : State) (g : Grp) (m : LaneMask) (names : List Nat) : State :=
  if s.bad.isEmpty then s
  else { s with bad := s.bad.filter fun d => match d with
    | .vreg u k l _ => !(u = g.uid && names.contains k && lane m l)
    | .qreg w p k l _ => !(w = g.wg && p = matPos s g && names.contains (1000 + k) && lane m l)
    | _ => true }

/-- The registers that a rollback gives back from windows with these starts: a damaged checkpoint entry leaves its register damaged, and a
good one repairs it. -/
def rollBad (s : State) (g : Grp) (gone : List Window) : State :=
  if s.bad.isEmpty then s
  else
    let names := gone.flatMap (·.ckpt)
    let starts := gone.map (·.start)
    { s with bad := s.bad.filterMap fun d => match d with
      | .vreg u k _ _ => if u = g.uid && names.contains k then none else some d
      | .qreg w p k _ _ => if w = g.wg && p = matPos s g && names.contains (256 + k) then none else some d
      | .ckpt u st n l => if u = g.uid && starts.contains st then some (if n < 256 then .vreg u n l 5 else .qreg g.wg (matPos s g) (n - 256) l 5) else some d
      | _ => some d }

/-- Sticky status bits (R111). -/
def GCore.stick (g : GCore) (bits : Word) : GCore := { g with status := g.status ||| bits }
def stPOISON : Word := 1
def stDIVZ : Word := 2

end Sys2Proof.Machine
end

