-- ==== Sys2Proof/Machine/Mem.lean ====
section
/-! DEFINITION. Events that write memory at once, requests to other nodes and their answers, events reported to the host, and
the accesses of the queue processor (spec/08_sequential_order.md R232, R245, R248; spec/14_queue_commands.md R380, R400,
R401; spec/16_protection_links.md R442, R447, R449; spec/13_collective_engines.md R369, R370). -/

namespace Sys2Proof.Machine

/-- Marks every uncommitted window of the other groups whose read set holds one of these lines (R245). A marked window
rolls back at the next store drain or commit of its group (R247). -/
def markHit (s : State) (by_ : Nat) (lines : List Loc) : State :=
  { s with grps := s.grps.map fun g =>
      if g.uid = by_ then g
      else { g with wins := g.wins.map fun w => if lines.any w.reads.contains then { w with hit := true } else w } }

/-- Marks the windows that read one of the lines p names. -/
def hitReads (s : State) (p : Loc → Bool) : State :=
  { s with grps := s.grps.map fun g => { g with wins := g.wins.map fun w => if w.reads.any p then { w with hit := true } else w } }

/-- The other nodes that are live: those of the latest key exchanges that are not lost (R446, R447). -/
def liveNodes (s : State) : List Nat := (s.fab.peers.filter fun e => e.2.incarn != 0 && e.2.lost.isNone).map (·.1)

/-- The epoch bump of a sub-page of this node: every other node is told and has to acknowledge it, and each window that read it is
hit (R248). -/
def bumpEpoch (s : State) (sub : Nat) : State :=
  hitReads { s with outbox := s.outbox ++ [.bump sub],
                    fab := { s.fab with bumps := (sub, liveNodes s) :: s.fab.bumps.filter fun b => b.1 != sub } }
    fun l => l.sp = .hbm && l.a / 4096 = sub

/-- The bumps of these sub-pages whose version has just passed to 0. -/
def wrapBumps (s : State) (subs : List Nat) : State := (subs.filter fun k => aget 0 s.ram.vers k = 0).foldl bumpEpoch s

/-- The key of a line whose home's memory may differ from the coherent value: device lines, then host lines. -/
def dirtyKey (l : Loc) : Option Nat :=
  match l.sp with | .hbm => some (l.a / 128) | .host => some (2 ^ 60 + l.a / 128) | _ => none

/-- The contents of a line of device or host memory as its own storage holds them, beneath any mapping. -/
def lineImg (r : Ram) (l : Loc) : LineImg :=
  let a := l.a / 128 * 128
  match l.sp with
  | .hbm => { data := rdBytes r.hbm a 128, tags := (below 8).map fun k => aget false r.tags (a / 16 + k) }
  | _ => { data := rdBytes r.host a 128, tags := List.replicate 8 false }

/-- Before a write by the device: the old contents of each line may be what its home's memory still holds (R229). -/
def markDirty (s : State) (lines : List Loc) : State :=
  { s with dirty := lines.foldl (fun d l => match dirtyKey l with
      | some k => aset [] d k (lineImg s.ram l :: aget [] d k)
      | none => d) s.dirty }

/-- Lines written back or superseded at their home. -/
def markClean (s : State) (lines : List Loc) : State :=
  { s with dirty := lines.foldl (fun d l => match dirtyKey l with | some k => aset [] d k [] | none => d) s.dirty }

/-- The 64-byte lines of device memory among 128-byte lines; a mapped row stands for its line (R225). -/
def hostLines (r : Ram) (lines : List Loc) : List Nat :=
  lines.flatMap fun l => match (behind r l).sp with | .hbm => [(behind r l).a / 64, (behind r l).a / 64 + 1] | _ => []

/-- A line that the host caches is taken from it by a write that does not wait for the answer (R408). -/
def takeHost (s : State) (lines : List Loc) : State :=
  let ks := (hostLines s.ram lines).filter fun k => aget 0 s.hostHeld k != 0
  { s with hostHeld := ks.foldl (fun h k => aset 0 h k 0) s.hostHeld,
           outbox := s.outbox ++ (ks.filter fun k => aget 0 s.hostHeld k = 1).map fun k => .backInvalidate (64 * k) }

/-- A write repairs the damaged storage that it covers (R410). -/
def mend (s : State) (l : Loc) (n : Nat) : State :=
  if s.bad.isEmpty then s
  else { s with bad := s.bad.filter fun d => match d with
    | .byte p _ => !((below n).any fun i => resolve s.ram { l with a := l.a + i } = p)
    | _ => true }

/-- The detail that a read of n bytes at a place reports, if one of them is damaged (R410). -/
def spoilAt (s : State) (l : Loc) (n : Nat) : Option Nat :=
  if s.bad.isEmpty then none
  else (below n).findSome? fun i => s.bad.findSome? fun d => match d with
    | .byte p k => if resolve s.ram { l with a := l.a + i } = p then some k else none
    | _ => none

/-- The state of host lines in the L2s: a write takes a line to M, a read that misses brings a shared copy (R407). -/
def hostState (s : State) (st : Nat) (lines : List Loc) : State :=
  { s with hostMesi := lines.foldl (fun m l => if l.sp = .host then aset 0 m (l.a / 128) st else m) s.hostMesi }
def shareHost (s : State) (lines : List Loc) : State :=
  hostState s 1 (lines.filter fun l => l.sp = .host && aget 0 s.hostMesi (l.a / 128) = 0)

/-- One write event on memory of this node: bytes, tags cleared, the span record, versions, conflicts. -/
def putMem (s0 : State) (by_ : Nat) (l : Loc) (span : BitVec 3) (bytes : List Byte) : State :=
  let lines := linesOf s0.ram l bytes.length
  let s := hostState (takeHost (markDirty (mend s0 l bytes.length) lines) lines) 3 lines
  markHit (wrapBumps { s with ram := bumpVers (ramWrite s.ram l span bytes) l bytes.length } (subsOf s.ram l bytes.length)) by_ lines

/-- One write event of a capability with its tag. -/
def putCap (s0 : State) (by_ : Nat) (l : Loc) (v : Cap) : State :=
  let lines := linesOf s0.ram l 16
  let s := hostState (takeHost (markDirty (mend s0 l 16) lines) lines) 3 lines
  markHit (wrapBumps { s with ram := bumpVers (ramWriteCap s.ram l v) l 16 } (subsOf s.ram l 16)) by_ lines

/-- One write event on tags only. -/
def putTagEv (s : State) (by_ : Nat) (l : Loc) (t : Bool) : State :=
  markHit { s with ram := putTag s.ram (resolve s.ram l) t } by_ (linesOf s.ram l 16)

/-- The name of other nodes' requests as a requester. -/
def homeName : Nat := 94

/-- Whether a line of device memory, or the row of a mapped one, lies in a sub-page that another node's window holds: for writing, or
at all where the line is to be written (R242, R243). -/
def holdOn (s : State) (write : Bool) (l : Loc) : Bool :=
  match (behind s.ram l).sp with | .hbm => s.fab.holds.any fun h => (h.write || write) && h.sub = (behind s.ram l).a / 4096 | _ => false

/-- Whether a line that an agent reads or writes is held by a committed store of another group that has not drained, or by another
node's window (R242, R243). Which node's hold another node's request meets is looked at where it is served. -/
def heldLine (s : State) (by_ : Nat) (write : Bool) (lines : List Loc) : Bool :=
  (s.drains.any fun d => d.group != by_ && lines.contains d.line) || (by_ != homeName && lines.any (holdOn s write))

/-- Whether the host caches one of these lines, and the back-invalidation snoops for them (R408). -/
def hostHolds (s : State) (lines : List Loc) : Bool := (hostLines s.ram lines).any fun k => aget 0 s.hostHeld k != 0
def askHost (s : State) (lines : List Loc) : State :=
  let ks := (hostLines s.ram lines).filter fun k => aget 0 s.hostHeld k = 1
  { s with hostHeld := ks.foldl (fun h k => aset 0 h k 2) s.hostHeld, outbox := s.outbox ++ ks.map fun k => .backInvalidate (64 * k) }

/-- Whether an agent has to wait before it reads or writes lines of this node: for a drain, another node's window, or the host's copies
(R242, R243, R408). -/
def blocked (s : State) (by_ : Nat) (write : Bool) (lines : List Loc) : Option State :=
  if heldLine s by_ write lines then some s
  else if write && hostHolds s lines then some (askHost s lines)
  else none

/-- What an access gives: a result, a fault, or a wait for another node or a drain. -/
inductive Got (α : Type) where
  | ok (s : State) (v : α)
  | fault (s : State) (t : TrapInfo)
  | wait (s : State)

/-- Sequencing of accesses. -/
def Got.bind {α β : Type} (x : Got α) (f : State → α → Got β) : Got β :=
  match x with
  | .ok s v => f s v
  | .fault s t => .fault s t
  | .wait s => .wait s

/-! Translation (R197 to R206). -/

/-- The name of the walk scheduler, which writes anchors as an engine thread (R204). -/
def walkName : Nat := 96

/-- A virtual address in the context's tables, or in its pod table on this node: translation, checks, and the anchor's write event of
R204, which is made once every check of R202, R204 and R205 has passed (log 70). The access is `accMap` or `accEngine` where no
permission bit of the entry is asked. -/
def translate (s : State) (ag : Agt) (pod : Bool) (va access stated : Nat) : Got (Loc × Leaf) :=
  let c := ctxOf s ag.pcid
  if pod && (if ag.uid = homeName then !c.valid || c.podRoot = 0 else c.valid && c.podRoot = 0) then .fault s (xlFault kPage 9 access va true)
  else
    match leafFor s c ag.pcid pod va with
    | (s1, .error d) =>
      .fault s1 (if d = 2 && !pod && tainted s1 c va then xlFault kIntegrity 3 access va false else xlFault kPage d access va pod)
    | (s1, .ok l) =>
      match leafCheck s1 c.key l va access with
      | .error d => .fault s1 (xlFault kPage d access va pod)
      | .ok () => match scopeCheck ag l pod stated with
        | .error d => .fault s1 (xlFault kScope d access va pod)
        | .ok none => if l.host && !ag.host then .fault s1 (xlFault kScope 1 access va pod) else .ok s1 (l.loc va, l)
        | .ok (some a) =>
          let l' := l.setAnchor a
          match blocked s1 walkName true [lineOf (resolve s1.ram (hbmLoc l.entry))] with
          | some s2 => .wait s2
          | none => .ok (tlbPut (putMem s1 walkName (hbmLoc l.entry) 0 (leBytes 8 l'.raw)) ag.pcid pod l') (l'.loc va, l')

/-- Check 7 of R177 for an aperture address of this node: the base of the capability is unmarked here. -/
def apertureMarked (s : State) (pcid : Nat) (x : Cap) : Bool :=
  let b := (capBase x).toNat
  isAperture (capBase x) && nbits b 47 9 = s.fab.node.toNat &&
  (match walk s (ctxOf s pcid) true (b % 2 ^ 47) with
   | .ok l => !l.host && aget false s.rev.bitmap ((l.loc (b % 2 ^ 47)).a / 4096)
   | .error _ => false)

/-- Check 7 of R177 for an access at an aperture address of this node. -/
def check7 (s : State) (pcid : Nat) (x : Cap) (va access : Nat) : Option TrapInfo :=
  if nbits va 56 1 = 1 && nbits va 47 9 = s.fab.node.toNat && apertureMarked s pcid x then some { capFault x 7 va access with home := true } else none

/-- An address of R197 to its place, after check 7 of R177; the scratchpad is named by its workgroup index in the agent's gang. -/
def target (s : State) (ag : Agt) (x : Cap) (va access stated : Nat) (wgOf : Nat → Option Nat) : Got Tgt :=
  if cSP x then
    match wgOf (va / 2 ^ 21 % 16) with
    | none => .fault s (capFault x 4 va access)
    | some w => .ok s (.here { sp := .pad w, a := va % 2 ^ 21 } none)
  else match check7 s ag.pcid x va access with
  | some t => .fault s t
  | none =>
  if va / 2 ^ 57 != 0 then .fault s (xlFault kPage 1 access va false)
  else if va / 2 ^ 56 = 1 then
    let node := nbits va 47 9
    let off := va % 2 ^ 47
    if node = s.fab.node.toNat then
      match translate s ag true off access stated with
      | .ok s1 (l, f) => .ok s1 (.here l (some f))
      | .fault s1 t => .fault s1 { t with addr := va }
      | .wait s1 => .wait s1
    else .ok s (.there node off)
  else (translate s ag false va access stated).bind fun s1 r => .ok s1 (.here r.1 (some r.2))

/-- Adds to the counter of a saturating 32-bit register. -/
def satInc (w : Word) : Word := if w = BitVec.allOnes 32 then w else w + 1

/-- A lifetime counter rises (R436). -/
def lifeInc (s : State) (i : Nat) : State :=
  { s with arm := { s.arm with life := aset 0 s.arm.life i (satInc (aget 0 s.arm.life i)) } }

/-- An event record of R401, written to the ring in host memory with its vector, or counted as lost (R400). -/
def raiseEvent (s : State) (kind source detail : Nat) (payload : List Byte) : State :=
  let c := s.chip
  let logn := c.evLogn.toNat
  let full := (c.evWr - c.evRd).toNat ≥ 2 ^ logn
  if logn < 4 || logn > 16 || full || c.evBase.toNat + 32 * 2 ^ logn > 2 ^ 48 then { s with chip := { c with evLost := satInc c.evLost } }
  else
    let rec_ := leBytes 1 kind ++ [0] ++ leBytes 2 source ++ leBytes 4 detail ++ (payload ++ List.replicate 24 0).take 24
    let s1 := putMem s 0 { sp := .host, a := c.evBase.toNat + 32 * (c.evWr.toNat % 2 ^ logn) } 0 rec_
    { s1 with chip := { s1.chip with evWr := c.evWr + 1 }, outbox := s1.outbox ++ if c.msixMask then [] else [.msix 0] }

/-- The plane that carries a request for an aperture offset (R369), and the plane used after losses (R370). -/
def planeOf (f : Nat) : Nat := (nbits f 7 5) ^^^ (nbits f 16 5)
def planeUp (s : State) (p : Nat) : Option Nat :=
  ((below 32).map fun i => (p + i) % 32).find? fun q => !(aget false s.fab.planeDown q)
def planeMapAt (s : State) (p : Nat) : Nat := ((s.fab.planeMap.find? fun e => e.1 = p).map (·.2)).getD p
def portOf (s : State) (off : Nat) : Option Nat := planeUp s (planeMapAt s (planeOf off))

/-- A peer's record (R446, R447). -/
def peerOf (s : State) (node : Nat) : Peer := aget { incarn := 0, lost := none } s.fab.peers node

/-- Whether a request of this context for this offset may leave: a protected domain's needs a sealed port (R442). -/
def sealedOk (s : State) (pcid off : Nat) : Bool :=
  !(ctxOf s pcid).prot || (match portOf s off with | some p => (aget 0 s.fab.linkstat p).getLsbD 1 | none => false)

/-- The authorisation of the queue processor and of a sweep: none (R193, R380). -/
def noAuth : Auth := { cap := capNull, stated := 0 }

/-- An extension header (R276). -/
def extWord (kind rank win fmt : Nat) (acc : Bool) (units off folded home : Nat) (tag gen : BitVec 16) : BitVec 128 :=
  BitVec.ofNat 128 (kind + rank % 2 ^ 9 * 2 ^ 4 + win % 2 ^ 8 * 2 ^ 13 + fmt % 4 * 2 ^ 21 + (if acc then 2 ^ 23 else 0) + (units - 1) % 2 ^ 5 * 2 ^ 24
    + off / 4 % 2 ^ 45 * 2 ^ 32 + folded % 2 ^ 8 * 2 ^ 77 + home % 2 ^ 9 * 2 ^ 85 + tag.toNat * 2 ^ 96 + gen.toNat * 2 ^ 112)

/-- The extension header of a request: a replica gather's or a multicast packet's (R276). -/
def reqHeader (r : Req) : Option (BitVec 128) :=
  match r.kind with
  | .gather win rank fmt gen => some (extWord 3 rank win fmt false 1 r.off 0 r.node r.tag gen)
  | .replica grp gen d => some (extWord 4 grp 0 0 false ((d.length + 3) / 4) r.off 0 r.node r.tag gen)
  | _ => none

/-- A request leaves. -/
def send (s : State) (r : Req) : State :=
  { s with fab := { s.fab with reqs := s.fab.reqs ++ [r], nextTag := s.fab.nextTag + 1 }, outbox := s.outbox ++ [.request r (reqHeader r)] }

/-- Whether a posted write of this node to the sub-page of an offset is not performed yet. -/
def posting (s : State) (node off : Nat) : Bool := s.fab.reqs.any fun r => r.posted && r.node = node && r.off / 4096 = off / 4096

/-- Whether a posted write of a requester is not performed yet (R255, R357). -/
def postsOf (s : State) (uid : Nat) : Bool := s.fab.reqs.any fun r => r.posted && r.group = uid

/-- A request of an agent to another node: its answer, a refusal that needs no answer, or none while it is pending. The
request is sent once (R449), and after the writes that this node has posted to its sub-page. -/
def ask (s : State) (au : Auth) (uid pcid node off : Nat) (k : ApKind) : State × Option ApAns :=
  match s.fab.answers.find? fun a => a.group = uid && a.node = node && a.off = off && a.kind = k && a.auth = au with
  | some a => (s, some a.ans)
  | none =>
    if s.fab.reqs.any fun r => !r.posted && r.group = uid && r.node = node && r.off = off && r.kind = k && r.auth = au then (s, none)
    else if (peerOf s node).lost.isSome then (s, some (.fault kPeerlost 6 0))
    else if !sealedOk s pcid off then (s, some (.fault kScope 8 0))
    else if posting s node off then (s, none)
    else (send s { tag := s.fab.nextTag, node := node, group := uid, off := off, pcid := pcid, kind := k, auth := au, posted := false,
                   retried := false, stomped := false }, none)

/-- A write posted to another node: it is sent with its authorising capability and answered when it is performed (R176, R217). This
node's guest lines of it are dropped. A write to a lost peer is discarded (R447). -/
def post (s : State) (au : Auth) (uid pcid node off n : Nat) (k : ApKind) : State :=
  let s1 := { s with fab := { s.fab with guest := s.fab.guest.filter fun x => !(x.node = node && x.line < off + n && off < x.line + 128) } }
  if (peerOf s node).lost.isSome then s1
  else send s1 { tag := s.fab.nextTag, node := node, group := uid, off := off, pcid := pcid, kind := k, auth := au, posted := true,
                 retried := false, stomped := false }

/-- An answer that an agent has been given, whatever authorised it. -/
def answerTo (s : State) (uid node off : Nat) (k : ApKind) : Option ApAns :=
  (s.fab.answers.find? fun a => a.group = uid && a.node = node && a.off = off && a.kind = k).map (·.ans)

/-- An agent's read hold on a sub-page is given back, here or at another node (R272). -/
def endHold (s : State) (a : Ans) : State :=
  match a.kind, a.ans with
  | .hold, .data b _ =>
    if a.node = s.fab.node.toNat then
      { s with fab := { s.fab with holds := s.fab.holds.erase { node := a.node, sub := leNat b, off := a.off / 4096, write := false } } }
    else { s with outbox := s.outbox ++ [.release a.node (a.off / 4096)] }
  | _, _ => s

/-- Drops the answers that an agent has used, and gives back the holds among them. -/
def dropAns (s : State) (uid : Nat) : State :=
  (s.fab.answers.filter fun a => a.group = uid).foldl endHold { s with fab := { s.fab with answers := s.fab.answers.filter fun a => a.group != uid } }

/-- A fault answered by a home; PEERLOST and the scope fault of R442 arise on this node. -/
def ansFault (kind detail missing access va : Nat) : TrapInfo :=
  { kind := kind, detail := detail, access := access, addr := va, missing := missing,
    home := !(kind = kPeerlost || (kind = kScope && detail = 8) || (kind = kPage && detail = 9)) }

/-- The guest line that holds an offset of another node, as this context fetched it (R248). -/
def guestAt (s : State) (pcid node off : Nat) : Option GuestLine :=
  s.fab.guest.find? fun x => x.node = node && x.pcid = pcid && x.line = off / 128 * 128

/-! Accesses of the queue processor (R380): it is an agent of die 0 that belongs to no core. -/

/-- The name of queue q as a requester. -/
def qpName (q : Nat) : Nat := q + 1

/-- The queue processor as an agent of a context (R204). -/
def qpAgt (q pcid : Nat) : Agt := { uid := qpName q, pcid := pcid, core := none, die := 0, gang := 0 }

/-- The places of n bytes at a virtual address outside scratchpads that x authorises, piece by piece within 4 KiB pages. -/
def pagesOf (s : State) (ag : Agt) (x : Cap) (va access : Nat) : Nat → Nat → Got (List (Tgt × Nat))
  | 0, _ => .ok s []
  | fuel + 1, n =>
    if n = 0 then .ok s []
    else
      let k := min n (4096 - va % 4096)
      (target s ag x va access 0 (fun _ => none)).bind fun s1 p =>
        (pagesOf s1 ag x (va + k) access fuel (n - k)).bind fun s2 l => .ok s2 ((p, k) :: l)

/-- Bytes read by an agent outside any window. -/
def piecesRead (s : State) (au : Auth) (ag : Agt) (access : Nat) : List (Tgt × Nat) → Got (List Byte)
  | [] => .ok s []
  | (.here l _, n) :: rest =>
    match blocked s ag.uid false (linesOf s.ram l n), spoilAt s l n with
    | some s1, _ => .wait s1
    | none, some d => .fault s { kind := kSpoiled, detail := d, access := access }
    | none, none => (piecesRead (shareHost s (linesOf s.ram l n)) au ag access rest).bind fun s1 b => .ok s1 (ramRead s.ram l n ++ b)
  | (.there node off, n) :: rest =>
    match ask s au ag.uid ag.pcid node off (.read n) with
    | (s1, none) => .wait s1
    | (s1, some (.fault k d m)) => .fault s1 (ansFault k d m access (2 ^ 56 + node * 2 ^ 47 + off))
    | (s1, some (.data d _)) => (piecesRead s1 au ag access rest).bind fun s2 b => .ok s2 ((d ++ List.replicate n 0).take n ++ b)
    | (s1, some _) => (piecesRead s1 au ag access rest).bind fun s2 b => .ok s2 (List.replicate n 0 ++ b)

/-- Bytes written at the remote pieces of an access: each write is awaited (R357). -/
def putThere (s : State) (au : Auth) (ag : Agt) (access : Nat) : List (Tgt × Nat) → List Byte → Got Unit
  | [], _ => .ok s ()
  | (.here _ _, n) :: rest, b => putThere s au ag access rest (b.drop n)
  | (.there node off, n) :: rest, b =>
    match ask s au ag.uid ag.pcid node off (.write (b.take n)) with
    | (s1, none) => .wait s1
    | (s1, some (.fault k d m)) => .fault s1 (ansFault k d m access (2 ^ 56 + node * 2 ^ 47 + off))
    | (s1, some _) => putThere s1 au ag access rest (b.drop n)

/-- Bytes written at the local pieces of an access, with the span code of the write. -/
def putHere (s : State) (by_ : Nat) (span : BitVec 3) : List (Tgt × Nat) → List Byte → State
  | [], _ => s
  | (.here l _, n) :: rest, b => putHere (putMem s by_ l span (b.take n)) by_ span rest (b.drop n)
  | (.there _ _, n) :: rest, b => putHere s by_ span rest (b.drop n)

/-- Bytes written by an agent outside any window. -/
def piecesPut (s : State) (au : Auth) (ag : Agt) (span : BitVec 3) (access : Nat) (ps : List (Tgt × Nat)) (b : List Byte) : Got Unit :=
  (putThere s au ag access ps b).bind fun s1 _ => .ok (putHere s1 ag.uid span ps b) ()

/-- Whether the homes of the remote pieces allow the access; the answers are asked for one by one (R203, R217). -/
def piecesCheck (s : State) (au : Auth) (ag : Agt) (access : Nat) (k : ChkKind) : List (Tgt × Nat) → Got Unit
  | [] => .ok s ()
  | (.here l _, n) :: rest =>
    match blocked s ag.uid (k matches .write | .storeCap _ _ | .atomic) (linesOf s.ram l n) with
    | some s1 => .wait s1
    | none => piecesCheck s au ag access k rest
  | (.there node off, n) :: rest =>
    match ask s au ag.uid ag.pcid node off (.check k n) with
    | (s1, none) => .wait s1
    | (s1, some (.fault kd d m)) => .fault s1 (ansFault kd d m access (2 ^ 56 + node * 2 ^ 47 + off))
    | (s1, some _) => piecesCheck s1 au ag access k rest

/-- Bytes read by the queue processor at a virtual address of a context. -/
def qpRead (s : State) (q pcid va n : Nat) : Got (List Byte) :=
  (pagesOf s (qpAgt q pcid) capNull va accRead (n / 4096 + 2) n).bind fun s1 l => piecesRead s1 noAuth (qpAgt q pcid) accRead l

/-- Bytes written by the queue processor. -/
def qpWrite (s : State) (q pcid va : Nat) (bytes : List Byte) : Got Unit :=
  (pagesOf s (qpAgt q pcid) capNull va accWrite 3 bytes.length).bind fun s1 l =>
    (piecesCheck s1 noAuth (qpAgt q pcid) accWrite .write l).bind fun s2 _ => piecesPut s2 noAuth (qpAgt q pcid) 0 accWrite l bytes

/-- An 8-byte read-modify-write event of the queue processor (R391, R393), under the name of a queue or of a launch: at a local
place the new value is written; another node is asked for the atomic. -/
def qpRmw (s : State) (uid pcid va : Nat) (op : AtomOp) (operand : DWord) (f : Nat → Nat) : Got Unit :=
  (pagesOf s ({ qpAgt 0 pcid with uid := uid }) capNull va accAtomic 2 8).bind fun s1 l =>
    match l with
    | [(.there node off, _)] =>
      match ask s1 noAuth uid pcid node off (.atomic op .z64 operand 0) with
      | (s2, none) => .wait s2
      | (s2, some (.fault k d m)) => .fault s2 (ansFault k d m accAtomic va)
      | (s2, some _) => .ok (dropAns s2 uid) ()
    | _ => (piecesRead s1 noAuth ({ qpAgt 0 pcid with uid := uid }) accAtomic l).bind fun s2 b =>
        (piecesCheck s2 noAuth ({ qpAgt 0 pcid with uid := uid }) accAtomic .atomic l).bind fun s3 _ =>
          piecesPut s3 noAuth ({ qpAgt 0 pcid with uid := uid }) 0 accAtomic l (leBytes 8 (f (leNat b)))

end Sys2Proof.Machine
end

