-- ==== Sys2Proof/Machine/Unit.lean ====
section
/-! DEFINITION. Barrier objects, the accounting of units and launches, and the end of units and of engine work
(spec/10_synchronisation.md R277 to R281, R294; spec/14_queue_commands.md R384, R392, R393, R395; spec/12_tensor_copy.md
R344, R346; spec/13_collective_engines.md R365, R366; spec/15_traps_contexts.md R414). -/

namespace Sys2Proof.Machine

/-! Barrier objects. -/

/-- A barrier object read from its 16 bytes (R277). -/
structure Bar where
  remaining : Nat
  expected : Nat
  phase : Word
  bytes : Int
  deriving DecidableEq, Repr, Inhabited

/-- The error mark (R277). -/
def barMark : Int := -(2 ^ 63)

def Bar.of (b : List Byte) : Bar :=
  { remaining := leNat (b.take 2), expected := leNat ((b.drop 2).take 2), phase := BitVec.ofNat 32 (leNat ((b.drop 4).take 4)),
    bytes := sgn 64 (leNat (b.drop 8)) }

def Bar.bytesOf (x : Bar) : List Byte :=
  leBytes 2 x.remaining ++ leBytes 2 x.expected ++ leBytes 4 x.phase.toNat ++ leBytes 8 (modPow x.bytes 64)

/-- addb of R279. -/
def addb (b k : Int) : Int := if b = barMark then barMark else clampI (-(2 ^ 63 - 1)) (2 ^ 63 - 1) (b + k)

/-- The completion check of R279. -/
def Bar.check (x : Bar) : Bar :=
  if x.remaining = 0 && x.bytes = 0 then { x with phase := x.phase + 1, remaining := x.expected } else x

/-- One operation on a barrier object (R279). -/
def Bar.apply (x : Bar) : BarOp → Bar
  | .init n z keep =>
    if z && !(x.remaining = 0 && x.expected = 0) then x
    else { remaining := n.toNat, expected := n.toNat, bytes := 0, phase := if keep then x.phase else 0 }
  | .arrive k => Bar.check { x with remaining := x.remaining - 1, bytes := addb x.bytes k }
  | .expect k => Bar.check { x with bytes := addb x.bytes k }
  | .count m => Bar.check { x with bytes := addb x.bytes (-m) }
  | .error => Bar.check { x with bytes := barMark }

/-- Whether phase p has been passed (R280). -/
def passed (phase p : Word) : Bool := let d := (phase - p).toNat; 1 ≤ d && d < 2 ^ 31

/-- The barrier object at a location. -/
def barAt (r : Ram) (l : Loc) : Bar := Bar.of (ramRead r l 16)

/-- The result of a barrier read for phase p: 0 passed, 1 the error mark, 2 neither (R285). -/
def barTest (b : Bar) (p : Word) : Word := if passed b.phase p then 0 else if b.bytes = barMark then 1 else 2

/-- Memory after one barrier operation. -/
def barRam (r : Ram) (l : Loc) (op : BarOp) : Ram := ramWrite r l 0 ((barAt r l).apply op).bytesOf

/-- One barrier operation as one event (R279). -/
def barEvent (s : State) (by_ : Nat) (l : Loc) (op : BarOp) : State := putMem s by_ l 0 ((barAt s.ram l).apply op).bytesOf

/-- The scratchpad place that an address of a scratchpad capability names in a gang (R168). -/
def padLoc (s : State) (gang a : Nat) : Option Loc :=
  match gangWg s gang (a / 2 ^ 21 % 16) with | some w => some { sp := .pad w, a := a % 2 ^ 21 } | none => none

/-! Queue failures, level counters and completion. -/

def queNone : Que :=
  { base := 0, ctl := 0, rootp := 0, wr := 0, rd := 0, stat := 0, frd := 0, root := capNull, graph := none, phase := none, job := none }

def queOf (s : State) (q : Nat) : Que := aget queNone s.chip.queues q
def setQue (s : State) (q : Nat) (x : Que) : State := { s with chip := { s.chip with queues := aset queNone s.chip.queues q x } }
def modQue (s : State) (q : Nat) (f : Que → Que) : State := setQue s q (f (queOf s q))

/-- The fields of QCTL and QSTAT (R377, R378). -/
def Que.logn (x : Que) : Nat := nbits x.ctl.toNat 0 5
def Que.prio (x : Que) : Nat := nbits x.ctl.toNat 5 2
def Que.dev (x : Que) : Bool := x.ctl.getLsbD 7
def Que.en (x : Que) : Bool := x.ctl.getLsbD 8
def Que.pcid (x : Que) : Nat := nbits x.ctl.toNat 16 16
def Que.state (x : Que) : Nat := nbits x.stat.toNat 0 2
def Que.setState (x : Que) (n : Nat) : Que := { x with stat := BitVec.ofNat 32 (x.stat.toNat / 4 * 4 + n) }

/-- A queue fails at a record index with a code, a detail and the op byte (R384). -/
def failQueue (s : State) (q : Nat) (index : Word) (code detail op : Nat) : State :=
  let stat := BitVec.ofNat 32 (3 + code % 64 * 4 + op % 256 * 2 ^ 8 + detail % 2 ^ 16 * 2 ^ 16)
  let s1 := modQue s q fun x => { x with stat := stat, frd := index }
  raiseEvent s1 1 q 0 (leBytes 4 stat.toNat ++ leBytes 4 index.toNat)

/-- DETAIL of failure code 8 (R380). -/
def faultDetail (t : TrapInfo) : Nat := t.kind % 16 * 256 + t.detail % 256

def levelNone : Level := { out := 0, done := 0, cancelled := false }
def levelOf (s : State) (n : Nat) : Level := aget levelNone s.chip.levels n
def modLevel (s : State) (n : Nat) (f : Level → Level) : State :=
  { s with chip := { s.chip with levels := aset levelNone s.chip.levels n (f (levelOf s n)) } }

/-- The level objects of a launch, one entry for each level at which one is current (R393). -/
def Lnch.objs (l : Lnch) : List Nat := [l.graph, l.phase, l.job].filterMap id

/-- OUT of each level object and the hidden count rise by n units (R393). -/
def unitsIn (s : State) (launch n : Nat) : State :=
  match lnchBy s launch with
  | none => s
  | some l =>
    let s1 := l.objs.foldl (fun t o => modLevel t o fun x => { x with out := x.out + BitVec.ofNat 64 n }) s
    modLnch s1 launch fun x => { x with hidden := x.hidden + n }

/-- The completion of a launch whose hidden count is 0: its semaphore falls by 1, or the queue fails (R380, R393). A
decrement that has to wait is tried again at a later turn of the queue. -/
def tryComplete (s : State) (launch : Nat) : State :=
  match lnchBy s launch with
  | none => s
  | some l =>
    if l.complete || l.hidden != 0 then s
    else
      let fin (t : State) := modLnch t launch fun x => { x with complete := true }
      if l.sem = 0 then fin s
      else match qpRmw s l.uid l.pcid l.sem.toNat .add (BitVec.allOnes 64) (fun v => (v + 2 ^ 64 - 1) % 2 ^ 64) with
        | .ok s1 () => fin s1
        | .wait s1 => s1
        | .fault s1 t =>
          let s2 := fin s1
          failQueue s2 l.queue l.recIx 8 (faultDetail t) (if l.kd.task then 2 else 1)

/-- n units of a launch leave: each count falls, and DONE rises where they have ended (R393, R395). -/
def unitsOut (s : State) (launch n : Nat) (done : Bool) : State :=
  match lnchBy s launch with
  | none => s
  | some l =>
    let s1 := l.objs.foldl (fun t o => modLevel t o fun x =>
      { x with out := x.out - BitVec.ofNat 64 n, done := if done then x.done + BitVec.ofNat 64 n else x.done }) s
    tryComplete (modLnch s1 launch fun x => { x with hidden := x.hidden - n }) launch

/-- The record that a queue holds has taken its whole effect (R382): the queue goes on, unless it has failed. -/
def endPush (s : State) (q : Nat) : State :=
  modQue s q fun x =>
    let y := if x.state = 3 then x else { x with rd := x.rd + 1 }
    if y.state = 2 then y.setState 1 else y

/-- Shelves by 8 × die + shelf (R297, R403). -/
def shelfNone : Shelf := { base := 0, cap := 0, pcid := 0, flags := 0, recs := [] }
def shelfOf (s : State) (k : Nat) : Shelf := aget shelfNone s.chip.shelves k
def modShelf (s : State) (k : Nat) (f : Shelf → Shelf) : State :=
  { s with chip := { s.chip with shelves := aset shelfNone s.chip.shelves k (f (shelfOf s k)) } }

/-- The place of spilled record i of a shelf, in its spill area (R297). -/
def spillAt (x : Shelf) (i : Nat) : Nat := x.base.toNat + 64 * (i % x.cap.toNat)

/-- A record joins a shelf; past the 256 on die it stands in the spill area, with its tags (R297). -/
def pushShelf (s : State) (k : Nat) (r : TaskRec) : State :=
  let x := shelfOf s k
  if x.recs.length < 256 then modShelf s k fun y => { y with recs := y.recs ++ [r] }
  else (below 4).foldl (fun t j => putCap t 0 (hbmLoc (spillAt x x.tail + 16 * j)) (r.q.getD j capNull))
    (modShelf s k fun y => { y with recs := y.recs ++ [r], tail := y.tail + 1 })

/-- The head of a shelf leaves it; the first spilled record comes on die as the spill area then holds it (R297). -/
def dropHead (s : State) (k : Nat) : State :=
  let x := shelfOf s k
  let rest := x.recs.drop 1
  if x.recs.length ≤ 256 then modShelf s k fun y => { y with recs := rest }
  else
    let a := spillAt x (x.tail - (x.recs.length - 256))
    let q := (below 4).map fun j => ramReadCap s.ram (hbmLoc (a + 16 * j))
    modShelf s k fun y => { y with recs := rest.modify 255 fun r => { r with q := q } }

/-- A shelf without the records of a launch. -/
def dropLaunch (s : State) (k uid : Nat) : State :=
  let x := shelfOf s k
  let l := x.recs.filter fun r => r.launch != uid
  if x.recs.length ≤ 256 then modShelf s k fun y => { y with recs := l }
  else l.foldl (fun t r => pushShelf t k r) (modShelf s k fun y => { y with recs := [], tail := 0 })

/-! Mappings (R226, R227). -/

/-- Ram with one mapping ended: the range takes the rows' contents with their tags (R226). -/
def unmapRam (r : Ram) (m : MapEnt) : Ram :=
  let r1 := { r with maps := r.maps.filter fun x => x != m }
  let row : Loc := { sp := .pad m.wg, a := m.off }
  let r2 := ramWrite r1 (hbmLoc m.pa) 0 (ramRead r row m.len)
  (below (m.len / 16)).foldl (fun t k => putTag t (hbmLoc (m.pa + 16 * k)) (tagAt r { row with a := m.off + 16 * k })) r2

/-- The other name of a line of a mapping: its row for a line of the range, and the reverse. -/
def aliasLine (m : MapEnt) (l : Loc) : List Loc :=
  match l.sp with
  | .hbm => if m.pa ≤ l.a && l.a < m.pa + m.len then [l, { sp := .pad m.wg, a := m.off + (l.a - m.pa) }] else [l]
  | .pad w => if w = m.wg && m.off ≤ l.a && l.a < m.off + m.len then [l, hbmLoc (m.pa + (l.a - m.off))] else [l]
  | _ => [l]

/-- Read sets and held lines name a mapped line by both its names, since MAP and UNMAP change no value (R225, R245). -/
def aliasReads (s : State) (m : MapEnt) : State :=
  let f (w : Window) : Window := { w with reads := (w.reads.flatMap (aliasLine m)).eraseDups }
  { s with grps := s.grps.map fun g => { g with wins := g.wins.map f },
           drains := s.drains.flatMap fun d => (aliasLine m d.line).map fun l => { d with line := l } }

/-- Granules that have just been written by a workgroup's mapping pass the load barrier while an epoch runs (R194). -/
def barTags (s : State) (wg : Nat) (l : Loc) (n : Nat) : State :=
  let pc := match wgBy s wg with | some w => pcidOf s w.launch | none => 0
  { s with ram := (below n).foldl (fun r k =>
      let p := { l with a := l.a + 16 * k }
      if (epochBar s pc (ramReadCap r p)).tag then r else putTag r (resolve r p) false) s.ram }

/-- One mapping ends (R226). -/
def unmapOne (s : State) (m : MapEnt) : State := aliasReads (barTags { s with ram := unmapRam s.ram m } m.wg (hbmLoc m.pa) (m.len / 16)) m

/-- The mappings of a slot of a workgroup. -/
def mapsOf (s : State) (wg slot : Nat) : List MapEnt := s.ram.maps.filter fun m => m.wg = wg && m.slot = slot

/-- A slot is unmapped; a free slot has no mapping. -/
def unmapSlot (s : State) (wg slot : Nat) : State := (mapsOf s wg slot).foldl unmapOne s

/-- Every live mapping of a workgroup ends, in slot order; the ninth entry is that of its save image (R426). -/
def unmapWg (s : State) (wg : Nat) : State := (below 9).foldl (fun t k => unmapSlot t wg k) s

/-- A range takes effect as a mapping: its rows take its contents with their tags, and both names are one location (R224). -/
def mapOne (s : State) (m : MapEnt) : State :=
  let row : Loc := { sp := .pad m.wg, a := m.off }
  let r1 := ramWrite s.ram row 0 (ramRead s.ram (hbmLoc m.pa) m.len)
  let r2 := (below (m.len / 16)).foldl (fun t k =>
    putTag t { row with a := m.off + 16 * k } (tagAt s.ram (resolve s.ram (hbmLoc (m.pa + 16 * k))))) r1
  let s1 := markHit { s with ram := { r2 with maps := r2.maps ++ [m] } } 0 (linesOf s.ram row m.len)
  aliasReads (barTags s1 m.wg row (m.len / 16)) m

/-! The end of engine work with an error (R344, R365). -/

/-- The barrier objects on which a tensor copy operation counts (R333, R342). -/
def tceBars (s : State) (o : TceOp) : List Loc :=
  if o.nobar then []
  else
    let at_ (j : Nat) : Option Loc :=
      match gangWg s o.gang j with | some w => some { sp := .pad w, a := o.bar } | none => none
    if o.kind = .mcast then (below 16).filterMap fun j => if o.recv.getLsbD j then at_ j else none
    else (at_ (cAddr o.ccap / 2 ^ 21 % 16)).toList

/-- An operation ends with an error: the mark goes to its barriers (R344). -/
def endTce (s : State) (uid : Nat) : State :=
  match s.tces.find? fun o => o.uid = uid with
  | none => s
  | some o =>
    let s1 := (tceBars s o).foldl (fun t l => barEvent t uid l .error) s
    { s1 with tces := updWhere (fun x => x.uid = uid) (fun x => { x with st := .error, stop := none }) s1.tces }

/-- The barrier object that slot K of a command word names for a list (R354, R358). -/
def ceBar (s : State) (l : CeList) (w : DWord) : Option Loc :=
  let c := l.e.getD (nbits w.toNat 46 4) capNull
  if cSP c && c.tag then padLoc s l.gang (cAddr c) else none

/-- Whether the word is a data command that counts on K (R355). -/
def ceCounts (w : DWord) : Bool := [2, 3, 4, 5, 12, 13, 14].contains (nbits w.toNat 58 6) && !w.getLsbD 45

/-- A list ends with an error: the mark goes to the barrier of each data command that has not ended, and the context is free (R365). -/
def endCe (s : State) (uid : Nat) : State :=
  match s.ces.find? fun l => l.uid = uid with
  | none => s
  | some l =>
    let mark (t : State) (c : CeCmd) : State :=
      if ceCounts c.w0 then (match ceBar t l c.w0 with | some b => barEvent t uid b .error | none => t) else t
    let s1 := l.cmds.foldl mark s
    { s1 with ces := updWhere (fun x => x.uid = uid) (fun x => { x with st := .error, stop := none, cmds := [], ctx := none }) s1.ces }

/-- The stopped operations of a group, and its stopped lists. -/
def stoppedTces (s : State) (g : Nat) : List TceOp := s.tces.filter fun o => o.group = g && o.st = .stopped
def stoppedCes (s : State) (g : Nat) : List CeList := s.ces.filter fun l => l.owner = some g && l.st = .stopped

/-- TSTAT.drop and CESTAT.drop of a group (R346, R366). -/
def dropTces (s : State) (g : Nat) : State := (stoppedTces s g).foldl (fun t o => endTce t o.uid) s
def dropCes (s : State) (g : Nat) : State := (stoppedCes s g).foldl (fun t l => endCe t l.uid) s

/-! The end of units. -/

/-- The save slot of a dormant task is free again (R422). -/
def freeYSlot (s : State) (uid : Nat) : State :=
  match grpOf s uid with
  | some g => match g.ySlot with
    | some k => { modGrp s uid (fun x => { x with ySlot := none }) with saveUsed := s.saveUsed.filter (· != k) }
    | none => s
  | none => s

/-- A group gone without an end of its own: its windows are dropped, its slot is free, and the stops of its engine work are
ended with an error (R395). -/
def dropGrp (s : State) (uid : Nat) : State :=
  dropCes (dropTces (freeYSlot (modGrp s uid fun g => { g with ended := true, wins := [], dormant := none, frame := none }) uid) uid) uid

/-- A workgroup leaves: its mappings end, its save slot and matrix contexts are free (R20, R227, R422). -/
def closeWg (s : State) (uid : Nat) : State :=
  let s1 := unmapWg s uid
  let slot := match wgBy s1 uid with | some w => w.slot | none => none
  let s2 := modWg { s1 with proxies := s1.proxies.filter fun p => p.wg != uid } uid fun w =>
    { w with ended := true, ctxs := [], slot := none, mapSave := [] }
  { s2 with saveUsed := match slot with | some k => s2.saveUsed.filter (· != k) | none => s2.saveUsed }

/-- The groups of a workgroup that have not ended. -/
def grpsOfWg (s : State) (wg : Nat) : List Grp := s.grps.filter fun g => g.wg = wg && !g.task && !g.ended

/-- A workgroup is discarded: its unit leaves without DONE (R395). -/
def discardWg (s : State) (uid : Nat) : State :=
  match wgBy s uid with
  | none => s
  | some w =>
    if w.ended then s
    else unitsOut (closeWg ((grpsOfWg s uid).foldl (fun t g => dropGrp t g.uid) s) uid) w.launch 1 false

/-- A gang is discarded (R414). -/
def discardGang (s : State) (uid : Nat) : State :=
  match gangBy s uid with
  | none => s
  | some x => modGang (x.wgs.foldl discardWg s) uid fun y => { y with st := .discarded, request := false }

/-- The gang of a group is discarded; a task is a unit of its own. -/
def discardOf (s : State) (g : Grp) : State :=
  if g.task then unitsOut (dropGrp s g.uid) g.launch 1 false else discardGang s g.gang

/-- A group has retired the EXIT of its last split: the group ends, and with the last group of its workgroup the unit ends
(R393, R227, R230). -/
def endGrp (s : State) (g : Grp) : State :=
  let s1 := modGrp s g.uid fun x => { x with ended := true, wins := [], region := none }
  if g.task then unitsOut (freeYSlot s1 g.uid) g.launch 1 true
  else if (grpsOfWg s1 g.wg).isEmpty then unitsOut (closeWg s1 g.wg) g.launch 1 true
  else s1

/-- A launch is cancelled: its unplaced units, shelf records and placed or saved units leave without DONE (R395). -/
def cancelLaunch (s : State) (uid : Nat) : State :=
  match lnchBy s uid with
  | none => s
  | some l =>
    if l.complete then s
    else
      let s0 := if l.kd.task && l.next < l.count then endPush s l.queue else s
      let s1 := modLnch s0 uid fun x => { x with cancelled := true, next := x.count }
      let onShelves := ((below 16).flatMap fun k => (shelfOf s1 k).recs.filter fun r => r.launch = uid).length
      let s2 := (below 16).foldl (fun t k => dropLaunch t k uid) s1
      let tasks := s2.grps.filter fun g => g.task && g.launch = uid && !g.ended
      let s3 := tasks.foldl discardOf s2
      let gangs := s3.gangs.filter fun g => g.launch = uid && g.st != .discarded
      let s4 := gangs.foldl (fun t g => discardGang t g.uid) s3
      let gone := l.count - l.next + onShelves
      if gone = 0 then tryComplete s4 uid else unitsOut s4 uid gone false

end Sys2Proof.Machine
end

