-- ==== Sys2Proof/Machine/Window.lean ====
section
/-! DEFINITION. Windows: how one opens, what it buffers, its commit and its rollback (spec/08_sequential_order.md R237 to
R256), and the value of one atomic unit (spec/09_atomics_reductions.md R259, R260). -/

namespace Sys2Proof.Machine

/-! One atomic unit. -/

/-- The unit of a type in bytes (R259). -/
def unitOf (t : Ty) : Nat := match t with | .s64 | .z64 | .f64 | .b64 => 8 | _ => 4

/-- One floating-point element of an atomic operation: .rne, subnormals kept, canonical NaN, no flag (R260). -/
def atomF (F : Fmt) (op : AtomOp) (old b : Nat) : Nat :=
  match op with
  | .add => (arith F .rne false false false [old, b] (opAdd .rne)).1
  | .min => (fMinMax F false false false false old b).1
  | _ => (fMinMax F true false false false old b).1

/-- One integer element of n bits. -/
def atomI (n : Nat) (uns : Bool) (op : AtomOp) (old b : Nat) : Nat :=
  let v (x : Nat) : Int := if uns then (x : Int) else sgn n x
  match op with
  | .add => (old + b) % 2 ^ n
  | .min => if v b < v old then b else old
  | .max => if v b > v old then b else old
  | .and => old &&& b
  | .or => old ||| b
  | .xor => old ^^^ b
  | .exch | .cas => b

/-- The new value of one unit (R260); `.cas` is decided by the caller. -/
def atomNew (op : AtomOp) (t : Ty) (old b : Nat) : Nat :=
  let half (F : Fmt) : Nat := atomF F op (old % 2 ^ 16) (b % 2 ^ 16) + atomF F op (old / 2 ^ 16 % 2 ^ 16) (b / 2 ^ 16 % 2 ^ 16) * 2 ^ 16
  match t with
  | .f32 => atomF fmt32 op old b
  | .f64 => atomF fmt64 op old b
  | .f16 => half fmt16
  | .bf16 => half fmtB16
  | .z32 => atomI 32 true op old b
  | .s64 => atomI 64 false op old b
  | .z64 | .b64 => atomI 64 true op old b
  | _ => atomI 32 false op old b

/-! What a group sees of memory inside its windows (R240). -/

/-- Memory of this node after one buffered operation. -/
def bufRam (r : Ram) (o : BufOp) : Ram :=
  match o with
  | .write l d sp => ramWrite r l sp d
  | .writeCap l v => ramWriteCap r l v
  | .red l op t b => ramWrite r l 0 (leBytes (unitOf t) (atomNew op t (ramNat r l (unitOf t)) b.toNat))
  | .bar l op => barRam r l op
  | _ => r

/-- Another node's memory, by offset, after one buffered operation. -/
def bufGuest (node : Nat) (r : Ram) (o : BufOp) : Ram :=
  match o with
  | .remote n off _ _ k =>
    if n != node then r
    else match k with
      | .write d => ramWrite r (hbmLoc off) 0 d
      | .capWrite v => ramWriteCap r (hbmLoc off) v
      | .atomic op t b _ => ramWrite r (hbmLoc off) 0 (leBytes (unitOf t) (atomNew op t (ramNat r (hbmLoc off) (unitOf t)) b.toNat))
      | _ => r
  | _ => r

/-- Everything that a group's uncommitted windows buffer, in issue order. -/
def bufOf (g : Grp) : List BufOp := g.wins.flatMap (·.buf)

/-- Memory of this node as a group sees it. -/
def viewRam (s : State) (g : Grp) : Ram := (bufOf g).foldl bufRam s.ram

/-- Another node's memory as a group sees it: the guest lines of its context with its own buffered stores. -/
def viewGuest (s : State) (g : Grp) (node : Nat) : Ram :=
  let base : Ram := { hbm := [], tags := [], host := [], pads := [], maps := [], vers := [] }
  let lines := s.fab.guest.filter fun x => x.node = node && x.pcid = pcidOf s g.launch
  let r0 := lines.foldl (fun r x =>
    (below x.tags.length).foldl (fun t k => putTag t (hbmLoc (x.line + 16 * k)) (x.tags.getD k false)) (ramWrite r (hbmLoc x.line) 0 x.data)) base
  (bufOf g).foldl (bufGuest node) r0

/-! Rollback. -/

/-- The holds that windows have at other homes are released (R243). -/
def releaseHolds (s : State) (ws : List Window) : State :=
  { s with outbox := s.outbox ++ (ws.flatMap (·.valid)).map fun h => .release h.1 h.2 }

/-- Each core counts its escalations; whether 64 of them fall within 10 µs is not decided by the model (R254, R435; log 22). -/
def escalate (s : State) (core : Nat) : State :=
  let cnt := aget 0 s.chip.escal core + 1
  let (d, s1) := draw s
  let alarm : Bool := cnt ≥ 64 && Config.freeBit d
  let s2 := { s1 with chip := { s1.chip with escal := aset 0 s1.chip.escal core (if alarm then 0 else cnt) } }
  if alarm then raiseEvent (lifeInc s2 4) 6 (core / 72) 64 (leBytes 4 core) else s2

/-- A rollback of the windows of a group from position k on (R253, R254): the state of R239 returns, b registers are to be
translated again, RBCOUNT counts each window, and the eighth rollback at one start gives SOLO mode for 256 instructions. -/
def rollGrp (s : State) (uid k : Nat) : State :=
  match grpOf s uid with
  | none => s
  | some g =>
    match g.wins[k]? with
    | none => s
    | some w =>
      let gone := g.wins.drop k
      let same := g.rbStart = w.start && g.rbRun != 0
      let n := if same then g.rbRun + 1 else 1
      let esc : Bool := n ≥ 8
      let g' : Grp := { g with
        g := { w.snap with b := w.snap.b.map fun e => (e.1, { e.2 with stale := true }) },
        wins := g.wins.take k,
        rbcount := gone.foldl (fun c _ => satInc c) g.rbcount,
        rbStart := w.start, rbRun := if esc then 0 else n, rbNext := w.start,
        solo := if esc then some 256 else g.solo }
      let q (t : State) (v : Window) : State := modMat t g.wg (matPos t g) fun c =>
        { c with bank := (v.ckpt.filter (· ≥ 256)).foldl (fun b x => aset zeroRow b (x - 256) (aget zeroRow v.qOld x)) c.bank }
      let s1 := rollBad (releaseHolds (dropAns (setGrp (gone.reverse.foldl q s) g') uid) gone) g gone
      if esc then escalate s1 g.core else s1

/-- The oldest window of a group that a conflict has hit. -/
def hitAt (g : Grp) : Option Nat := (below g.wins.length).find? fun k => match g.wins[k]? with | some w => w.hit | none => false

/-- Rolls back the windows that a conflict has hit, and the younger ones (R245). -/
def rollHit (s : State) (uid : Nat) : State :=
  match grpOf s uid with
  | none => s
  | some g => match hitAt g with | some k => rollGrp s uid k | none => s

/-! Commit. -/

/-- The next place of a ring fed by LAUNCH (R404). -/
def ringAt (s : State) (q : Nat) : Got (List (Tgt × Nat)) :=
  let x := queOf s q
  pagesOf s (qpAgt q x.pcid) capNull (x.base.toNat + 32 * (x.wr.toNat % 2 ^ x.logn)) accWrite 2 32

/-- The places of the ring records among buffered operations, in order (R404). -/
def ringPlaces (s : State) : List BufOp → List (Tgt × Nat)
  | [] => []
  | .ring q _ :: l => (match ringAt s q with | .ok _ ps => ps | _ => []) ++ ringPlaces (modQue s q fun y => { y with wr := y.wr + 1 }) l
  | _ :: l => ringPlaces s l

/-- The lines of this node that a buffered operation writes. -/
def bufLines (s : State) (o : BufOp) : List Loc :=
  match o with
  | .write l d _ => linesOf s.ram l d.length
  | .writeCap l _ => linesOf s.ram l 16
  | .red l _ t _ => linesOf s.ram l (unitOf t)
  | .bar l _ => linesOf s.ram l 16
  | .spawn (some l) _ _ => linesOf s.ram l 4
  | _ => []

/-- The remote sub-pages that n bytes at an offset touch. -/
def subSpan (node a n : Nat) : List (Nat × Nat) := (upto (a / 4096) ((a + n - 1) / 4096 + 1 - a / 4096)).map fun k => (node, k)

/-- The remote sub-pages that a buffered operation writes. -/
def bufSubs (o : BufOp) : List (Nat × Nat) := match o with | .remote node off n _ _ => subSpan node off n | _ => []

/-- The lines of this node and the sub-pages of others that a window's buffer writes (R242). -/
def winLines (s : State) (buf : List BufOp) : List Loc :=
  (buf.flatMap (bufLines s) ++ (ringPlaces s buf).flatMap fun p => match p.1 with | .here l _ => linesOf s.ram l p.2 | .there _ _ => []).eraseDups
def winSubs (s : State) (buf : List BufOp) : List (Nat × Nat) :=
  buf.flatMap bufSubs ++ (ringPlaces s buf).flatMap fun p => match p.1 with | .there node off => subSpan node off p.2 | .here _ _ => []

/-- The record written at the next place of a ring fed by LAUNCH, with the advance of QWR, as one event (R404). A place that has
ceased to translate since the LAUNCH fails the queue as a write of its own does (R380; log 71). -/
def ringPut (s : State) (uid who q : Nat) (data : List Byte) : State :=
  let x := queOf s q
  let far (t : State) (p : Tgt × Nat) : State :=
    match p.1 with | .there node off => post t noAuth who x.pcid node off p.2 (.write (data.take p.2)) | .here _ _ => t
  match ringAt s q with
  | .ok s1 l => modQue (l.foldl far (putHere s1 uid 0 l data)) q fun y => { y with wr := y.wr + 1 }
  | .wait s1 => s1
  | .fault s1 t => failQueue s1 q x.wr 8 (faultDetail t) (leNat (data.take 1))

/-- A 4-byte increment modulo 2^32. -/
def joinInc (s : State) (uid : Nat) (l : Loc) : State := putMem s uid l 0 (leBytes 4 ((ramNat s.ram l 4 + 1) % 2 ^ 32))

/-- Whether an object lies on the other die than this one. -/
def otherDie (s : State) (die wg : Nat) : Bool := match wgBy s wg with | some x => !x.ended && x.core0 / 72 != die | none => false

/-- A die has a proxy for a barrier object of the other die, while one is free (R292). -/
def proxyOpen (s : State) (die : Nat) (l : Loc) : State :=
  match l.sp with
  | .pad w =>
    if !otherDie s die w || (s.proxies.any fun p => p.wg = w && p.off = l.a && p.die = die)
      || (s.proxies.filter fun p => p.die = die).length ≥ 256 then s
    else { s with proxies := s.proxies ++ [{ wg := w, off := l.a, die := die, flight := [], gathered := [], phase := (barAt s.ram l).phase }] }
  | _ => s

/-- An operation of a group goes to its die's proxy: a forward carries it at once if none is in flight, else the next one does. The
operation takes its place in S now; until its forward has arrived its line stays held against every other group (R242, R292). -/
def proxyGather (s : State) (uid die : Nat) (l : Loc) : State :=
  let s1 := proxyOpen s die l
  { s1 with proxies := s1.proxies.map fun p =>
      if l.sp = .pad p.wg && p.off = l.a && p.die = die then
        (if p.flight.isEmpty then { p with flight := [uid] } else { p with gathered := p.gathered ++ [uid] })
      else p }

/-- Whether an operation of a group on an object of this line is still on its way (R292). -/
def proxyBusy (s : State) (uid : Nat) (line : Loc) : Bool :=
  s.proxies.any fun p => line.sp = .pad p.wg && p.off / 128 * 128 = line.a && (p.flight ++ p.gathered).contains uid

/-- A barrier operation of an agent of a die that is no window's: its line is held against the others until its proxy's forward has arrived,
where it goes through one. -/
def barIssue (s : State) (uid die : Nat) (l : Loc) (op : BarOp) : State :=
  let s1 := barEvent (proxyGather s uid die l) uid l op
  let line := lineOf (resolve s1.ram l)
  if proxyBusy s1 uid line then { s1 with drains := s1.drains ++ [{ group := uid, line := line }] } else s1

/-- A multicast group without members. -/
def mcNone : McGroup := { gen := 0, members := 0 }

/-- A multicast engine thread forks (R273). -/
def mcFork (s : State) (group pcid grp off : Nat) (data : List Byte) (au : Auth) : State :=
  { s with uid := s.uid + 1, fab := { s.fab with mcThreads := s.fab.mcThreads ++
      [{ uid := s.uid, group := group, grp := grp, gen := (aget mcNone s.fab.mcast grp).gen, off := off, data := data, pcid := pcid, au := au,
         read := false, own := none }] } }

/-- The name under which the stores of committed windows drain to other nodes: no group awaits them (R242). -/
def drainName : Nat := 97

/-- One buffered operation takes its place in S, or one operation outside any window is performed (R240, R242). Writes to other nodes
are posted under the name `who`. -/
def perform (s : State) (uid : Nat) (o : BufOp) (who : Nat := uid) : State :=
  match grpOf s uid with
  | none => s
  | some g =>
    let pcid := pcidOf s g.launch
    match o with
    | .write l d sp => putMem s uid l sp d
    | .writeCap l v => putCap s uid l (epochBar s pcid v)
    | .red l op t b => putMem s uid l 0 (leBytes (unitOf t) (atomNew op t (ramNat s.ram l (unitOf t)) b.toNat))
    | .remote node off n au k => post s au who pcid node off n k
    | .contrib c => { s with fab := { s.fab with flight := s.fab.flight ++ [{ c with tag := s.fab.nextTag }], nextTag := s.fab.nextTag + 1 } }
    | .sparse w gen i v =>
      let rank := match s.fab.wins.find? fun e => e.1 = w with | some e => e.2.d.members.idxOf s.fab.node.toNat | none => 0
      let p : SparsePair := { win := w, gen := gen, rank := rank, tag := s.fab.nextTag, index := i, value := v }
      { s with fab := { s.fab with sparseFlight := s.fab.sparseFlight ++ [p], nextTag := s.fab.nextTag + 1 } }
    | .mcast m off d au => mcFork s uid pcid m off d au
    | .bar l op => if who = uid then barIssue s uid (g.core / 72) l op else barEvent (proxyGather s uid (g.core / 72) l) uid l op
    | .tce t =>
      let n := g.tceTicket + 1
      { setGrp s { g with tceTicket := n } with tces := s.tces ++ [{ t with ticket := n, st := .queued }] }
    | .ce l =>
      let n := g.ceTicket + 1
      { setGrp s { g with ceTicket := n } with ces := s.ces ++ [{ l with ticket := n, st := .queued }] }
    | .mat m => modMat s g.wg (matPos s g) fun c => { c with queue := c.queue ++ [m] }
    | .ring q d => ringPut s uid who q d
    | .spawn parent sh r =>
      let s1 := match parent with | some l => joinInc s uid l | none => s
      unitsIn (pushShelf s1 sh r) g.launch 1

/-- The forked operations of a core's tensor copy engine that have not started, and the queued lists of an engine. -/
def tceQueued (s : State) (core : Nat) : Nat := (s.tces.filter fun o => o.core = core && o.st = .queued).length
def ceQueued (s : State) (die eng : Nat) : Nat := (s.ces.filter fun l => l.die = die && l.engine = eng && l.st = .queued).length

/-- Whether the engines have room for the launches of a window (R331, R349). A window of more lists than a queue holds finds the queue
empty; the lists past its 16 entries wait for room. -/
def forkRoom (s : State) (core : Nat) (ops : List BufOp) : Bool :=
  let t := (ops.filter fun o => match o with | .tce _ => true | _ => false).length
  let n (die eng : Nat) : Nat := (ops.filter fun o => match o with | .ce l => l.die = die && l.engine = eng | _ => false).length
  tceQueued s core + t ≤ max 64 t &&
  ops.all fun o => match o with
    | .ce l => ceQueued s l.die l.engine + n l.die l.engine ≤ max 16 (n l.die l.engine)
    | _ => true

/-- Whether a fork of a committed run of a group waits for room in a CE's launch queue; its drain waits with it (R242, R349). -/
def forkWaits (s : State) (group : Nat) : Bool :=
  s.ces.any fun l => l.group = group && l.st = .queued &&
    ((s.ces.filter fun m => m.die = l.die && m.engine = l.engine && m.st = .queued).drop 16).any fun m => m.uid = l.uid

/-- How a commit attempt ends. -/
inductive Commit where
  | done | rolled | wait
  deriving DecidableEq, Repr

/-- The versions after a commit point: each sub-page that it wrote advances once (R248). -/
def oneBump (s s1 : State) : State :=
  let v0 := s.ram.vers
  let subs := ((s1.ram.vers ++ v0).map (·.1)).eraseDups.filter fun k => aget 0 s1.ram.vers k != aget 0 v0 k
  let vers := subs.foldl (fun v k => aset 0 v k (aget 0 v0 k + 1)) v0
  let out := s1.outbox.filter fun o => match o with | .bump k => s.outbox.contains (.bump k) | _ => true
  wrapBumps { s1 with ram := { s1.ram with vers := vers }, outbox := out } subs

/-- No owner. -/
def ownNone : Own := { owner := 0, subs := [] }

/-- The owner of sub-page i of a granule. -/
def ownSub (o : Own) (i : Nat) : Nat := if aget 0 o.subs i = 0 then o.owner else aget 0 o.subs i

/-- The owner that a die of another node is (R251), and the mark of a split sub-page whose owner is lost. -/
def nodeOwner (node die : Nat) : Nat := 1000 + 2 * node + die % 2
def ownFree : Nat := 999

/-- The ownership of a sub-page of device memory is granted at a window's write hold: the first writer owns the granule, a second
writer splits it, and one owner of every sub-page joins it again (R251). A sub-page that a mapping covers stays with the mapping core
(R252). Owners are 1 plus a core, or those of `nodeOwner`. -/
def grantOwn (s : State) (who : Nat) (a : Nat) : State :=
  let o := aget ownNone s.owners (a / 65536)
  let i := a / 4096 % 16
  let o1 : Own := if o.owner = 0 && o.subs.isEmpty then { owner := who, subs := [] }
    else if ownSub o i = who then o else { o with subs := aset 0 o.subs i who }
  let o2 : Own := if (below 16).all (fun j => ownSub o1 j = who) then { owner := who, subs := [] } else o1
  { s with owners := aset ownNone s.owners (a / 65536) o2 }

/-- Whether a live mapping covers a part of the sub-page of an address (R252). -/
def mappedSub (s : State) (a : Nat) : Bool := s.ram.maps.any fun m => m.pa < a / 4096 * 4096 + 4096 && a / 4096 * 4096 < m.pa + m.len

/-- Ownership of the device-memory lines among these, but for mapped sub-pages. -/
def grantAll (s : State) (who : Nat) (lines : List Loc) : State :=
  (lines.filter fun l => l.sp = .hbm && !mappedSub s l.a).foldl (fun t l => grantOwn t who l.a) s

/-- Whether a sub-page of these lines would move to a new owner while a store of another group that has committed still holds a line
of it (R251). -/
def moveHeld (s : State) (uid who : Nat) (lines : List Loc) : Bool :=
  lines.any fun l => l.sp = .hbm && !mappedSub s l.a &&
    (let o := aget ownNone s.owners (l.a / 65536)
     !(o.owner = 0 && o.subs.isEmpty) && ownSub o (l.a / 4096 % 16) != who) &&
    s.drains.any fun d => d.group != uid && d.line.sp = .hbm && d.line.a / 4096 = l.a / 4096

/-- Sub-pages of other nodes in ascending order of node and offset (R243). -/
def inOrder (l : List (Nat × Nat)) : List (Nat × Nat) := l.foldr (fun x r => r.takeWhile (before x) ++ x :: r.dropWhile (before x)) []
where
  /-- Whether y comes before x. -/
  before (x y : Nat × Nat) : Bool := y.1 < x.1 || (y.1 = x.1 && y.2 < x.2)

/-- The oldest window of a group reaches its commit point, rolls back, or waits (R242, R243, R248). -/
def commitOldest (s : State) (uid : Nat) : State × Commit :=
  match grpOf s uid with
  | none => (s, .done)
  | some g =>
    match g.wins with
    | [] => (s, .done)
    | w :: rest =>
      if w.hit then (rollGrp s uid 0, .rolled)
      else
        let lines := winLines s w.buf
        let writes := winSubs s w.buf
        let need := inOrder (w.remote.map (fun r => (r.node, r.sub)) ++ writes).eraseDups
        let miss := need.filter fun x => !w.valid.contains x
        let ask_ := miss.filter fun x => !w.asked.contains x
        if !miss.isEmpty then
          let outs := ask_.map fun x => Out.validate x.1 x.2 (writes.contains x)
          ({ setGrp s { g with wins := { w with closed := true, asked := w.asked ++ ask_ } :: rest } with outbox := s.outbox ++ outs }, .wait)
        else if hostHolds s lines then
          (askHost (setGrp s { g with wins := { w with closed := true } :: rest }) lines, .wait)
        else if heldLine s uid true lines || moveHeld s uid (g.core + 1) lines || !forkRoom s g.core w.buf then
          (setGrp s { g with wins := { w with closed := true } :: rest }, .wait)
        else
          let g1 := { g with wins := rest, integ := if (g.integ.map (·.1)) = some w.start then none else g.integ, rbRun := if g.rbStart = w.start then 0 else g.rbRun }
          let s1 := w.buf.foldl (fun t o => perform t uid o drainName) (setGrp s g1)
          let s2 := oneBump s s1
          let free := w.valid.filter fun h => !posting s2 h.1 (4096 * h.2)
          let host := hostState s2 2 lines
          let s3 : State := { host with drains := s2.drains ++ lines.map fun l => { group := uid, line := l },
                                        bad := s2.bad.filter fun d => match d with | .ckpt u st _ _ => !(u = uid && st = w.start) | _ => true,
                                        outbox := s2.outbox ++ free.map fun h => .release h.1 h.2 }
          (grantAll s3 (g.core + 1) lines, .done)

/-- Every uncommitted window of a group commits, as COMMIT does (R256): the executing one closes at once. -/
def commitAll (s : State) (uid : Nat) : State × Commit :=
  match grpOf s uid with
  | none => (s, .done)
  | some g =>
    match g.wins with
    | [] => (s, .done)
    | [_] => commitOldest s uid
    | _ => match commitOldest (setGrp s { g with wins := g.wins.map fun w => { w with closed := true } }) uid with
      | (s1, .done) => commitOldest s1 uid
      | r => r

/-! Opening. -/

/-- How a memory instruction of a group proceeds (R237, R255). -/
inductive MemMode where
  | window | direct | wait
  deriving DecidableEq, Repr

/-- Whether a group is in SOLO mode: its count is not spent (R255). -/
def soloOn (g : Grp) : Bool := match g.solo with | some n => n != 0 | none => false

/-- An empty window that starts at a group's state. -/
def newWin (g : Grp) (start : Nat) : Window :=
  { start := start, snap := g.g, buf := [], reads := [], grans := [], remote := [], asked := [], valid := [], xl := [], count := 1,
    closed := false, hit := false, ckpt := [], qOld := [], lastLoad := 0 }

/-- Marks the executing window closed. -/
def closeWins (ws : List Window) : List Window := ws.map fun w => { w with closed := true }

/-- Enters a memory instruction: it counts in the executing window, opens one, goes outside windows in SOLO mode, or
waits while a closed window waits behind an older one. -/
def openWin (s : State) (g : Grp) : State × Grp × MemMode :=
  if soloOn g then (s, g, .direct)
  else
    let fresh (s : State) (ws : List Window) : State × Grp × MemMode :=
      if ws.length ≥ 2 then (s, { g with wins := ws }, .wait)
      else if g.rbNext != 0 then (s, { g with wins := ws ++ [newWin g g.rbNext], rbNext := 0 }, .window)
      else ({ s with uid := s.uid + 1 }, { g with wins := ws ++ [newWin g s.uid] }, .window)
    match g.wins.reverse with
    | [] => fresh s []
    | w :: older =>
      if w.closed then fresh s g.wins
      else if w.count ≥ 64 then fresh s (closeWins g.wins)
      else (s, { g with wins := (({ w with count := w.count + 1 }) :: older).reverse }, .window)

/-- Changes the executing window. -/
def modExec (g : Grp) (f : Window → Window) : Grp :=
  match g.wins.reverse with
  | [] => g
  | w :: older => { g with wins := (f w :: older).reverse }

/-- Buffers an operation in the executing window, or performs it at once outside windows. -/
def emit (s : State) (uid : Nat) (mode : MemMode) (o : BufOp) : State :=
  match mode with
  | .window => modGrp s uid fun g => modExec g fun w => { w with buf := w.buf ++ [o] }
  | _ => perform s uid o

/-- Notes lines that a load of the window has read (R245). -/
def noteReads (s : State) (uid : Nat) (mode : MemMode) (lines : List Loc) : State :=
  match mode with
  | .window => modGrp s uid fun g => modExec g fun w => { w with reads := (lines ++ w.reads).eraseDups }
  | _ => s

/-! Checkpoints (R239). -/

/-- Checkpoint entries in use on a core. -/
def ckptUsed (s : State) (core : Nat) : Nat :=
  ((s.grps.filter fun g => g.core = core && g.live).flatMap fun g => g.wins.flatMap (·.ckpt)).length

/-- The entries that an instruction needs which writes these v registers and, by their checkpoint names, q registers. -/
def ckptNeed (g : Grp) (names : List Nat) : Nat :=
  (g.wins.map fun w => (names.filter fun n => !w.ckpt.contains n && (n ≥ 256 || !vDead g.g n)).length).foldl (· + ·) 0

/-- Takes the checkpoint entries of v registers; none when the pool has no room and the instruction waits, with the
executing window closed. -/
def takeCkpt (s : State) (g : Grp) (vs qs : List Nat) : Option Grp :=
  if ckptUsed s g.core + ckptNeed g (vs ++ qs) ≤ 256 then
    some { g with wins := (vs.filter fun n => !vDead g.g n).foldl (fun ws n => keepOld ws n []) g.wins }
  else none

end Sys2Proof.Machine
end

