-- ==== Sys2Proof/Machine/Ops.lean ====
section
/-! DEFINITION. How an instruction of a group ends, taking a trap and returning from one (spec/15_traps_contexts.md R411 to
R415; spec/03_scalar_stream.md R81 to R84, R95), and the free schedule (log 7). -/

namespace Sys2Proof

/-- Which agent moves next when no turn is listed (log 7). -/
opaque Config.freeTurn : Nat → Machine.Turn

namespace Machine

/-! Taking a trap. -/

/-- Where a trap is taken (R411): a scalar word, a lane instruction of a block, or a joining instruction that reports the
stop of the operation `op` (R345). -/
structure TrapAt where
  lane : Bool
  engine : Bool
  matrix : Bool
  op : Nat
  w1 : Word
  w2 : Word
  w3 : Word
  pc : Nat
  ix : Nat

/-- Word 0 of the fault record (R411). -/
def recWord0 (t : TrapInfo) (w : TrapAt) (split : Nat) : Word :=
  BitVec.ofNat 32 (t.kind % 256 + t.detail % 256 * 2 ^ 8 + t.access % 16 * 2 ^ 16 + t.home.toNat * 2 ^ 20 + w.lane.toNat * 2 ^ 21
    + w.engine.toNat * 2 ^ 22 + t.cap.tag.toNat * 2 ^ 23 + t.missing % 16 * 2 ^ 24 + split % 4 * 2 ^ 28)

/-- The fault record (R411). -/
def faultRecord (t : TrapInfo) (w : TrapAt) (split : Nat) : List Word :=
  [recWord0 t w split, w.w1, w.w2, w.w3, beat t.mask 0, beat t.mask 1, beat t.mask 2, beat t.undone 0, beat t.undone 1,
   beat t.undone 2, lo32 t.addr, hi32 t.addr, capWord t.cap 0, capWord t.cap 1, capWord t.cap 2, capWord t.cap 3,
   t.w16, t.w17, t.w18, lo32 w.pc, hi32 w.pc, BitVec.ofNat 32 (w.ix % 32)]

/-- Whether a group has a handler that may take the trap (R414). -/
def handled (s : State) (g : Grp) (t : TrapInfo) : Bool :=
  g.frame.isNone && !(t.kind = kIllegal && t.detail = 10) &&
  (match lnchBy s g.launch with | some l => l.hPcc.tag | none => false)

/-- Entry of split idx into the handler, once every window has committed (R413 steps 3 to 5). -/
def enterHandler (s : State) (g : Grp) (idx : Nat) (t : TrapInfo) (w : TrapAt) : State :=
  match lnchBy s g.launch, g.g.split idx with
  | some l, some x =>
    let block := if w.lane then g.g.laneQ.head? else none
    let rest := if w.lane then g.g.laneQ.drop 1 else g.g.laneQ
    let word0 := recWord0 t w idx
    let fr : TrapFrame :=
      { split := idx, s := x.s, act := x.act, c := x.c, pcc := x.pcc, lcc := x.lcc, block := block,
        aside := rest.filter (fun b => b.split = idx), kind := t.kind, engine := w.engine, matrix := w.matrix, op := w.op,
        parked := (g.g.splits.filter fun y => y.idx != idx).map fun y => (y.idx, y.st) }
    let m := if w.lane || w.engine then x.act &&& t.mask else x.act
    let y : Split := { x with act := m, withheld := x.act &&& ~~~m, pcc := l.hPcc, lcc := l.hLcc, s := aset 0 x.s 1 word0,
                              c := aset capNull (aset capNull x.c 28 l.hData) 29 l.hMap, noWatch := false }
    let splits := g.g.splits.map fun z => if z.idx = idx then y else { z with st := .handler }
    dropAns (setGrp s { g with g := { g.g with splits := splits, laneQ := rest.filter (fun b => b.split != idx) },
                               frec := faultRecord t w idx, recTag := t.cap.tag, frame := some fr, integ := none }) g.uid
  | _, _ => s

/-- An unhandled trap: the gang ends and an event of kind 7 is raised (R414). -/
def unhandled (s : State) (g : Grp) (idx : Nat) (t : TrapInfo) (w : TrapAt) : State :=
  let r := faultRecord t w idx
  let at_ (k : Nat) : List Byte := leBytes 4 (r.getD k 0).toNat
  discardOf (raiseEvent s 7 (pcidOf s g.launch) 0 (at_ 0 ++ at_ 1 ++ at_ 10 ++ at_ 11 ++ at_ 19 ++ at_ 20)) g

/-- The lifetime counters that a trap advances (R436). -/
def trapLife (s : State) (t : TrapInfo) : State :=
  if t.kind = kSpoiled then lifeInc s 1 else if t.kind = kIntegrity then lifeInc s 3 else s

/-- A trap of split idx of a group is taken: the windows commit first; a rollback abandons the entry, and a commit that has
to wait leaves the instruction to be tried again (R413, R414). -/
def takeTrap (s : State) (uid idx : Nat) (t : TrapInfo) (w : TrapAt) : State :=
  match commitAll s uid with
  | (s1, .done) =>
    match grpOf s1 uid with
    | none => s1
    | some g => let s2 := trapLife s1 t
                if handled s2 g t then enterHandler s2 g idx t w else unhandled s2 g idx t w
  | (s1, _) => s1

/-! Scalar instructions. -/

/-- How a scalar instruction ends. -/
inductive Fin where
  /-- It retires: scalar writes in order, and the PCC it continues with (none: the next word). -/
  | ret (s : State) (ws : List (Nat × Word)) (pcc : Option Cap)
  /-- It is not finished and executes again. -/
  | again (s : State)
  /-- It has left its split in the state it asks for. -/
  | gone (s : State)
  /-- It traps. -/
  | trap (s : State) (t : TrapInfo)
  /-- It takes the stop of an engine operation (R345, R364, R318). -/
  | stop (s : State) (t : TrapInfo) (matrix : Bool) (op : Nat) (w1 w2 w3 : Word)

/-- The live split that a scalar instruction belongs to. -/
def actorSplit (s : State) : Option (Grp × Split) :=
  match s.actor with
  | .split core slot idx _ => match actorGrp s core slot with
    | some g => match g.g.split idx with
      | some x => if x.st = .ready then some (g, x) else none
      | none => none
    | none => none
  | _ => none

/-- The scalar word that the actor executes. -/
def actorWord (s : State) : Word := match s.actor with | .split _ _ _ w => w | _ => 0

/-- The order of R83: the split that retires becomes the one that issued most recently. -/
def stampSplit (g : GCore) (idx : Nat) : GCore :=
  g.modSplit idx fun x => { x with issued := 1 + g.splits.foldl (fun m y => max m y.issued) 0, noWatch := false }

/-- One instruction of a group counts in its SOLO mode (R255). -/
def tickSolo (g : Grp) : Grp := { g with solo := g.solo.map (· - 1) }

/-- PCC at the next word. -/
def nextPcc (x : Split) : Cap := withAddr x.pcc (x.pc + 4)

/-- The end of a scalar instruction of split idx of group uid, whose state before it was s0. A write that would claim a
lane another split's queued block is still to write makes the instruction wait (R81). -/
def finish (s0 : State) (uid idx : Nat) : Fin → State
  | .again s => s
  | .gone s => s
  | .trap s t =>
    match grpOf s uid with
    | none => s
    | some g => match g.g.split idx with
      | none => s
      | some x => takeTrap s uid idx { t with mask := x.act, undone := x.act }
          { lane := false, engine := false, matrix := false, op := 0, w1 := actorWord s0, w2 := 0, w3 := 0, pc := x.pc, ix := 0 }
  | .stop s t mat op w1 w2 w3 =>
    match grpOf s uid with
    | none => s
    | some g => match g.g.split idx with
      | none => s
      | some x =>
        let m := if mat then allLanes else x.act
        takeTrap s uid idx { t with mask := m, undone := m }
          { lane := false, engine := true, matrix := mat, op := op, w1 := w1, w2 := w2, w3 := w3, pc := x.pc, ix := 0 }
  | .ret s ws pcc =>
    match grpOf s uid with
    | none => s
    | some g =>
      let c := g.g.sSets idx ws
      if g.g.claimWaits c idx then s0
      else
        let c1 := c.modSplit idx fun x => { x with pcc := pcc.getD (nextPcc x) }
        setGrp s (tickSolo { g with g := stampSplit c1 idx })

/-- A scalar instruction: `f` gives its effect on the issuing group and split. -/
def scalarStep (s : State) (f : Grp → Split → Fin) : Host.Outcome State Fault Refusal :=
  match actorSplit s with
  | none => .fault .noActor
  | some (g, x) => .next (finish s g.uid x.idx (f g x))

/-- Whether a group has multicast engine threads that are not performed (R273). -/
def mcastBusy (s : State) (uid : Nat) : Bool := s.fab.mcThreads.any fun m => m.group = uid

/-- An irrevocable scalar instruction: ILLEGAL code 11 in an idempotent region, else every window commits first and the multicast
engine threads are joined (R241, R273, R429). Outside its region a group in its handler is not restricted. -/
def irrevocable (s : State) (g : Grp) (x : Split) (f : State → Grp → Split → Fin) : Fin :=
  if g.region.isSome && g.frame.isNone then .trap s { kind := kIllegal, detail := 11 }
  else match commitAll s g.uid with
    | (s1, .done) =>
      if mcastBusy s1 g.uid then .again s1
      else match grpOf s1 g.uid with
        | some g1 => match g1.g.split x.idx with
          | some x1 => f s1 g1 x1
          | none => .again s1
        | none => .again s1
    | (s1, _) => .again s1

/-- As `irrevocable`, without the check of the region: COMMIT, EXIT, WAITPH and the like. -/
def committed (s : State) (g : Grp) (x : Split) (f : State → Grp → Split → Fin) : Fin :=
  match commitAll s g.uid with
  | (s1, .done) => match grpOf s1 g.uid with
    | some g1 => match g1.g.split x.idx with
      | some x1 => f s1 g1 x1
      | none => .again s1
    | none => .again s1
  | (s1, _) => .again s1

/-- A trap of a scalar instruction by kind and detail only. -/
def illegal (s : State) (code : Nat) : Fin := .trap s { kind := kIllegal, detail := code }

/-- A privileged instruction needs SYS on the PCC, or CAPFAULT detail 3 with the PCC in the record (R431). -/
def needSys (s : State) (x : Split) (k : Fin) : Fin :=
  if cHas x.pcc pSYS then k else .trap s (capFault x.pcc 3 0 0 pSYS)

/-! MERGE (R95). -/

/-- The release of parked splits: when every live split is parked at a MERGE, those at the lowest address are combined
under the lowest index among them and continue at the next word. A split that a trap entry has parked is live and not parked at a MERGE
here, so a MERGE in a handler is not released while there is one: DESIGN CHOICE (log 76). -/
def mergeRelease (g : GCore) : GCore :=
  if g.splits.isEmpty || !(g.splits.all fun x => x.st = .merge) then g
  else
    let low := g.splits.foldl (fun m x => min m x.pc) (g.splits.headD default).pc
    let here := g.splits.filter fun x => x.pc = low
    let keep := here.foldl (fun m x => min m x.idx) (here.headD default).idx
    let act := here.foldl (fun m x => m ||| x.act) (0 : LaneMask)
    let held := here.foldl (fun m x => m ||| x.withheld) (0 : LaneMask)
    { g with splits := (g.splits.filter fun x => x.pc != low || x.idx = keep).map fun x =>
        if x.idx = keep && x.pc = low then { x with act := act, withheld := held, st := .ready, pcc := nextPcc x } else x }

/-! Return from a trap (R415). -/

/-- The stopped operation of a frame goes on at its failing element, command or step; a tensor copy operation takes a place
in progress again, on the core that now holds the group (R344, R347). -/
def resumeOp (s : State) (g : Grp) (f : TrapFrame) : State :=
  if f.matrix then modMat s g.wg (matPos s g) fun c => { c with stopped := false, pending := none }
  else
    { s with tces := updWhere (fun o => o.uid = f.op && o.st = .stopped) (fun o => { o with st := .queued, stop := none, core := g.core }) s.tces,
             ces := updWhere (fun l => l.uid = f.op && l.st = .stopped) (fun l => { l with st := .running, stop := none, cmds := l.cmds.map fun c => { c with stop := none } }) s.ces }

/-- MJOIN.drop on a context (R326). -/
def matDrop (c : MatCtx) : MatCtx := { c with run := none, queue := [], step := 0, stopped := false, pending := none }

/-- The stopped operations of a frame end as TSTAT.drop, CESTAT.drop or MJOIN.drop gives. -/
def endOp (s : State) (g : Grp) (f : TrapFrame) : State :=
  if f.matrix then modMat s g.wg (matPos s g) matDrop
  else if s.tces.any fun o => o.uid = f.op then dropTces s g.uid
  else dropCes s g.uid

/-- The group state after TRET: `start b` is the first instruction of the chain run of block b that holds its next instruction, if
one does, and `kills b` the last-use marks that take effect when that instruction is past (R50, R59, R415). -/
def tretCore (g : GCore) (f : TrapFrame) (cur : Nat) (skip keepS1 : Bool) (start : LaneBlock → Option Nat) (kills : LaneBlock → List Nat) :
    GCore :=
  let watch : Bool := f.kind = kWatch && !skip
  let s1 := match g.split cur with | some x => aget 0 x.s 1 | none => 0
  let scalarI : Bool := f.block.isNone && !f.engine
  let past : Bool := scalarI && (skip || f.kind = kSoftware)
  let back (x : Split) : Split :=
    { x with idx := f.split, s := if keepS1 then aset 0 f.s 1 s1 else f.s, act := f.act, withheld := 0, c := f.c,
             pcc := if past then withAddr f.pcc (cAddr f.pcc + 4) else f.pcc, lcc := f.lcc, st := .ready,
             noWatch := watch && f.block.isNone }
  let blk := match f.block with
    | none => []
    | some b =>
      if f.engine then [{ b with todo := none }]
      else if skip then (if b.next + 1 < b.words.length then [{ b with next := b.next + 1, todo := none, pre := none }] else [])
      else match start b with
        | some n => [{ b with next := n, todo := none, noWatch := watch, pre := none }]
        | none => [{ b with noWatch := watch }]
  let killed := match f.block with
    | some b => if skip && !f.engine then (kills b).foldl vKill g else g
    | none => g
  { killed with
    splits := g.splits.map (fun x =>
      if x.idx = cur then back x
      else match f.parked.find? fun p => p.1 = x.idx with | some p => { x with st := p.2 } | none => x),
    laneQ := blk ++ f.aside ++ g.laneQ }

end Machine
end Sys2Proof
end

