-- ==== Sys2Proof/Machine/Operands.lean ====
section
/-! DEFINITION. The operands of lane instructions: special operands, constants, latch validity and chain runs
(spec/02_instruction_words.md R41, R42, R53 to R59; spec/05_lane_float.md R145, R146; spec/04_lane_integer.md R131). -/

namespace Sys2Proof.Machine

/-- The .f32 patterns of the special operands 128 to 159 (R145). -/
def constF32 : List Nat :=
   [0x00000000, 0x80000000, 0x3F000000, 0xBF000000, 0x3F800000, 0xBF800000, 0x40000000, 0xC0000000, 0x40800000,
    0xC0800000, 0x3EA2F983, 0x3F317218, 0x40490FDB, 0x40C90FDB, 0x3FC90FDB, 0x3FB8AA3B, 0x40549A78, 0x3E9A209B,
    0x402DF854, 0x3FB504F3, 0x3F3504F3, 0x7F800000, 0xFF800000, 0x7FC00000, 0x7F7FFFFF, 0x00800000, 0x40400000,
    0x41200000, 0x3DCCCCCD, 0x43E00000, 0x47600000, 0x40C00000]

/-- Their values rounded to .f64 (R146). -/
def constF64 : List Nat :=
   [0x0000000000000000, 0x8000000000000000, 0x3FE0000000000000, 0xBFE0000000000000, 0x3FF0000000000000,
    0xBFF0000000000000, 0x4000000000000000, 0xC000000000000000, 0x4010000000000000, 0xC010000000000000,
    0x3FD45F306DC9C883, 0x3FE62E42FEFA39EF, 0x400921FB54442D18, 0x401921FB54442D18, 0x3FF921FB54442D18,
    0x3FF71547652B82FE, 0x400A934F0979A371, 0x3FD34413509F79FF, 0x4005BF0A8B145769, 0x3FF6A09E667F3BCD,
    0x3FE6A09E667F3BCD, 0x7FF0000000000000, 0xFFF0000000000000, 0x7FF8000000000000, 0x47EFFFFFE0000000,
    0x3810000000000000, 0x4008000000000000, 0x4024000000000000, 0x3FB999999999999A, 0x407C000000000000,
    0x40EC000000000000, 0x4018000000000000]
/-- The special operand idx (128 to 191) as .f64 and as .f32 (R145, R146). -/
def const64 (idx : Nat) : Nat := if idx < 160 then constF64.getD (idx - 128) 0 else (1023 + idx - 176) * 2 ^ 52
def const32 (idx : Nat) : Nat := if idx < 160 then constF32.getD (idx - 128) 0 else (127 + idx - 176) * 2 ^ 23

/-- A constant rounded to a 16-bit format and placed in both slots (R146). -/
def constPk (F : Fmt) (idx : Nat) : Word :=
  let x := (convFF fmt64 F .rne false false false (const64 idx)).1
  BitVec.ofNat 32 (x + x * 2 ^ 16)

/-- A special operand that is a constant. -/
def isConst : Src → Bool
  | .special n => 128 ≤ n.toNat && n.toNat ≤ 191
  | _ => false

/-- The lane that a thread was placed in (R31, R102). -/
def laneHome (g : Grp) (l : Nat) : Nat :=
  match g.g.compact with
  | some r => match r.s.idxOf? l with | some i => r.h.getD i l | none => l
  | none => l

/-- GROUPIDX of the thread in a lane (R102): a moved thread keeps its partner's. -/
def laneGidx (g : Grp) (l : Nat) : Nat :=
  match g.g.compact with
  | some r => if r.s.contains l then g.gidx + 1 else g.gidx
  | none => g.gidx

/-- The split that holds a lane. -/
def laneSplit (g : Grp) (l : Nat) : Nat := match g.g.splits.find? fun x => lane x.act l with | some x => x.idx | none => 0

/-- WGID and GANGID of a group (R31); 0 in a task (R300). -/
def wgidOf (s : State) (g : Grp) : Nat := match wgBy s g.wg with | some w => w.wgid | none => 0
def gangidOf (s : State) (g : Grp) : Nat := match gangBy s g.gang with | some w => w.gangid | none => 0

/-- An identity register of R31, by its code in SMOV (R110). -/
def identReg (s : State) (g : Grp) (code : Nat) : Word :=
  match code with
  | 0 => BitVec.ofNat 32 g.gidx
  | 1 => BitVec.ofNat 32 (wgidOf s g)
  | 2 => BitVec.ofNat 32 (gangidOf s g)
  | 3 => BitVec.ofNat 32 g.core
  | 4 => BitVec.ofNat 32 (g.core / 8)
  | 5 => BitVec.ofNat 32 (g.core / 72)
  | 6 => s.fab.node.zeroExtend 32
  | _ => s.fab.incarn

/-- The value of a scalar register as a block holds it (R42). -/
def blockS (b : LaneBlock) (r : Nat) : Word := if r = 0 then 0 else if r ≥ 61 then beat b.mask (r - 61) else aget 0 b.s r

/-- A special operand in every lane (R42). -/
def specialRow (s : State) (g : Grp) (b : LaneBlock) (idx : Nat) : Row :=
  if idx < 64 then rowOf (blockS b idx)
  else if idx < 128 then rowOf (wrapI ((idx : Int) - 96))
  else if idx < 192 then rowOf (BitVec.ofNat 32 (const32 idx))
  else match idx with
    | 192 => rowFn fun l => BitVec.ofNat 32 l
    | 193 => rowFn fun l => BitVec.ofNat 32 (laneHome g l)
    | 194 => rowFn fun l => BitVec.ofNat 32 (laneGidx g l)
    | 202 => rowFn fun l => BitVec.ofNat 32 (laneSplit g l)
    | 203 => rowFn fun l => BitVec.ofNat 32 (laneGidx g l * 96 + laneHome g l)
    | i => rowOf (identReg s g (i - 194))

/-! Latches (R53 to R57). -/

/-- The encoding of a lane word. -/
def specOf (r : RawLane) : Option LaneSpec := laneSpec r.op.toNat r.mods.toNat r.imods.toNat

/-- The sources of a lane word with their kinds; an I-form has no source C (R44). -/
def rawSources (r : RawLane) : List (SKind × RawSrc) :=
  match specOf r with
  | none => []
  | some p => if p.iform then [(p.a, r.a)] else [(p.a, r.a), (p.b, r.b), (p.c, r.c)]

/-- Whether a lane word is a memory or a matrix instruction (R54). -/
def endsChains (r : RawLane) : Bool :=
  let o := r.op.toNat
  (0x240 ≤ o && o ≤ 0x24F) || (0x2C0 ≤ o && o ≤ 0x2C9)

/-- A chain: the latch, its write and its last valid read (R55); `cut` is 1 plus the first
instruction whose read carried the last bit, or 0. -/
structure Chain where
  lat : Nat
  lo : Nat
  hi : Nat
  cut : Nat
  deriving DecidableEq, Repr, Inhabited

/-- The run that contains a span: the chains that share an instruction with it, joined (R55). -/
def spanRun (cs : List Chain) : Nat → Nat × Nat → Nat × Nat
  | 0, p => p
  | n + 1, p =>
    let q := cs.foldl (fun (lo, hi) c => if c.lo ≤ hi && lo ≤ c.hi then (min lo c.lo, max hi c.hi) else (lo, hi)) p
    if q = p then p else spanRun cs n q

/-- One read of latch L at instruction j: whether it is valid, and the chains after it; `m` is the last memory or matrix
instruction at or before j, plus 1 (R54). -/
def readLatch (cs : List Chain) (m j L : Nat) (last : Bool) : List Chain × Bool :=
  match cs.reverse.find? fun c => c.lat = L with
  | none => (cs, false)
  | some c =>
    let fresh := cs.filter fun d => !(d.lat = L && d.lo = c.lo)
    let c' := { c with hi := max c.hi j }
    let run := spanRun (c' :: fresh) 16 (c'.lo, c'.hi)
    let ok : Bool := m ≤ c.lo && j - c.lo ≤ 7 && (c.cut = 0 || j < c.cut) && run.2 - run.1 ≤ 7
    (fresh ++ [{ (if ok then c' else c) with cut := if last && c.cut = 0 then j + 1 else c.cut }], ok)

/-- The scan of a block: the chains, and for each instruction the validity of its three latch reads (R54). -/
def latScan : List LaneWord → Nat → List Chain → Nat → List Chain × List (List Bool)
  | [], _, cs, _ => (cs, [])
  | w :: ws, j, cs, m =>
    let r := RawLane.ofWord w
    let m' := if endsChains r then j + 1 else m
    let (cs1, oks) := (rawSources r).foldl
      (fun (acc : List Chain × List Bool) (ks : SKind × RawSrc) =>
        if ks.1 != .none && ks.2.sel = 2 then
          let (c, ok) := readLatch acc.1 m' j ks.2.idx.toNat ks.2.last
          (c, acc.2 ++ [ok])
        else (acc.1, acc.2 ++ [false])) (cs, [])
    let cs2 := if r.lat.toNat ≥ 4 && (specOf r).isSome then cs1 ++ [{ lat := r.lat.toNat - 4, lo := j, hi := j, cut := 0 }] else cs1
    let (cf, rest) := latScan ws (j + 1) cs2 m'
    (cf, oks :: rest)

/-- The chain run that contains an instruction of a block (R55). -/
def runOf (ws : List LaneWord) (n : Nat) : Option (Nat × Nat) :=
  let cs := (latScan ws 0 [] 0).1
  match cs.find? fun c => c.lo ≤ n && n ≤ c.hi with
  | none => none
  | some c => some (spanRun cs 16 (c.lo, c.hi))

/-- Registers as numbers: v from 0, q from 1,000, k from 2,000. -/
def regsFrom (base n : Nat) : List Nat := upto base n

/-- The registers that an operand kind covers. -/
def kindLen : SKind → Nat
  | .pair | .pairVQ | .wide | .capAddr => 2
  | .quadData | .cap => 4
  | .tile => 128
  | _ => 1

/-- The v registers that the sources of a lane word mark as last used: every register of the source (R49, R186). -/
def lastUses (w : LaneWord) : List Nat :=
  (rawSources (RawLane.ofWord w)).flatMap fun (k, s) =>
    if k = .none || s.sel != 0 || !s.last then [] else regsFrom s.idx.toNat (kindLen k)

/-- The registers that a lane word reads (R57). -/
def readsOf (r : RawLane) : List Nat :=
  let srcs := (rawSources r).flatMap fun (k, s) =>
    if k = .none then [] else if s.sel = 0 then regsFrom s.idx.toNat (kindLen k) else if s.sel = 1 then regsFrom (1000 + s.idx.toNat) (kindLen k) else []
  let iform := match specOf r with | some p => p.iform | none => false
  srcs ++ (if iform then [] else [2000 + r.pred.toNat]) ++ (if r.op = 0x01C then [2000 + mfld r.mods.toNat 0 4] else [])

/-- The registers that a lane word writes. -/
def writesOf (r : RawLane) : List Nat :=
  match specOf r with
  | none => []
  | some p =>
    let n := match p.d with | .none => 0 | .pair | .pairM => 2 | .quadM | .cap => 4 | .tile => 128 | .run n => n | _ => 1
    if n = 0 || r.nowb then []
    else if r.dsel = 0 then regsFrom r.didx.toNat n
    else if r.dsel = 1 then regsFrom (1000 + r.didx.toNat) n
    else [2000 + r.didx.toNat]

/-- A linked NBR (R129). -/
def isLinked (r : RawLane) : Bool := r.op = 0x01F && mfld r.mods.toNat 1 2 != 1

/-- The chain-run hazards of R57 and R131. -/
def chainHazard (ws : List LaneWord) (n : Nat) : Bool :=
  match runOf ws n with
  | none => false
  | some (lo, _) =>
    let r := RawLane.ofWord (ws.getD n 0)
    let reads := (upto lo (n + 1 - lo)).flatMap fun i => readsOf (RawLane.ofWord (ws.getD i 0))
    isLinked r || (writesOf r).any reads.contains

/-- The ILLEGAL code of instruction n of a block; the lowest cause is recorded (R65). -/
def blockCode (alloc : Nat) (accs : Bool) (ws : List LaneWord) (n : Nat) : Option Nat :=
  match laneCode alloc accs (RawLane.ofWord (ws.getD n 0)) with
  | some c => some (if c > 6 && chainHazard ws n then 6 else c)
  | none => if chainHazard ws n then some 6 else none

end Sys2Proof.Machine
end

