-- ==== Sys2Proof/Machine/Lane.lean ====
section
/-! DEFINITION. How a lane instruction runs: its context, the joins with matrix operations, its outputs, its end
(spec/02_instruction_words.md R50 to R59; spec/11_matrix.md R303, R307, R308, R316; spec/15_traps_contexts.md R429). -/

namespace Sys2Proof.Machine

/-- A lane instruction in its block: the state, the group, the block, its index, its word and ACTIVE. -/
structure LX where
  s : State
  g : Grp
  b : LaneBlock
  n : Nat
  w : LaneWord
  act : LaneMask

/-- ACTIVE (R8, R44, R82): the block's mask, the predicate, and on a resumption the lanes still to do (R415). -/
def activeOf (g : Grp) (b : LaneBlock) (w : LaneWord) : LaneMask :=
  let r := RawLane.ofWord w
  let iform := match specOf r with | some p => p.iform | none => false
  let k := kGet g.g r.pred.toNat
  let p := if iform then allLanes else if r.neg then ~~~k else k
  b.mask &&& p &&& (match b.todo with | some m => m | none => allLanes)

/-- The lane instruction at the head of the slot's lane queue. -/
def actorLane (s : State) : Option LX :=
  match s.actor with
  | .lane core slot => match actorGrp s core slot with
    | some g => match g.g.laneQ.head? with
      | some b => match b.words[b.next]? with
        | some w => some { s := s, g := g, b := b, n := b.next, w := w, act := activeOf g b w }
        | none => none
      | none => none
    | none => none
  | _ => none

/-! Sources. -/

/-- A source read in every lane, and whether it read a dead register or an invalid latch (R51, R56). `pos` is 0, 1, 2 for
sources A, B and C. -/
def LX.src (x : LX) (pos : Nat) (c : Src) : Row × Bool :=
  match c with
  | .vreg n _ _ => (vGet x.g.g n.toNat, vDead x.g.g n.toNat)
  | .qreg n => (qGet x.s x.g n.toNat, false)
  | .latch n _ =>
    let ok := (((latScan x.b.words 0 [] 0).2.getD x.n []).getD pos false)
    if ok then (aget poisonRow x.b.lat n.toNat, false) else (poisonRow, true)
  | .special n => (specialRow x.s x.g x.b n.toNat, false)

/-- Register k of a multi-register source. -/
def LX.srcK (x : LX) (c : Src) (k : Nat) : Row × Bool :=
  match c with
  | .vreg n _ _ => (vGet x.g.g (n.toNat + k), vDead x.g.g (n.toNat + k))
  | .qreg n => (qGet x.s x.g (n.toNat + k), false)
  | .latch _ _ => (poisonRow, true)
  | .special n => (specialRow x.s x.g x.b (n.toNat + k), false)

/-- The poison bit of STATUS for reads. -/
def poisonBits (l : List Bool) : Word := if l.any id then stPOISON else 0

/-! Matrix operations as lane instructions see them. -/

/-- The number of A registers of a step is eight (R310); the v registers that an operation has still to read from step k,
when it reads its A slices from registers and scaling may apply. -/
def matReads (o : MatOp) (scaling : Bool) (sreg k : Nat) : List Nat :=
  match o.kind with
  | .steps =>
    let is := upto k (o.count - k)
    (is.flatMap fun i => upto (o.areg + i * o.stride) 8) ++ (if scaling then is.map fun i => sreg + i else [])
  | _ => []

/-- Whether scales apply to an operation of this type under a setting (R311, R322): the block formats. -/
def scales (setting : Nat) (t : Ty) : Bool :=
  setting != 0 && (match t with | .e4m3 | .e5m2 | .e3m2 | .e2m3 | .e2m1 => true | _ => false)

/-- The type of a step; the default is .bf16 (R309). -/
def stepTy (t : Ty) : Ty := if t = .dflt then .bf16 else t

/-- What the collector and the settings will be when later operations start (R316): the held type and steps, the scale
setting and its register. -/
structure MatView where
  held : Option (Ty × Nat)
  scale : Nat
  sreg : Nat
  deriving DecidableEq, Repr, Inhabited

/-- Whether an operation will take its A slices from the collector. -/
def fromColl (v : MatView) (o : MatOp) : Bool := o.kind = .steps && o.reuse && v.held.isSome

/-- The settings after one operation. -/
def viewStep (v : MatView) (o : MatOp) : MatView :=
  match o.kind with
  | .steps =>
    if !o.reuse then { v with held := none }
    else if v.held.isSome || o.count = 0 then v else { v with held := some (stepTy o.ty, o.count) }
  | .scale st r => { v with scale := st, sreg := r }
  | _ => v

/-- Steps that the collector of a context holds. -/
def collLen (c : MatCtx) : Nat := match c.coll with | some k => k.slices.length | none => 0

/-- The collector and settings of a context now. -/
def ctxNow (c : MatCtx) : MatView := { held := c.coll.map fun k => (k.ty, k.slices.length), scale := c.scale, sreg := c.sreg }

/-- Whether the running operation takes its next slice from the collector. -/
def runFromColl (c : MatCtx) (o : MatOp) : Bool := o.kind = .steps && o.reuse && c.step < collLen c

/-- The settings of a context as its running operation will leave them. -/
def ctxView (c : MatCtx) : MatView :=
  match c.run with
  | none => ctxNow c
  | some o =>
    if o.kind = .steps && o.reuse then (if runFromColl c o || o.count = 0 then ctxNow c else { ctxNow c with held := some (stepTy o.ty, o.count) })
    else viewStep (ctxNow c) o

/-- The operations that a group has buffered, in order. -/
def matBuffered (g : Grp) : List MatOp := (bufOf g).filterMap fun o => match o with | .mat m => some m | _ => none

/-- Operations of a context that have not ended, each with the step it stands at, whether the collector serves it, and the
settings it runs under. -/
def matPending (c : MatCtx) (g : Grp) : List (MatOp × Nat × Bool × MatView) :=
  let run := match c.run with | some o => [(o, c.step, runFromColl c o, ctxNow c)] | none => []
  let rest := (c.queue ++ matBuffered g).foldl (fun (acc : List (MatOp × Nat × Bool × MatView) × MatView) o =>
    (acc.1 ++ [(o, 0, fromColl acc.2 o, acc.2)], viewStep acc.2 o)) ([], ctxView c)
  run ++ rest.1

/-- The v registers that unended operations have still to read (R308). -/
def matVRegs (s : State) (g : Grp) : List Nat :=
  (matPending (matOf s g) g).flatMap fun (o, k, coll, v) =>
    if coll then [] else matReads o (scales v.scale (stepTy o.ty)) v.sreg k

/-- The tile that an operation writes. -/
def matTile (o : MatOp) : Option Nat := match o.kind with | .steps | .zero | .load => some o.tile | _ => none

/-- Whether an operation writes one of these q registers; `none` asks for every operation. -/
def matTouches (qs : Option (List Nat)) (o : MatOp) : Bool :=
  match qs, matTile o with
  | none, _ => true
  | some l, some t => l.any fun q => t ≤ q && q < t + 128
  | some _, none => false

/-- What a join finds (R307, R318): nothing to wait for, a wait (with the executing window closed when the operation is
still buffered), or the stop of the running operation. -/
inductive Join where
  | free | wait (s : State) | stop (r : StopRec) (o : MatOp)

/-- A join of a group with the operations that write these q registers, or with all. -/
def joinMat (s : State) (g : Grp) (qs : Option (List Nat)) : Join :=
  let c := matOf s g
  if (matBuffered g).any (matTouches qs) then .wait (setGrp s { g with wins := closeWins g.wins })
  else if !((c.run.toList ++ c.queue).any (matTouches qs)) then .free
  else match c.stopped, c.pending, c.run with
    | true, some r, some o => .stop r o
    | _, _, _ => .wait s

/-- The trap of a matrix stop (R318). -/
def matStopTrap (r : StopRec) : TrapInfo :=
  { kind := r.kind, detail := r.detail, access := r.access, home := r.home, cap := r.cap, missing := r.missing, addr := r.addr, mask := allLanes,
    undone := allLanes, w16 := r.w16, w17 := r.w17, w18 := r.w18 }

/-! Outputs. -/

/-- What a lane instruction writes, in the lanes of m. -/
structure LOut where
  m : LaneMask
  v : List (Nat × Row) := []
  q : List (Nat × Row) := []
  k : Option (Nat × LaneMask) := none
  cap : Option (Nat × (Nat → Cap)) := none
  lat : Option (Nat × Row) := none
  stick : Word := 0

/-- How a lane instruction ends. -/
inductive LFin where
  /-- It retires with its outputs. -/
  | ret (s : State) (o : LOut)
  /-- It is not finished and executes again; the lanes of o.m are done, the lanes of `todo` are left. -/
  | more (s : State) (o : LOut) (todo : LaneMask)
  /-- It is not finished; some events of its lowest lane left are done. -/
  | part (s : State) (p : Part)
  /-- It waits with nothing done. -/
  | again (s : State)
  /-- It traps: the lanes of o.m are done; the fault mask and the lanes not done are in the trap. -/
  | trap (s : State) (o : LOut) (t : TrapInfo)
  /-- It takes the stop of a matrix operation that it joins. -/
  | stop (s : State) (r : StopRec) (o : MatOp)
  /-- It has left the group in the state it asks for. -/
  | gone (s : State)

/-- The outputs written: v registers, k registers, capability quads and STATUS in the group; q registers in the context. -/
def LOut.core (o : LOut) (g : GCore) : GCore :=
  let g1 := o.v.foldl (fun a (p : Nat × Row) => vSet a p.1 o.m p.2) g
  let g2 := match o.cap with | some (n, f) => quadSet g1 n o.m f | none => g1
  let g3 := match o.k with | some (n, k) => kSet g2 n o.m k | none => g2
  g3.stick o.stick

/-- The block after a latch write (R53): poison outside the lanes written. -/
def LOut.latch (o : LOut) (b : LaneBlock) : LaneBlock :=
  match o.lat with
  | some (n, r) => { b with lat := aset poisonRow b.lat n (mergeRow o.m r poisonRow) }
  | none => b

/-- The last-use marks that take effect when instruction n of a block retires: its own, or at the end of a chain run those
of the whole run (R50). -/
def killsAt (ws : List LaneWord) (n : Nat) : List Nat :=
  match runOf ws n with
  | none => lastUses (ws.getD n 0)
  | some (lo, hi) => if n = hi then (upto lo (hi + 1 - lo)).flatMap fun i => lastUses (ws.getD i 0) else []

/-- The registers as they stand before instruction n of block b, where a chain run of more than one instruction starts there (R59). -/
def runStart (s : State) (g : Grp) (b : LaneBlock) (n : Nat) : Option RunPre :=
  match runOf b.words n with
  | some (lo, hi) =>
    if n != lo || lo = hi then b.pre
    else
      let ws := ((upto lo (hi + 1 - lo)).flatMap fun i => writesOf (RawLane.ofWord (b.words.getD i 0))).eraseDups
      let vs := ((ws.filter (· < 1000)) ++ (upto lo (hi + 1 - lo)).flatMap fun i => lastUses (b.words.getD i 0)).eraseDups
      some { v := vs.map fun r => (r, aget zeroRow g.g.v r, vDead g.g r), quads := ((vs.map (· / 4)).eraseDups).map fun q => (q, aget 0 g.g.qtags q),
             k := (ws.filter (2000 ≤ ·)).map fun r => (r - 2000, aget 0 g.g.k (r - 2000)),
             q := (ws.filter fun r => 1000 ≤ r && r < 2000).map fun r => (r - 1000, qGet s g (r - 1000)), stick := 0 }
  | none => none

/-- The record of a chain run after its instruction n has retired; none once its last has (R58). -/
def runNext (s : State) (g : Grp) (b : LaneBlock) (n : Nat) (stick : Word) : Option RunPre :=
  match runOf b.words n with
  | some (_, hi) => if n = hi then none else (runStart s g b n).map fun p => { p with stick := p.stick ||| (stick &&& ~~~ g.g.status) }
  | none => none

/-- The group as it stood before a chain run (R59). -/
def RunPre.back (p : RunPre) (g : GCore) : GCore :=
  let g1 := p.v.foldl (fun a r =>
    { a with v := aset zeroRow a.v r.1 r.2.1,
             dead := if r.2.2 then a.dead ||| BitVec.ofNat 256 (2 ^ r.1) else a.dead &&& ~~~ (BitVec.ofNat 256 (2 ^ r.1)) }) g
  { g1 with qtags := p.quads.foldl (fun t e => aset 0 t e.1 e.2) g1.qtags, k := p.k.foldl (fun t e => aset 0 t e.1 e.2) g1.k,
            status := g1.status &&& ~~~ p.stick }

/-- The state after the q writes of an output. -/
def LOut.qs (o : LOut) (s : State) (g : Grp) : State :=
  o.q.foldl (fun t (p : Nat × Row) => match grpOf t g.uid with | some h => qSet t h p.1 o.m p.2 | none => t) s

/-- Replaces the head of the lane queue. -/
def setHead (g : GCore) (b : LaneBlock) : GCore := { g with laneQ := b :: g.laneQ.drop 1 }

/-- The lane queue after instruction n of its head block has retired. -/
def advanceLane (g : GCore) (b : LaneBlock) (n : Nat) : GCore :=
  if n + 1 < b.words.length then setHead g { b with next := n + 1, todo := none, noWatch := false, part := none } else { g with laneQ := g.laneQ.drop 1 }

/-- The registers that an output writes hold good values again (R410). -/
def LOut.mend (o : LOut) (s : State) (g : Grp) : State :=
  mendRegs s g o.m ((o.v.map (·.1)) ++ (o.q.map (1000 + ·.1)) ++ (match o.cap with | some (n, _) => upto n 4 | none => []))

/-- The state after the q writes of an output, with what it writes repaired. -/
def LOut.begin (o : LOut) (s : State) (g : Grp) : State := o.mend (o.qs s g) g

/-- The end of a lane instruction. -/
def finishLane (x : LX) : LFin → State
  | .again s => s
  | .gone s => s
  | .ret s o =>
    match grpOf (o.begin s x.g) x.g.uid with
    | none => s
    | some g =>
      let c := o.core ((killsAt x.b.words x.n).foldl vKill g.g)
      setGrp (o.begin s x.g) (tickSolo { g with g := advanceLane c { o.latch x.b with pre := runNext x.s x.g x.b x.n o.stick } x.n })
  | .more s o todo =>
    match grpOf (o.begin s x.g) x.g.uid with
    | none => s
    | some g => setGrp (o.begin s x.g) { g with g := setHead (o.core g.g) { x.b with todo := some todo, part := some { lane := 96, got := [], done := 0 } } }
  | .part s p => modGrp s x.g.uid fun g => { g with g := setHead g.g { x.b with part := some p } }
  | .trap s o t =>
    match grpOf (o.begin s x.g) x.g.uid with
    | none => s
    | some g =>
      let c := if o.m = 0 then g.g else o.core g.g
      let s1 := setGrp (o.begin s x.g) { g with g := setHead c { x.b with todo := some t.undone, pre := none, part := none } }
      takeTrap s1 x.g.uid x.b.split t
        { lane := true, engine := false, matrix := false, op := 0, w1 := x.w.extractLsb' 0 32, w2 := x.w.extractLsb' 32 32,
          w3 := x.w.extractLsb' 64 32, pc := x.b.pc, ix := x.n }
  | .stop s r o =>
    takeTrap s x.g.uid x.b.split (matStopTrap r)
      { lane := true, engine := true, matrix := true, op := 0, w1 := o.word.extractLsb' 0 32, w2 := o.word.extractLsb' 32 32,
        w3 := o.word.extractLsb' 64 32, pc := x.b.pc, ix := x.n }

/-- No output. -/
def noOut : LOut := { m := 0 }

/-- A trap of the whole instruction: no lane has completed. Its masks are ACTIVE, for DIVERGE and PARTIAL too: DESIGN CHOICE (log 76). -/
def LX.trapAll (x : LX) (t : TrapInfo) : LFin := .trap x.s noOut { t with mask := x.act, undone := x.act }

/-- A trap at decode or issue: the mask is the block's activity mask. -/
def LX.illegal (x : LX) (code : Nat) : LFin :=
  let m := x.b.mask &&& (match x.b.todo with | some t => t | none => allLanes)
  .trap x.s noOut { kind := kIllegal, detail := code, mask := m, undone := m }

/-- An instruction that would write a register of a kept unit of the open region (R429). -/
def keptHit (g : Grp) (ws : List Nat) : Bool :=
  match g.region with
  | some r => g.frame.isNone && ws.any fun n => n < 1000 && r.kept.getLsbD (n / 8)
  | none => false

/-- A matrix instruction other than MCTX, or a lane instruction with a q operand (R303). -/
def usesCtx (r : RawLane) : Bool :=
  let o := r.op.toNat
  (0x2C0 ≤ o && o ≤ 0x2C9 && o != 0x2C6) || ((readsOf r ++ writesOf r).any fun n => 1000 ≤ n && n < 2000)

/-- The detail of a damaged register that a lane instruction reads in its lanes (R410). -/
def LX.spoiled (x : LX) (r : RawLane) : Option Nat :=
  if x.s.bad.isEmpty then none
  else (readsOf r).findSome? fun n => if n < 1000 then vBad x.s x.g.uid n x.act else if n < 2000 then qBad x.s x.g (n - 1000) x.act else none

/-- A lane instruction: `f` gives its effect after the checks at issue that every lane instruction shares. -/
def laneStep (s : State) (f : LX → LFin) : Host.Outcome State Fault Refusal :=
  match actorLane s with
  | none => .fault .noActor
  | some x =>
    let r := RawLane.ofWord x.w
    let ws := writesOf r
    let vs := ws.filter (· < 1000)
    let qw := (ws.filter fun n => 1000 ≤ n && n < 2000).map (· - 1000)
    let matOp : Bool := 0x2C0 ≤ r.op.toNat && r.op.toNat ≤ 0x2C9
    let qs := ((readsOf r ++ ws).filter fun n => 1000 ≤ n && n < 2000).map (· - 1000)
    .next <| finishLane x <|
      if usesCtx r && (matOf s x.g).holder != some x.g.uid then x.illegal 8
      else if keptHit x.g ws then x.illegal 12
      else match x.spoiled r with
      | some d => x.trapAll { kind := kSpoiled, detail := d }
      | none =>
        match if matOp || qs.isEmpty then Join.free else joinMat s x.g (some qs) with
        | .wait t => .again t
        | .stop p o => .stop s p o
        | .free =>
          let vm := matVRegs s x.g
          if !vm.isEmpty && (vs ++ killsAt x.b.words x.n).any vm.contains then
            .again (if (matBuffered x.g).isEmpty then s else setGrp s { x.g with wins := closeWins x.g.wins })
          else if matOp then f x
          else match takeCkpt s x.g vs (qw.map ckptQ) with
            | none => .again (setGrp s { x.g with wins := closeWins x.g.wins })
            | some g1 => f { x with s := setGrp s g1, g := g1 }

/-- An irrevocable lane instruction (R241, R273, R429): ILLEGAL code 11 in an idempotent region; the windows commit, and
multicast threads are joined, before `f` runs. -/
def LX.irrevocable (x : LX) (f : LX → LFin) : LFin :=
  if x.g.region.isSome && x.g.frame.isNone then x.illegal 11
  else match commitAll x.s x.g.uid with
    | (s1, .done) =>
      if mcastBusy s1 x.g.uid then .again s1
      else match grpOf s1 x.g.uid with
        | some g1 => f { x with s := s1, g := g1 }
        | none => .again s1
    | (s1, _) => .again s1

/-! Writes of one destination. -/

/-- The output of an instruction that computes n registers per lane: to its v or q destination and its latch, or with nowb
to its latch only (R43, R53). -/
def outRows (h : Dst) (lat : Option (BitVec 2)) (nowb : Bool) (m : LaneMask) (rows : List Row) (stick : Word) : LOut :=
  let regs (n : Nat) : List (Nat × Row) := (upto n rows.length).zip rows
  { m := m, stick := stick,
    v := if nowb then [] else match h with | .vreg n => regs n.toNat | _ => [],
    q := if nowb then [] else match h with | .qreg n => regs n.toNat | _ => [],
    lat := lat.map fun n => (n.toNat, rows.headD zeroRow) }

/-- One result row. -/
def LX.out (x : LX) (h : LaneHdr) (row : Row) (stick : Word) : LFin := .ret x.s (outRows h.dst h.lat h.nowb x.act [row] stick)

/-- A pair of result rows, low word first. -/
def LX.outPair (x : LX) (h : LaneHdr) (lo hi : Row) (stick : Word) : LFin :=
  .ret x.s (outRows h.dst h.lat h.nowb x.act [lo, hi] stick)

/-- A truth value per lane: into a k register, or as all ones and zero (R126). -/
def LX.outBool (x : LX) (h : LaneHdr) (f : Nat → Bool) (stick : Word) : LFin :=
  match h.dst with
  | .kreg n => .ret x.s { m := x.act, k := some (n.toNat, maskOf f), stick := stick }
  | _ => x.out h (rowFn fun l => if f l then BitVec.allOnes 32 else 0) stick

/-- Lane-wise operations of one, two and three sources. -/
def LX.map1 (x : LX) (h : LaneHdr) (f : Word → Word) : LFin :=
  let a := x.src 0 h.a
  x.out h (rowFn fun l => f (rl a.1 l)) (poisonBits [a.2])
def LX.map2 (x : LX) (h : LaneHdr) (f : Word → Word → Word) : LFin :=
  let a := x.src 0 h.a
  let b := x.src 1 h.b
  x.out h (rowFn fun l => f (rl a.1 l) (rl b.1 l)) (poisonBits [a.2, b.2])
def LX.map3 (x : LX) (h : LaneHdr) (f : Word → Word → Word → Word) : LFin :=
  let a := x.src 0 h.a
  let b := x.src 1 h.b
  let c := x.src 2 h.c
  x.out h (rowFn fun l => f (rl a.1 l) (rl b.1 l) (rl c.1 l)) (poisonBits [a.2, b.2, c.2])

/-- The checks of a group-wide lane instruction against the state at its block's EXEC (R128). -/
def LX.groupWide (x : LX) (k : LFin) : LFin :=
  if x.b.splits > 1 then x.trapAll { kind := kDiverge, detail := 0 }
  else if !x.b.full || x.b.receiver then x.trapAll { kind := kPartial, detail := 0 }
  else k

end Sys2Proof.Machine
end

