-- ==== Sys2Proof/Machine/Fetch.lean ====
section
/-! DEFINITION. Instruction fetch (spec/02_instruction_words.md R64, R67; spec/03_scalar_stream.md R87, R89). -/

namespace Sys2Proof.Machine

/-- The name under which the code caches of a core keep the word at a virtual address of a context. -/
def codeKey (core pcid va : Nat) : Nat := (core * 2 ^ 16 + pcid) * 2 ^ 58 + va

/-- A code word: the one that this core's code cache holds, if it holds one and a free value takes it (R67; log 9), else the one that
`now` finds in memory, which the code cache then holds. An entry of the code cache is 1 plus the word. -/
def codeWord (s : State) (key : Nat) (now : State → Got Nat) : Got Word :=
  let fresh (s : State) : Got Word :=
    (now s).bind fun s1 n => .ok { s1 with codeCache := aset 0 s1.codeCache key (n + 1) } (BitVec.ofNat 32 n)
  let e := aget 0 s.codeCache key
  let same : Bool := match now s with | .ok _ n => n + 1 = e | _ => false
  if e = 0 || same then fresh s
  else
    let (k, s1) := draw s
    if Config.freeBit k then .ok s1 (BitVec.ofNat 32 (e - 1)) else fresh s1

/-- One 32-bit code word at a virtual address for a group (R67, R89, R202 to R204). -/
def fetchWord (s : State) (g : Grp) (cap : Cap) (va : Nat) : Got Word :=
  let ag := agtOf s g
  match target s ag cap va accFetch 0 (gangWg s g.gang) with
  | .wait s1 => .wait s1
  | .fault s1 t => .fault s1 { t with cap := cap }
  | .ok s1 p => codeWord s1 (codeKey g.core ag.pcid va) fun t =>
    match p with
    | .here l _ => (match spoilAt t l 4 with
      | some d => .fault t { kind := kSpoiled, detail := d, access := accFetch, addr := va }
      | none => .ok t (ramNat t.ram l 4))
    | .there node off => match ask t { cap := cap, stated := 0 } ag.uid ag.pcid node off .fetch with
      | (t1, none) => .wait t1
      | (t1, some (.fault k d m)) => .fault t1 { ansFault k d m accFetch va with cap := cap }
      | (t1, some (.data b _)) => .ok t1 (leNat b % 2 ^ 32)
      | (t1, some _) => .ok t1 0

/-- The checks of a code capability over n bytes (R89, R177); an aperture address needs REMOTE too. -/
def codeCheck (c : Cap) (a : Int) (n : Nat) : Except TrapInfo Unit :=
  match checkPerms c (if isAperture a then [pEXEC, pREMOTE] else [pEXEC]) a accFetch with
  | .error t => .error t
  | .ok () => if !(capBase c ≤ a && a + n ≤ capTop c) then .error (capFault c 4 a accFetch) else .ok ()

/-- The check of the PCC over the word at its address (R89). -/
def fetchCheck (c : Cap) (a : Int) : Except TrapInfo Unit := codeCheck c a 4

/-- The words of a lane block, three for each lane word (R87). -/
def fetchWords (s : State) (g : Grp) (cap : Cap) : Nat → Nat → Got (List Word)
  | _, 0 => .ok s []
  | va, n + 1 => (fetchWord s g cap va).bind fun s1 w => (fetchWords s1 g cap (va + 4) n).bind fun s2 ws => .ok s2 (w :: ws)

/-- Lane words from their 32-bit parts (R40). -/
def laneWords : List Word → List LaneWord
  | a :: b :: c :: l => (c ++ b ++ a) :: laneWords l
  | _ => []

end Sys2Proof.Machine
end

