-- ==== Sys2Proof/Machine/Joins.lean ====
section
/-! DEFINITION. What a scalar instruction that joins engine work finds, and the release of a matrix context
(spec/12_tensor_copy.md R345; spec/13_collective_engines.md R353, R364; spec/11_matrix.md R327; spec/09_atomics_reductions.md R273). -/

namespace Sys2Proof.Machine

/-- A pending stop as a trap, with the operation it belongs to and the three instruction words of the record. -/
structure Pending where
  t : TrapInfo
  op : Nat
  w1 : Word
  w2 : Word
  w3 : Word

/-- The trap of an engine's stop. -/
def stopTrap (r : StopRec) : TrapInfo :=
  { kind := r.kind, detail := r.detail, access := r.access, home := r.home, cap := r.cap, missing := r.missing, addr := r.addr, w16 := r.w16, w17 := r.w17, w18 := r.w18 }

/-- The stop that a stopped list reports, with word 0 of its command: that of the first stopped command in list order (R364). -/
def CeList.report (l : CeList) : StopRec × DWord :=
  match l.cmds.find? fun c => c.stop.isSome with
  | some c => (c.stop.getD default, c.w0)
  | none => (l.stop.getD default, l.word)

/-- The stopped tensor copy operation of a group with the lowest ticket, else its stopped list, that the group's live trap
frame does not already report (R345, R364). -/
def pendingStop (s : State) (g : Grp) : Option Pending :=
  let seen : Option Nat := g.frame.bind fun f => if f.engine && !f.matrix then some f.op else none
  let ts := (stoppedTces s g.uid).filter fun o => some o.uid != seen
  let cs := (stoppedCes s g.uid).filter fun l => some l.uid != seen
  let low (l : List Word) : Word := l.foldl (fun m t => if t < m then t else m) (l.headD 0)
  match ts.find? fun o => o.ticket = low (ts.map (·.ticket)) with
  | some o => some { t := stopTrap (o.stop.getD default), op := o.uid, w1 := o.word, w2 := 0, w3 := 0 }
  | none => match cs.find? fun l => l.ticket = low (cs.map (·.ticket)) with
    | some l =>
      let (r, w) := l.report
      some { t := stopTrap r, op := l.uid, w1 := w.extractLsb' 0 32, w2 := w.extractLsb' 32 32, w3 := 0 }
    | none => none

/-- The instruction takes the stop. -/
def Pending.fin (p : Pending) (s : State) : Fin := .stop s p.t false p.op p.w1 p.w2 p.w3

/-- Whether a group has forked operations or attached lists that have neither ended nor stopped (R345, R353). -/
def engineBusy (s : State) (g : Grp) : Bool :=
  (s.tces.any fun o => o.group = g.uid && (o.st = .queued || o.st = .running)) ||
  (s.ces.any fun l => l.owner = some g.uid && (l.st = .queued || l.st = .running))

/-- The group among these with the lowest GROUPIDX. -/
def lowestGidx (s : State) (us : List Nat) : Option Nat :=
  let gs := us.filterMap (grpOf s)
  (gs.find? fun g => gs.all fun h => g.gidx ≤ h.gidx).map (·.uid)

/-- The context of a group passes to the waiting group with the lowest GROUPIDX, or to none; the collector is emptied (R327). -/
def matRelease (s : State) (g : Grp) : State :=
  let c := matOf s g
  let next := lowestGidx s c.waiters
  modMat s g.wg (matPos s g) fun c =>
    { c with coll := none, holder := next, waiters := match next with | some u => c.waiters.filter (· != u) | none => c.waiters }

end Sys2Proof.Machine
end

