-- ==== Sys2Proof/Machine/ScalarControl.lean ====
section
/-! DEFINITION. Scalar control: branches, calls, lane blocks, divergence, compaction, lane registers
(spec/03_scalar_stream.md R86 to R102, R109, R113). -/

namespace Sys2Proof.Machine

/-- Retires with nothing written. -/
def Fin.ok (s : State) : Fin := .ret s [] none

/-- Retires with one scalar write. -/
def Fin.set (s : State) (r : SReg) (v : Word) : Fin := .ret s [(r.toNat, v)] none

/-- SNOP (R113). -/
def execSnop (s : State) : Host.Outcome State Fault Refusal := scalarStep s fun _ _ => .ok s

/-- The target of a relative branch and its check (R89). -/
def relTarget (x : Split) (off : Int) : Except TrapInfo Cap :=
  let a : Int := (x.pc : Int) + 4 * off
  if !(capBase x.pcc ≤ a && a + 4 ≤ capTop x.pcc) then .error (capFault x.pcc 4 a accFetch) else .ok (withAddr x.pcc a)

/-- A relative branch: `pre` are scalar writes that take effect with it. A branch that is not taken does not check its target: DESIGN CHOICE
(log 76). -/
def branchIf (s : State) (x : Split) (take : Bool) (off : Int) (pre : List (Nat × Word)) : Fin :=
  if !take then .ret s pre none
  else match relTarget x off with
    | .error t => .trap s t
    | .ok p => .ret s pre (some p)

/-- BR (R90). -/
def execBr (off : BitVec 25) (s : State) : Host.Outcome State Fault Refusal :=
  scalarStep s fun _ x => branchIf s x true off.toInt []

/-- BRC (R90). -/
def execBrc (cond : BitVec 4) (sa : SReg) (off : BitVec 15) (s : State) : Host.Outcome State Fault Refusal :=
  scalarStep s fun _ x => branchIf s x (brcCond cond.toNat (sGet x sa)) off.toInt []

/-- DBNZ (R90). -/
def execDbnz (sa : SReg) (off : BitVec 15) (s : State) : Host.Outcome State Fault Refusal :=
  scalarStep s fun _ x =>
    let v := sGet x sa - 1
    branchIf s x (v != 0) off.toInt [(sa.toNat, v)]

/-- The condition of BRK over the lanes of the activity mask (R91). -/
def brkCond (cond : Nat) (act k : LaneMask) : Bool :=
  match cond with
  | 0 => (act &&& k) != 0
  | 1 => (act &&& ~~~k) = 0
  | 2 => (act &&& k) = 0
  | _ => (act &&& ~~~k) != 0

/-- BRK (R91). -/
def execBrk (cond : BitVec 4) (ka : KReg) (off : BitVec 15) (s : State) : Host.Outcome State Fault Refusal :=
  scalarStep s fun g x => branchIf s x (brkCond cond.toNat x.act (kGet g.g ka.toNat)) off.toInt []

/-- The lowest free split index (R93). -/
def freeSplit (g : GCore) : Option Nat := (below 4).find? fun i => (g.split i).isNone

/-- BDIV (R94). The target is checked when some lane takes it. -/
def execBdiv (neg : Bool) (ka : KReg) (off : BitVec 15) (s : State) : Host.Outcome State Fault Refusal :=
  scalarStep s fun g x =>
    let k := kGet g.g ka.toNat
    let t := x.act &&& (if neg then ~~~k else k)
    let n := x.act &&& ~~~t
    match relTarget x off.toInt with
    | .error e => if t = 0 then .ok s else .trap s e
    | .ok p =>
      if t = 0 then .ok s
      else if n = 0 then .ret s [] (some p)
      else match freeSplit g.g with
        | none => .trap s { kind := kDiverge, detail := 0 }
        | some j =>
          let age := 1 + g.g.splits.foldl (fun m y => max m y.age) 0
          let y : Split := { x with idx := j, act := t, withheld := 0, pcc := p, age := age, issued := 0, noWatch := false }
          let c := (g.g.setSplit { x with act := n })
          .ok (setGrp s { g with g := { c with splits := c.splits ++ [y] } })

/-- MERGE (R95): the split parks; when every live split is parked at a MERGE, the lowest ones are combined. -/
def execMerge (s : State) : Host.Outcome State Fault Refusal :=
  scalarStep s fun g x =>
    let c := stampSplit (g.g.modSplit x.idx fun y => { y with st := .merge }) x.idx
    .gone (setGrp s (tickSolo { g with g := mergeRelease c }))

/-- The link of a call: the word after this one, sealed as a sentry (R92). -/
def linkCap (x : Split) : Cap := withOtype (nextPcc x) 63

/-- The checks of a jump through a code pointer with a byte offset (R92). -/
def jumpThrough (t : Cap) (off : Int) : Except TrapInfo Cap :=
  let a : Int := cAddr t + off
  if !t.tag then .error (capFault t 1 a accFetch)
  else if !(cOtype t = 0 || cOtype t = 63) then .error (capFault t 2 a accFetch)
  else if !cHas t pEXEC then .error (capFault t 3 a accFetch pEXEC)
  else if cOtype t = 63 && off != 0 then .error (capFault t 2 a accFetch)
  else if a % 4 != 0 then .error (capFault t 13 a accFetch)
  else if !(capBase t ≤ a && a + 4 ≤ capTop t) then .error (capFault t 4 a accFetch)
  else .ok (withOtype (withAddr t a) 0)

/-- The state with a capability register of a split written. -/
def putC (s : State) (g : Grp) (x : Split) (r : CReg) (v : Cap) : State := setGrp s { g with g := g.g.setSplit (cSet x r v) }

/-- CALL (R92). -/
def execCall (off : BitVec 25) (s : State) : Host.Outcome State Fault Refusal :=
  scalarStep s fun g x => match relTarget x off.toInt with
    | .error t => .trap s t
    | .ok p => .ret (putC s g x 30 (linkCap x)) [] (some p)

/-- CALLI (R92). -/
def execCalli (cd ca : CReg) (s : State) : Host.Outcome State Fault Refusal :=
  scalarStep s fun g x => match jumpThrough (cGet x ca) 0 with
    | .error t => .trap s t
    | .ok p => .ret (putC s g x cd (linkCap x)) [] (some p)

/-- RET (R92). -/
def execRet (ca : CReg) (s : State) : Host.Outcome State Fault Refusal :=
  scalarStep s fun _ x => match jumpThrough (cGet x ca) 0 with
    | .error t => .trap s t
    | .ok p => .ret s [] (some p)

/-- JMPI (R92). -/
def execJmpi (ca : CReg) (sb : SReg) (s : State) : Host.Outcome State Fault Refusal :=
  scalarStep s fun _ x => match jumpThrough (cGet x ca) (sI (sGet x sb)) with
    | .error t => .trap s t
    | .ok p => .ret s [] (some p)

/-! Lane blocks. -/

/-- The checks of the LCC at an EXEC (R87). -/
def blockCheck (x : Split) (lo hi : Int) : Except TrapInfo Unit :=
  match checkPerms x.lcc (if isAperture lo then [pEXEC, pREMOTE] else [pEXEC]) lo accFetch with
  | .error t => .error t
  | .ok () =>
    if x.lbase % 4 != 0 then .error (capFault x.lcc 13 lo accFetch)
    else if !(capBase x.lcc ≤ lo && hi ≤ capTop x.lcc) then .error (capFault x.lcc 4 lo accFetch)
    else .ok ()

/-- Parked at its COMPACT with its lanes moved (R99). -/
def SplitSt.isPartner : SplitSt → Bool
  | .partner _ => true
  | _ => false

/-- The lane block of an EXEC, with the operands of its split as they stand (R42, R82, R128). -/
def mkBlock (g : Grp) (x : Split) (base : Nat) (ws : List LaneWord) : LaneBlock :=
  { split := x.idx, pc := x.pc, base := base, words := ws, next := 0, mask := x.act, s := x.s, c := x.c,
    splits := g.g.splits.length, full := x.act = allLanes, receiver := g.g.compact.isSome,
    compacting := g.g.compact.isSome || (g.g.splits.any fun y => y.st.isPartner), todo := none, lat := [], noWatch := false, pre := none }

/-- EXEC and EXECW (R64, R84, R87). The split issues nothing more until the block has run (log 8), so both have the effect
of EXECW. -/
def enqueueBlock (len : BitVec 5) (off : BitVec 16) (s : State) (g : Grp) (x : Split) : Fin :=
  if g.g.laneQ.length ≥ 8 then .again s
  else
    let n := len.toNat + 1
    let lo := x.lbase + 12 * off.toNat
    match blockCheck x lo (lo + 12 * n : Nat) with
    | .error t => .trap s t
    | .ok () =>
      match fetchWords s g x.lcc lo (3 * n) with
      | .wait s1 => .again s1
      | .fault s1 t => .trap s1 t
      | .ok s1 ws =>
        let b := mkBlock g x lo (laneWords ws)
        .ok (modGrp (dropAns s1 g.uid) g.uid fun h => { h with g := { h.g with laneQ := h.g.laneQ ++ [b] } })

/-- EXEC. -/
def execExecBlk (len : BitVec 5) (off : BitVec 16) (s : State) : Host.Outcome State Fault Refusal :=
  scalarStep s fun g x => enqueueBlock len off s g x

/-- EXECW. -/
def execExecwBlk (len : BitVec 5) (off : BitVec 16) (s : State) : Host.Outcome State Fault Refusal :=
  scalarStep s fun g x => enqueueBlock len off s g x

/-- LCB (R88). -/
def execLcb (ca : CReg) (s : State) : Host.Outcome State Fault Refusal :=
  scalarStep s fun g x =>
    let c := cGet x ca
    match checkPerms c [pEXEC] (cAddr c) accNone with
    | .error t => .trap s t
    | .ok () => .ok (setGrp s { g with g := g.g.setSplit { x with lcc := c } })

/-- LCB.get (R88). -/
def execLcbGet (cd : CReg) (s : State) : Host.Outcome State Fault Refusal :=
  scalarStep s fun g x => .ok (putC s g x cd x.lcc)

/-! Compaction (R99 to R101). -/

/-- The other group of the pair of R99: GROUPIDX xor 1 of the same workgroup. -/
def pairOf (s : State) (g : Grp) : Option Grp :=
  if g.task then none else s.grps.find? fun h => h.wg = g.wg && h.gidx = g.gidx ^^^ 1 && !h.task

/-- One v register exchanged between lanes H of a and S of b (R99): dead registers read as poison, and a register live in
either becomes live in both. -/
def swapV (a b : GCore) (h t : List Nat) (n : Nat) : GCore × GCore :=
  if vDead a n && vDead b n then (a, b)
  else
    let ra := vGet a n
    let rb := vGet b n
    let mov (dst src : Row) (ds ss : List Nat) : Row := rowFn fun l => match ds.idxOf? l with | some i => rl src (ss.getD i 0) | none => rl dst l
    let put (g : GCore) (r : Row) : GCore :=
      { g with dead := g.dead &&& ~~~ (BitVec.ofNat 256 (2 ^ n)), v := aset zeroRow g.v n r }
    (put a (mov ra rb h t), put b (mov rb ra t h))

/-- Bits of two masks exchanged between lanes h of a and t of b. -/
def swapBits (a b : LaneMask) (h t : List Nat) : LaneMask × LaneMask :=
  let mov (dst src : LaneMask) (ds ss : List Nat) : LaneMask :=
    maskOf fun l => match ds.idxOf? l with | some i => lane src (ss.getD i 0) | none => lane dst l
  (mov a b h t, mov b a t h)

/-- The exchange of the selected register units and of the k registers between partner and receiver (R99). -/
def exchange (p r : GCore) (regs : Nat) (units : Word) (h t : List Nat) : GCore × GCore :=
  let ns := (below regs).filter fun n => units.getLsbD (n / 8)
  let (p1, r1) := ns.foldl (fun (a : GCore × GCore) n => swapV a.1 a.2 h t n) (p, r)
  let quads := (ns.filter fun n => n % 4 = 0).map (· / 4)
  let (qp, qr) := quads.foldl (fun (a : AList LaneMask × AList LaneMask) q =>
    let (x, y) := swapBits (aget 0 a.1 q) (aget 0 a.2 q) h t
    (aset 0 a.1 q x, aset 0 a.2 q y)) (p1.qtags, r1.qtags)
  let (kp, kr) := (upto 1 15).foldl (fun (a : AList LaneMask × AList LaneMask) k =>
    let (x, y) := swapBits (aget 0 a.1 k) (aget 0 a.2 k) h t
    (aset 0 a.1 k x, aset 0 a.2 k y)) (p1.k, r1.k)
  ({ p1 with qtags := qp, k := kp }, { r1 with qtags := qr, k := kr })

/-- A split of a group continues at its next word with one scalar written. -/
def retireSplit (g : Grp) (idx : Nat) (sd : Nat) (v : Word) : Grp :=
  let c := (g.g.sSet idx sd v).modSplit idx fun x => { x with pcc := nextPcc x, st := .ready }
  tickSolo { g with g := stampSplit c idx }

/-- A group's only split, which a group in a rendezvous or parked as a partner has. -/
def soloSplit (g : Grp) : Split := g.g.splits.headD default

/-- A group that waits in a COMPACT rendezvous, with its sd and its units. -/
def inRendezvous (g : Grp) : Option (Nat × Word) :=
  match (soloSplit g).st with | .rendezvous sd u => some (sd, u) | _ => none

/-- The exchange of COMPACT between receiver r and partner p (R99). -/
def compactMeet (s : State) (r p : Grp) (rsd psd : Nat) (units : Word) : State :=
  let rx := soloSplit r
  let px := soloSplit p
  if r.core != p.core || popMask rx.act + popMask px.act > 96 then
    setGrp (setGrp s (retireSplit r rx.idx rsd 0)) (retireSplit p px.idx psd 0)
  else
    let h := lanesOf px.act
    let t := (lanesOf (~~~ rx.act)).take h.length
    let (pc, rc) := exchange p.g r.g r.regs units h t
    let rc1 := { rc with compact := some { units := units, h := h, s := t, partner := p.uid } }
    let rc2 := rc1.modSplit rx.idx fun x => { x with act := rx.act ||| maskOf t.contains }
    let p1 := { p with g := pc.modSplit px.idx fun x => { x with st := .partner psd } }
    setGrp (setGrp s (retireSplit { r with g := rc2 } rx.idx rsd 1)) p1

/-- Whether a matrix operation has still to read a register of these units in one of two groups (R308). -/
def unitsRead (s : State) (a b : Grp) (units : Word) : Bool :=
  (matVRegs s a ++ matVRegs s b).any fun n => units.getLsbD (n / 8)

/-- The detail of a damaged register among those that an exchange moves between lanes h of the partner and lanes t of the receiver (R410). -/
def movedBad (s : State) (p r : Grp) (units : Word) (h t : List Nat) : Option Nat :=
  s.bad.findSome? fun d => match d with
    | .vreg u n l x => if units.getLsbD (n / 8) && ((u = p.uid && h.contains l) || (u = r.uid && t.contains l)) then some x else none
    | _ => none

/-- The same for the exchange of a rendezvous between receiver r and partner p, where one is made. -/
def meetBad (s : State) (r p : Grp) (units : Word) : Option Nat :=
  let h := lanesOf (soloSplit p).act
  if r.core != p.core || popMask (soloSplit r).act + popMask (soloSplit p).act > 96 then none
  else movedBad s p r units h ((lanesOf (~~~ (soloSplit r).act)).take h.length)

/-- COMPACT (R99). The rendezvous waits for matrix operations that have still to read a register that it exchanges (R308). -/
def execCompact (sd sa : SReg) (s : State) : Host.Outcome State Fault Refusal :=
  scalarStep s fun g x => irrevocable s g x fun s g x =>
    if g.g.splits.length > 1 then .trap s { kind := kDiverge, detail := 0 }
    else if g.g.compact.isSome then .set s sd 0
    else
      match pairOf s g with
      | none => .set s sd 0
      | some o =>
        if o.ended then .set s sd 0
        else
          let units := sGet x sa
          match inRendezvous o with
          | none => .gone (setGrp s { g with g := g.g.modSplit x.idx fun y => { y with st := .rendezvous sd.toNat units } })
          | some (osd, ou) =>
            if unitsRead s g o (if g.gidx % 2 = 0 then units else ou) then .again s
            else match if g.gidx % 2 = 0 then meetBad s g o units else meetBad s o g ou with
              | some d => .trap s { kind := kSpoiled, detail := d }
              | none => if g.gidx % 2 = 0 then .gone (compactMeet s g o sd.toNat osd units) else .gone (compactMeet s o g osd sd.toNat ou)

/-- The partner of a live record resumes after its COMPACT with this activity mask and code (R100, R101). -/
def resumePartner (p : Grp) (act : LaneMask) (code : Word) : Grp :=
  let px := soloSplit p
  match px.st with
  | .partner psd => retireSplit { p with g := p.g.modSplit px.idx fun x => { x with act := act } } px.idx psd code
  | _ => p

/-- UNCOMPACT (R100). -/
def execUncompact (sd : SReg) (s : State) : Host.Outcome State Fault Refusal :=
  scalarStep s fun g x => irrevocable s g x fun s g x =>
    if g.g.splits.length > 1 then .trap s { kind := kDiverge, detail := 0 }
    else match g.g.compact with
      | none => .set s sd 0
      | some c => match grpOf s c.partner with
        | none => .set s sd 0
        | some p =>
          if unitsRead s g p c.units then .again s
          else match movedBad s p g c.units c.h c.s with
          | some d => .trap s { kind := kSpoiled, detail := d }
          | none =>
          let (pc, rc) := exchange p.g g.g g.regs c.units c.h c.s
          let back := maskOf fun l => match c.h.idxOf? l with | some i => lane x.act (c.s.getD i 0) | none => false
          let rc1 := { rc with compact := none }
          let rc2 := rc1.modSplit x.idx fun y => { y with act := x.act &&& ~~~ (maskOf c.s.contains) }
          .set (setGrp (setGrp s (resumePartner { p with g := pc } back 2)) { g with g := rc2 }) sd 1

/-- YIELD (R98). -/
def execYieldS (sa : SReg) (s : State) : Host.Outcome State Fault Refusal :=
  scalarStep s fun g x =>
    let n := min (sGet x sa).toNat 65535
    if n = 0 then .ok s else .ok (setGrp s { g with g := g.g.modSplit x.idx fun y => { y with st := .yield n } })

/-- What the end of a group does to the other group of its pair: a waiting COMPACT answers 0, the partner of a live
record resumes with no lane (R99, R101). -/
def pairExit (s : State) (g : Grp) : State :=
  let s1 := match g.g.compact with
    | some c => match grpOf s c.partner with | some p => setGrp s (resumePartner p 0 3) | none => s
    | none => s
  match pairOf s1 g with
  | none => s1
  | some o => match inRendezvous o with
    | some (osd, _) => setGrp s1 (retireSplit o (soloSplit o).idx osd 0)
    | none => s1

/-- EXIT (R76, R96, R101, R230, R273, R327, R345, R353). -/
def execExit (s : State) : Host.Outcome State Fault Refusal :=
  scalarStep s fun g x => committed s g x fun s g x =>
    if mcastBusy s g.uid then .again s
    else match pendingStop s g with
      | some p => p.fin s
      | none =>
        if g.g.splits.length > 1 then
          let c := { g.g with splits := g.g.splits.filter fun y => y.idx != x.idx }
          .gone (setGrp s (tickSolo { g with g := mergeRelease c, region := none }))
        else if engineBusy s g then .again s
        else if (matOf s g).holder = some g.uid && accsOf s g then
          match joinMat s g none with
          | .wait s1 => .again s1
          | .stop r o => .stop s (matStopTrap r) true 0 (o.word.extractLsb' 0 32) (o.word.extractLsb' 32 32) (o.word.extractLsb' 64 32)
          | .free => .gone (endGrp (pairExit (matRelease s g) g) g)
        else .gone (endGrp (pairExit s g) g)

/-- SPLITQ (R97). -/
def execSplitq (sd : SReg) (s : State) : Host.Outcome State Fault Refusal :=
  scalarStep s fun g x =>
    let parked (y : Split) : Bool := y.st = .merge ||
      (y.st = .handler && (match g.frame with | some f => f.parked.any fun p => p.1 = y.idx && p.2 = .merge | none => false))
    let bit (p : Split → Bool) (at_ : Nat) : Nat := ((below 4).map fun j => if (g.g.split j).any p then 2 ^ (at_ + j) else 0).sum
    .set s sd (BitVec.ofNat 32 (x.idx + g.g.splits.length * 4 + bit (fun _ => true) 8 + bit parked 12))

/-- The register and lane that VREAD and VWRITE name, or ILLEGAL code 3 (R109). -/
def laneReg (g : Grp) (r l : Word) : Option (Nat × Nat) :=
  if r.toNat < 256 && r.toNat < g.regs && l.toNat < 96 then some (r.toNat, l.toNat) else none

/-- VREAD (R109). A dead register in a lane outside the activity mask gives 0 and is no read of R51: DESIGN CHOICE (log 76). A damaged
register gives SPOILED (R410). -/
def execVread (sd sa sb : SReg) (s : State) : Host.Outcome State Fault Refusal :=
  scalarStep s fun g x => match laneReg g (sGet x sa) (sGet x sb) with
    | none => illegal s 3
    | some (n, l) =>
      if !lane x.act l then .set s sd 0
      else if let some d := vBad s g.uid n (BitVec.ofNat 96 (2 ^ l)) then .trap s { kind := kSpoiled, detail := d }
      else .set (if vDead g.g n then setGrp s { g with g := g.g.stick stPOISON } else s) sd (rl (vGet g.g n) l)

/-- VWRITE (R109). It needs a checkpoint entry as a lane write does (R239), and waits for matrix operations that have still
to read the register (R308). -/
def execVwrite (sd sa sb : SReg) (s : State) : Host.Outcome State Fault Refusal :=
  scalarStep s fun g x => match laneReg g (sGet x sa) (sGet x sb) with
    | none => illegal s 3
    | some (n, l) =>
      if !lane x.act l then .ok s
      else if keptHit g [n] then illegal s 12
      else if (matVRegs s g).contains n then
        .again (if (matBuffered g).isEmpty then s else setGrp s { g with wins := closeWins g.wins })
      else match takeCkpt s g [n] [] with
        | none => .again (setGrp s { g with wins := closeWins g.wins })
        | some g1 => .ok (setGrp (mendRegs s g (BitVec.ofNat 96 (2 ^ l)) [n]) { g1 with g := vSet g1.g n (BitVec.ofNat 96 (2 ^ l)) (rowOf (sGet x sd)) })

end Sys2Proof.Machine
end

