-- ==== Sys2Proof/Machine/ScalarInt.lean ====
section
/-! DEFINITION. Scalar integer, mask and special-register instructions (spec/03_scalar_stream.md R103 to R112). -/

namespace Sys2Proof.Machine

/-- A scalar result computed from the issuing split's registers. -/
def scalarOut (s : State) (sd : SReg) (f : Split → Word) : Host.Outcome State Fault Refusal :=
  scalarStep s fun _ x => .ret s [(sd.toNat, f x)] none

/-- Two's-complement clamp of an exact sum or difference, or its low bits (R103). -/
def satOr (sat : Bool) (v : Int) : Word := if sat then wrapI (clampT false v) else wrapI v

/-- ADD (R103). -/
def execAdd (sd sa sb : SReg) (sat : Bool) (s : State) : Host.Outcome State Fault Refusal :=
  scalarOut s sd fun x => satOr sat (sI (sGet x sa) + sI (sGet x sb))

/-- SUB (R103). -/
def execSub (sd sa sb : SReg) (sat : Bool) (s : State) : Host.Outcome State Fault Refusal :=
  scalarOut s sd fun x => satOr sat (sI (sGet x sa) - sI (sGet x sb))

/-- ADDI (R103). -/
def execAddi (sd sa : SReg) (imm : BitVec 13) (s : State) : Host.Outcome State Fault Refusal :=
  scalarOut s sd fun x => sGet x sa + imm.signExtend 32

/-- MUL (R103). -/
def execMul (sd sa sb : SReg) (s : State) : Host.Outcome State Fault Refusal :=
  scalarOut s sd fun x => sGet x sa * sGet x sb

/-- MULH (R103): bits 63..32 of the signed or unsigned product. -/
def execMulh (sd sa sb : SReg) (uns : Bool) (s : State) : Host.Outcome State Fault Refusal :=
  scalarOut s sd fun x => wrapI (tI uns (sGet x sa) * tI uns (sGet x sb) / 2 ^ 32)

/-- AND (R103). -/
def execAnd (sd sa sb : SReg) (s : State) : Host.Outcome State Fault Refusal :=
  scalarOut s sd fun x => sGet x sa &&& sGet x sb

/-- OR (R103). -/
def execOr (sd sa sb : SReg) (s : State) : Host.Outcome State Fault Refusal :=
  scalarOut s sd fun x => sGet x sa ||| sGet x sb

/-- XOR (R103). -/
def execXor (sd sa sb : SReg) (s : State) : Host.Outcome State Fault Refusal :=
  scalarOut s sd fun x => sGet x sa ^^^ sGet x sb

/-- ANDI (R103): the immediate is sign-extended. -/
def execAndi (sd sa : SReg) (imm : BitVec 13) (s : State) : Host.Outcome State Fault Refusal :=
  scalarOut s sd fun x => sGet x sa &&& imm.signExtend 32

/-- ORI (R103): the immediate is zero-extended. -/
def execOri (sd sa : SReg) (imm : BitVec 13) (s : State) : Host.Outcome State Fault Refusal :=
  scalarOut s sd fun x => sGet x sa ||| imm.zeroExtend 32

/-- XORI (R103). -/
def execXori (sd sa : SReg) (imm : BitVec 13) (s : State) : Host.Outcome State Fault Refusal :=
  scalarOut s sd fun x => sGet x sa ^^^ imm.zeroExtend 32

/-- The shift amount of SHL, SHR and SAR: bits 7..0 of s[sb] (R103). -/
def shAmt (w : Word) : Nat := w.toNat % 256

/-- SHL (R103). -/
def execShl (sd sa sb : SReg) (s : State) : Host.Outcome State Fault Refusal :=
  scalarOut s sd fun x => sGet x sa <<< shAmt (sGet x sb)

/-- SHR (R103). -/
def execShr (sd sa sb : SReg) (s : State) : Host.Outcome State Fault Refusal :=
  scalarOut s sd fun x => sGet x sa >>> shAmt (sGet x sb)

/-- SAR (R103). -/
def execSar (sd sa sb : SReg) (s : State) : Host.Outcome State Fault Refusal :=
  scalarOut s sd fun x => (sGet x sa).sshiftRight (shAmt (sGet x sb))

/-- SHLI (R104). -/
def execShli (sd sa : SReg) (n : BitVec 5) (s : State) : Host.Outcome State Fault Refusal :=
  scalarOut s sd fun x => sGet x sa <<< n.toNat

/-- SHRI (R104). -/
def execShri (sd sa : SReg) (n : BitVec 5) (s : State) : Host.Outcome State Fault Refusal :=
  scalarOut s sd fun x => sGet x sa >>> n.toNat

/-- SARI (R104). -/
def execSari (sd sa : SReg) (n : BitVec 5) (s : State) : Host.Outcome State Fault Refusal :=
  scalarOut s sd fun x => (sGet x sa).sshiftRight n.toNat

/-- RORI (R104). -/
def execRori (sd sa : SReg) (n : BitVec 5) (s : State) : Host.Outcome State Fault Refusal :=
  scalarOut s sd fun x => (sGet x sa).rotateRight n.toNat

/-- MIN (R103). -/
def execMin (sd sa sb : SReg) (uns : Bool) (s : State) : Host.Outcome State Fault Refusal :=
  scalarOut s sd fun x => if tI uns (sGet x sb) < tI uns (sGet x sa) then sGet x sb else sGet x sa

/-- MAX, which MIN's fn 2 and 3 give (R103). -/
def execMax (sd sa sb : SReg) (uns : Bool) (s : State) : Host.Outcome State Fault Refusal :=
  scalarOut s sd fun x => if tI uns (sGet x sb) > tI uns (sGet x sa) then sGet x sb else sGet x sa

/-- SLT (R103). -/
def execSlt (sd sa sb : SReg) (uns : Bool) (s : State) : Host.Outcome State Fault Refusal :=
  scalarOut s sd fun x => if tI uns (sGet x sa) < tI uns (sGet x sb) then 1 else 0

/-- SLTI (R103). -/
def execSlti (sd sa : SReg) (imm : BitVec 13) (s : State) : Host.Outcome State Fault Refusal :=
  scalarOut s sd fun x => if sI (sGet x sa) < imm.toInt then 1 else 0

/-- LUI (R105). -/
def execLui (sd : SReg) (imm : BitVec 19) (s : State) : Host.Outcome State Fault Refusal :=
  scalarOut s sd fun _ => imm.zeroExtend 32 <<< 13

/-- CLZ (R103). -/
def execClz (sd sa : SReg) (s : State) : Host.Outcome State Fault Refusal :=
  scalarOut s sd fun x => BitVec.ofNat 32 (clzWord (sGet x sa))

/-- POPC (R103). -/
def execPopc (sd sa : SReg) (s : State) : Host.Outcome State Fault Refusal :=
  scalarOut s sd fun x => BitVec.ofNat 32 (popWord (sGet x sa))

/-- SEL (R103). -/
def execSel (sd sa sb sc : SReg) (s : State) : Host.Outcome State Fault Refusal :=
  scalarOut s sd fun x => if sGet x sc != 0 then sGet x sa else sGet x sb

/-- The quotient or remainder of R106. -/
def divVal (rem uns : Bool) (a b : Word) : Word :=
  if b = 0 then (if rem then a else BitVec.allOnes 32)
  else if rem then wrapI (Int.tmod (tI uns a) (tI uns b)) else wrapI (Int.tdiv (tI uns a) (tI uns b))

/-- DIV (R106). -/
def execDiv (sd sa sb : SReg) (rem uns : Bool) (s : State) : Host.Outcome State Fault Refusal :=
  scalarStep s fun g x =>
    let s1 := if sGet x sb = 0 then setGrp s { g with g := g.g.stick stDIVZ } else s
    .ret s1 [(sd.toNat, divVal rem uns (sGet x sa) (sGet x sb))] none

/-! Masks (R108). -/

/-- A k register written in the lanes of the issuing split. -/
def putK (s : State) (g : Grp) (x : Split) (kd : KReg) (v : LaneMask) : Fin :=
  .ret (setGrp s { g with g := kSet g.g kd.toNat x.act v }) [] none

/-- s register n as a number, for runs. -/
def sAt (x : Split) (n : Nat) : Word := sGet x (BitVec.ofNat 6 n)

/-- KMOV (R108). -/
def execKmov (kd : KReg) (sa : SReg) (beat : BitVec 2) (s : State) : Host.Outcome State Fault Refusal :=
  scalarStep s fun g x =>
    let k := kGet g.g kd.toNat
    putK s g x kd (if beat = 3 then sAt x (sa.toNat + 2) ++ sAt x (sa.toNat + 1) ++ sGet x sa
                   else setBeat k beat.toNat (sGet x sa))

/-- SKMOV (R108). -/
def execSkmov (sd : SReg) (ka : KReg) (beat : BitVec 2) (s : State) : Host.Outcome State Fault Refusal :=
  scalarStep s fun g _ =>
    let k := kGet g.g ka.toNat
    if beat = 3 then .ret s ((below 3).map fun i => (sd.toNat + i, Machine.beat k i)) none
    else .ret s [(sd.toNat, Machine.beat k beat.toNat)] none

/-- The operations of KOP (R108). -/
def kopVal (op : Nat) (a b : LaneMask) : LaneMask :=
  match op with
  | 0 => a &&& b
  | 1 => a ||| b
  | 2 => a ^^^ b
  | 3 => a &&& ~~~b
  | 4 => a ||| ~~~b
  | 5 => ~~~a
  | _ => a

/-- KOP (R108). -/
def execKop (kd ka kb : KReg) (op : BitVec 3) (s : State) : Host.Outcome State Fault Refusal :=
  scalarStep s fun g x => putK s g x kd (kopVal op.toNat (kGet g.g ka.toNat) (kGet g.g kb.toNat))

/-- KPOPC (R108). -/
def execKpopc (sd : SReg) (ka : KReg) (all : Bool) (s : State) : Host.Outcome State Fault Refusal :=
  scalarStep s fun g x =>
    let k := kGet g.g ka.toNat
    .ret s [(sd.toNat, BitVec.ofNat 32 (popMask (if all then k else k &&& x.act)))] none

/-- KFIRST (R108). -/
def execKfirst (sd : SReg) (ka : KReg) (last : Bool) (s : State) : Host.Outcome State Fault Refusal :=
  scalarStep s fun g x =>
    let ls := lanesOf (kGet g.g ka.toNat &&& x.act)
    let l := if last then ls.getLast? else ls.head?
    .ret s [(sd.toNat, match l with | some n => BitVec.ofNat 32 n | none => BitVec.allOnes 32)] none

/-! Special registers (R110 to R112). -/

/-- The value that SMOV reads under a code; the features are those of R72. -/
def smovGet (s : State) (g : Grp) (x : Split) (code : Nat) : Word :=
  match code with
  | 8 => BitVec.ofNat 32 x.idx
  | 9 => g.g.status
  | 10 => g.rbcount
  | 11 => 0xFFFF
  | 12 | 13 | 14 => 0
  | c => identReg s g c

/-- SMOV, read form (R110). -/
def execSmov (sd : SReg) (code : BitVec 4) (s : State) : Host.Outcome State Fault Refusal :=
  scalarStep s fun g x => .ret s [(sd.toNat, smovGet s g x code.toNat)] none

/-- SMOV, write form (R110): STATUS is write-one-to-clear, RBCOUNT is written. -/
def execSmovWrite (sa : SReg) (code : BitVec 4) (s : State) : Host.Outcome State Fault Refusal :=
  scalarStep s fun g x =>
    let v := sGet x sa
    if code = 9 then .ret (setGrp s { g with g := { g.g with status := statusW1C g.g.status v } }) [] none
    else .ret (setGrp s { g with rbcount := v }) [] none

/-- SMOVW (R107). -/
def execSmovw (sd sa : SReg) (n : BitVec 13) (s : State) : Host.Outcome State Fault Refusal :=
  scalarStep s fun _ x => .ret s ((below n.toNat).map fun i => (sd.toNat + i, sAt x (sa.toNat + i))) none

end Sys2Proof.Machine
end

