-- ==== Sys2Proof/Machine/CapInstr.lean ====
section
/-! DEFINITION. Scalar capability instructions and revocation (spec/06_capabilities.md R179 to R196). -/

namespace Sys2Proof.Machine

/-- A derivation written to a capability register, or its CAPFAULT with the source in the record (R178, R180). -/
def derive_ (s : State) (g : Grp) (x : Split) (cd : CReg) (src : Cap) (r : Except Nat Cap) : Fin :=
  match r with
  | .error d => .trap s (capFault src d)
  | .ok v => .ok (putC s g x cd v)

/-- A 64-bit operand from s[sb] and s[sb+1]. -/
def sPair (x : Split) (sb : SReg) : Nat := pair64 (sGet x sb) (sAt x (sb.toNat + 1))

/-- CGET (R181). -/
def execCget (ca : CReg) (sb : SReg) (f : BitVec 4) (s : State) : Host.Outcome State Fault Refusal :=
  scalarStep s fun _ x =>
    let v := sGet x sb
    .set s sb (if f = 14 then rlen v.toNat else if f = 15 then ralign v.toNat else capField (cGet x ca) f.toNat)

/-- CSETA (R180). -/
def execCseta (cd ca : CReg) (sb : SReg) (exact : Bool) (s : State) : Host.Outcome State Fault Refusal :=
  scalarStep s fun g x => derive_ s g x cd (cGet x ca) (addrForm (cGet x ca) (sPair x sb) exact)

/-- CINC (R180). -/
def execCinc (cd ca : CReg) (sb : SReg) (w exact : Bool) (s : State) : Host.Outcome State Fault Refusal :=
  scalarStep s fun g x =>
    let d : Int := if w then sgn 64 (sPair x sb) else sI (sGet x sb)
    derive_ s g x cd (cGet x ca) (addrForm (cGet x ca) (cAddr (cGet x ca) + d) exact)

/-- CINCI (R180). -/
def execCinci (cd ca : CReg) (imm : BitVec 15) (s : State) : Host.Outcome State Fault Refusal :=
  scalarStep s fun g x => derive_ s g x cd (cGet x ca) (addrForm (cGet x ca) (cAddr (cGet x ca) + imm.toInt) false)

/-- CSETB (R180). -/
def execCsetb (cd ca : CReg) (sb : SReg) (w exact : Bool) (s : State) : Host.Outcome State Fault Refusal :=
  scalarStep s fun g x =>
    let k : Nat := if w then sPair x sb else (sGet x sb).toNat
    derive_ s g x cd (cGet x ca) (boundsForm (cGet x ca) (cAddr (cGet x ca)) k exact)

/-- CSETBI (R180). -/
def execCsetbi (cd ca : CReg) (imm : BitVec 15) (s : State) : Host.Outcome State Fault Refusal :=
  scalarStep s fun g x => derive_ s g x cd (cGet x ca) (boundsForm (cGet x ca) (cAddr (cGet x ca)) imm.toNat false)

/-- CANDP (R182). -/
def execCandp (cd ca : CReg) (sb : SReg) (s : State) : Host.Outcome State Fault Refusal :=
  scalarStep s fun g x => derive_ s g x cd (cGet x ca) (capAndp (cGet x ca) (sGet x sb))

/-- The checks of an authority for sealing or unsealing (R183). -/
def authority (k : Cap) (perm : Nat) : Except TrapInfo Unit :=
  if !k.tag then .error (capFault k 1)
  else if cOtype k != 0 then .error (capFault k 2)
  else if !cHas k perm then .error (capFault k 3 0 0 perm)
  else if !(capBase k ≤ cAddr k && (cAddr k : Int) < capTop k) then .error (capFault k 4)
  else .ok ()

/-- CSEAL (R183). -/
def execCseal (cd ca ck : CReg) (s : State) : Host.Outcome State Fault Refusal :=
  scalarStep s fun g x =>
    let v := cGet x ca
    let k := cGet x ck
    if !v.tag then .trap s (capFault v 1)
    else if cOtype v != 0 then .trap s (capFault v 2)
    else match authority k pSEAL with
      | .error t => .trap s t
      | .ok () =>
        if !(1 ≤ cAddr k && cAddr k ≤ 62) then .trap s (capFault k 6) else .ok (putC s g x cd (withOtype v (cAddr k)))

/-- CSEAL.sentry (R183). -/
def execCsealSentry (cd ca : CReg) (s : State) : Host.Outcome State Fault Refusal :=
  scalarStep s fun g x =>
    let v := cGet x ca
    if !v.tag then .trap s (capFault v 1)
    else if cOtype v != 0 then .trap s (capFault v 2)
    else if !cHas v pEXEC then .trap s (capFault v 3 0 0 pEXEC)
    else .ok (putC s g x cd (withOtype v 63))

/-- CUNSEAL (R183). -/
def execCunseal (cd ca ck : CReg) (s : State) : Host.Outcome State Fault Refusal :=
  scalarStep s fun g x =>
    let v := cGet x ca
    let k := cGet x ck
    if !v.tag then .trap s (capFault v 1)
    else if !(1 ≤ cOtype v && cOtype v ≤ 62) then .trap s (capFault v 6)
    else match authority k pUNSEAL with
      | .error t => .trap s t
      | .ok () =>
        if cAddr k != cOtype v then .trap s (capFault k 6)
        else
          let r := withOtype v 0
          .ok (putC s g x cd (if cHas k pGLOBAL then r else withPerms r (cPerms r &&& ~~~(permSet [pGLOBAL]))))

/-- A truth value in s[sb]. -/
def setBool (s : State) (sb : SReg) (b : Bool) : Fin := .set s sb (if b then 1 else 0)

/-- CTEST (R184). -/
def execCtest (ca : CReg) (sb : SReg) (f : BitVec 3) (s : State) : Host.Outcome State Fault Refusal :=
  scalarStep s fun _ x => setBool s sb (capTest (cGet x ca) capNull f.toNat)

/-- CTEST.subset (R184). -/
def execCtestSubset (cd ca : CReg) (sb : SReg) (s : State) : Host.Outcome State Fault Refusal :=
  scalarStep s fun _ x => setBool s sb (capTest (cGet x ca) (cGet x cd) 3)

/-- CMOV (R182). -/
def execCmov (cd ca : CReg) (s : State) : Host.Outcome State Fault Refusal :=
  scalarStep s fun g x => .ok (putC s g x cd (cGet x ca))

/-- CCLR (R182). -/
def execCclr (cd : CReg) (s : State) : Host.Outcome State Fault Refusal :=
  scalarStep s fun g x => .ok (putC s g x cd capNull)

/-- CCLR.tag (R182). -/
def execCclrTag (cd : CReg) (s : State) : Host.Outcome State Fault Refusal :=
  scalarStep s fun g x => .ok (putC s g x cd { cGet x cd with tag := false })

/-! Revocation. -/

/-- REVSTAT.CLEAROK (R196). -/
def clearOk (s : State) : Bool := s.rev.sweepDone && !s.rev.marked

/-- The places of the 4 KiB pages from an address. -/
def pageTgts (s : State) (ag : Agt) (va : Nat) : Nat → Got (List Tgt)
  | 0 => .ok s []
  | n + 1 => (target s ag capNull va accNone 0 (fun _ => none)).bind fun s1 p =>
    (pageTgts s1 ag (va + 4096) n).bind fun s2 l => .ok s2 (p :: l)

/-- The granules of this node among places. -/
def hereGrans (l : List Tgt) : List Nat := l.filterMap fun p => match p with
  | .here x _ => if x.sp = .hbm then some (x.a / 4096) else none
  | _ => none

/-- The runs of pages at other nodes: node, first offset, pages. -/
def thereRuns : List Tgt → List (Nat × Nat × Nat)
  | [] => []
  | .here _ _ :: l => thereRuns l
  | .there n o :: l => match thereRuns l with
    | (m, p, k) :: r => if m = n && p = o + 4096 then (n, o, k + 1) :: r else (n, o, 1) :: (m, p, k) :: r
    | [] => [(n, o, 1)]

/-- Marks or clears granules of this node as one event; a mark conflicts with every window that read a tagged capability
whose base lies there (R189 to R191). -/
def markGrans (s : State) (clear : Bool) (gs : List Nat) : State :=
  if gs.isEmpty then s
  else
    let s1 := { s with rev := { s.rev with bitmap := gs.foldl (fun b k => aset false b k (!clear)) s.rev.bitmap, marked := s.rev.marked || !clear } }
    if clear then s1
    else
      let hit (w : Window) : Window := if w.grans.any gs.contains then { w with hit := true } else w
      { s1 with grps := s1.grps.map fun g => { g with wins := g.wins.map hit } }

/-- The marks made at other nodes, run by run; `dry` only asks whether they can be made. -/
def markThere (s : State) (au : Auth) (ag : Agt) (clear dry : Bool) : List (Nat × Nat × Nat) → Got Unit
  | [] => .ok s ()
  | (n, o, k) :: l => match ask s au ag.uid ag.pcid n o (.mark clear dry k) with
    | (s1, none) => .wait s1
    | (s1, some (.fault kd d m)) => .fault s1 (ansFault kd d m accNone (2 ^ 56 + n * 2 ^ 47 + o))
    | (s1, some _) => markThere s1 au ag clear dry l

/-- The marks at other nodes: of a range over several homes none changes before every home has translated its pages and, for a clear,
found its CLEAROK (R189, R195; log 73). -/
def markHomes (s : State) (au : Auth) (ag : Agt) (clear : Bool) (runs : List (Nat × Nat × Nat)) : Got Unit :=
  (if runs.length ≤ 1 then .ok s () else markThere s au ag clear true runs).bind fun s1 _ => markThere s1 au ag clear false runs

/-- REVOKE and REVOKE.clear (R189, R190, R195). -/
def revokeBy (ca : CReg) (clear : Bool) (s : State) (g : Grp) (x : Split) : Fin :=
  let c := cGet x ca
  let need := if isAperture (capBase c) then [pREVAUTH, pREMOTE] else [pREVAUTH]
  match checkPerms c need 0 accNone with
  | .error t => .trap s t
  | .ok () =>
    if cSP c || capBase c % 4096 != 0 || capTop c % 4096 != 0 then .trap s (capFault c 12)
    else
      let ag := agtOf s g
      match pageTgts s ag (capBase c).toNat ((capTop c - capBase c) / 4096).toNat with
      | .fault s1 t => .trap s1 { t with cap := c }
      | .wait s1 => .again s1
      | .ok s1 ps =>
        if clear && !clearOk s1 && !(hereGrans ps).isEmpty then .trap s1 (capFault c 11)
        else match markHomes s1 { cap := c, stated := 0 } ag clear (thereRuns ps) with
          | .wait s2 => .again s2
          | .fault s2 t => .trap (dropAns s2 ag.uid) { t with cap := c }
          | .ok s2 () => .ok (markGrans (dropAns s2 ag.uid) clear (hereGrans ps))

/-- REVOKE. -/
def execRevoke (ca : CReg) (s : State) : Host.Outcome State Fault Refusal :=
  scalarStep s fun g x => irrevocable s g x fun s g x => revokeBy ca false s g x

/-- REVOKE.clear. -/
def execRevokeClear (ca : CReg) (s : State) : Host.Outcome State Fault Refusal :=
  scalarStep s fun g x => irrevocable s g x fun s g x => revokeBy ca true s g x

/-! The sweep (R192 to R194). -/

/-- A c register file, split, quad file, b file and window of a group after the load barrier. -/
def sweepSplit (f : Cap → Cap) (x : Split) : Split :=
  { x with c := x.c.map fun e => (e.1, f e.2), pcc := f x.pcc, lcc := f x.lcc }

/-- The quad tags that survive. -/
def sweepQuads (f : Cap → Cap) (g : GCore) : AList LaneMask :=
  (g.qtags.map fun e => (e.1, maskOf fun l => lane e.2 l && (f (quadCap g (4 * e.1) l)).tag)).filter fun e => e.2 != 0

/-- The shared state of a group after the sweep. A revoked capability behind a b register makes its next use fault. -/
def sweepCore (f : Cap → Cap) (g : GCore) : GCore :=
  { g with splits := g.splits.map (sweepSplit f), qtags := sweepQuads f g, b := g.b.map fun e => (e.1, { e.2 with cap := f e.2.cap }),
           laneQ := g.laneQ.map fun b => { b with c := b.c.map fun e => (e.1, f e.2) } }

/-- A buffered operation after the sweep. -/
def sweepBuf (f : Cap → Cap) (o : BufOp) : BufOp :=
  match o with
  | .writeCap l v => .writeCap l (f v)
  | .remote n o k au (.capWrite v) => .remote n o k { au with cap := f au.cap } (.capWrite (f v))
  | .remote n o k au r => .remote n o k { au with cap := f au.cap } r
  | .spawn p k r => .spawn p k { r with q := r.q.map f }
  | .tce t => .tce { t with gcap := f t.gcap, gcap2 := f t.gcap2, ccap := f t.ccap }
  | .ce l => .ce { l with e := l.e.map f, image := f l.image }
  | .mat m => .mat { m with b := { m.b with cap := f m.b.cap } }
  | o => o

/-- The capability in a fault record (R411). -/
def recCap (g : Grp) : Cap :=
  { bits := g.frec.getD 15 0 ++ g.frec.getD 14 0 ++ g.frec.getD 13 0 ++ g.frec.getD 12 0, tag := g.recTag }

/-- A group after the sweep: registers, shadow copies, buffered work, trap frame, fault record and region record (R193). -/
def sweepGrp (s : State) (f : Nat → Cap → Cap) (g : Grp) : Grp :=
  let b := f (pcidOf s g.launch)
  let blk (k : LaneBlock) : LaneBlock := { k with c := k.c.map fun e => (e.1, b e.2) }
  { g with g := sweepCore b g.g,
           wins := g.wins.map fun w => { w with snap := sweepCore b w.snap, buf := w.buf.map (sweepBuf b) },
           frame := g.frame.map fun r => { r with c := r.c.map fun e => (e.1, b e.2), pcc := b r.pcc, lcc := b r.lcc,
                                                  block := r.block.map blk, aside := r.aside.map blk },
           recTag := (b (recCap g)).tag,
           region := g.region.map fun r => { r with c := r.c.map fun e => (e.1, b e.2), pcc := b r.pcc, lcc := b r.lcc,
                                                    b := r.b.map fun e => (e.1, { e.2 with cap := b e.2.cap }) } }

/-- The b copies of a matrix context's operations (R315). -/
def sweepMat (f : Cap → Cap) (c : MatCtx) : MatCtx :=
  let op (o : MatOp) : MatOp := { o with b := { o.b with cap := f o.b.cap } }
  { c with run := c.run.map op, queue := c.queue.map op }

/-- Every group is swept, and the b copies of matrix operations with it (R193, R315). -/
def sweepGroups (s : State) (f : Nat → Cap → Cap) : State :=
  { s with grps := s.grps.map (sweepGrp s f),
           wgs := s.wgs.map fun w => { w with ctxs := w.ctxs.map fun e => (e.1, sweepMat (f (pcidOf s w.launch)) e.2) } }

/-- Shelf records, CE slots, queued operands and scratchpads (R193). -/
def sweepChip (s : State) (f : Nat → Cap → Cap) : State :=
  let pads := s.ram.pads.map fun e =>
    let pc := match wgBy s e.1 with | some w => pcidOf s w.launch | none => 0
    (e.1, { e.2 with tags := e.2.tags.filter fun t => (f pc (ramReadCap s.ram { sp := .pad e.1, a := 16 * t.1 })).tag })
  { s with
    ram := { s.ram with pads := pads },
    chip := { s.chip with shelves := s.chip.shelves.map fun e =>
      (e.1, { e.2 with recs := e.2.recs.map fun r => { r with q := r.q.map (f (pcidOf s r.launch)) } }) },
    ces := s.ces.map fun l => { l with e := l.e.map (f l.pcid), image := f l.pcid l.image },
    tces := s.tces.map fun o => { o with gcap := f o.pcid o.gcap, gcap2 := f o.pcid o.gcap2, ccap := f o.pcid o.ccap } }

/-- The capability at a granule of a line image. -/
def imgCap (m : LineImg) (j : Nat) : Cap :=
  { bits := BitVec.ofNat 128 (leNat ((m.data.drop (16 * j)).take 16)), tag := m.tags.getD j false }

/-- The granule number of device memory of granule j of the line under a key of `dirty`. -/
def imgGran (key j : Nat) : Nat := 8 * key + j

/-- The tags of a line that its home's memory may still hold, after the sweep. -/
def sweepImg (f : Nat → Cap → Cap) (key : Nat) (m : LineImg) : LineImg :=
  { m with tags := (below m.tags.length).map fun j => (f (Config.sweepCtx (imgGran key j)) (imgCap m j)).tag }

/-- The walk of the tagged granules of device memory, under a dirty line too (R193; log 17). -/
def sweepMem (s : State) (f : Nat → Cap → Cap) : State :=
  s.ram.tags.foldl (fun t e =>
    if (f (Config.sweepCtx e.1) (ramReadCap t.ram (hbmLoc (16 * e.1)))).tag then t else putTagEv t 0 (hbmLoc (16 * e.1)) false)
    { s with dirty := s.dirty.map fun e => (e.1, e.2.map (sweepImg f e.1)) }

/-- The engine operations that have not ended. -/
def engineLive (s : State) : List Nat :=
  (s.tces.filter fun o => o.st = .queued || o.st = .running || o.st = .stopped).map (·.uid)
  ++ (s.ces.filter fun l => l.st = .queued || l.st = .running || l.st = .stopped).map (·.uid)

/-- A new epoch starts (R192): the resident groups are swept before their next issue (R193). -/
def startEpoch (s : State) : State :=
  sweepGroups { s with rev := { s.rev with epoch := s.rev.epoch + 1, marked := false, sweepDone := false, inFlight := engineLive s } }
    fun pc c => barrier s pc c

/-- RSWEEP (R192). -/
def execRsweep (sd : SReg) (s : State) : Host.Outcome State Fault Refusal :=
  scalarStep s fun g x => irrevocable s g x fun s _ x => needSys s x <|
    if s.rev.sweepDone then .set (startEpoch s) sd (s.rev.epoch + 1)
    else .set { s with rev := { s.rev with queued := true } } sd (s.rev.epoch + 1)

/-- The name under which the device itself asks other nodes. -/
def sweepName : Nat := 90

/-- The capabilities that a group's shared state holds: in its splits, v quads, b registers and queued blocks. -/
def coreCaps (g : GCore) : List Cap :=
  (g.splits.flatMap fun x => x.pcc :: x.lcc :: x.c.map (·.2)) ++ (g.qtags.flatMap fun e => (lanesOf e.2).map (quadCap g (4 * e.1)))
  ++ g.b.map (·.2.cap) ++ g.laneQ.flatMap fun b => b.c.map (·.2)

/-- The capabilities of a buffered operation. -/
def bufCaps (o : BufOp) : List Cap :=
  match o with
  | .writeCap _ v => [v]
  | .remote _ _ _ au k => match k with | .capWrite v => [au.cap, v] | _ => [au.cap]
  | .spawn _ _ r => r.q
  | .tce t => [t.gcap, t.gcap2, t.ccap]
  | .ce l => l.image :: l.e
  | .mat m => [m.b.cap]
  | _ => []

/-- Every capability that a group holds: registers, shadow copies, buffered work, trap frame, fault record and region record. -/
def grpCaps (g : Grp) : List Cap :=
  coreCaps g.g ++ (g.wins.flatMap fun w => coreCaps w.snap ++ w.buf.flatMap bufCaps)
  ++ (match g.frame with
      | some r => r.pcc :: r.lcc :: r.c.map (·.2) ++ (r.block.toList ++ r.aside).flatMap fun b => b.c.map (·.2)
      | none => [])
  ++ [recCap g] ++ match g.region with | some r => r.pcc :: r.lcc :: r.c.map (·.2) ++ r.b.map (·.2.cap) | none => []

/-- Every capability that the sweep of an epoch visits, with its context. -/
def sweptCaps (s : State) : List (Nat × Cap) :=
  (s.ram.tags.map fun e => (Config.sweepCtx e.1, ramReadCap s.ram (hbmLoc (16 * e.1))))
  ++ (s.dirty.flatMap fun e => e.2.flatMap fun m => (below 8).map fun j => (Config.sweepCtx (imgGran e.1 j), imgCap m j))
  ++ (s.grps.flatMap fun g => (grpCaps g).map fun c => (pcidOf s g.launch, c))
  ++ (s.wgs.flatMap fun w => w.ctxs.flatMap fun e => (e.2.run.toList ++ e.2.queue).map fun o => (pcidOf s w.launch, o.b.cap))
  ++ (s.ram.pads.flatMap fun e =>
        let pc := match wgBy s e.1 with | some w => pcidOf s w.launch | none => 0
        e.2.tags.map fun t => (pc, ramReadCap s.ram { sp := .pad e.1, a := 16 * t.1 }))
  ++ (s.chip.shelves.flatMap fun e => e.2.recs.flatMap fun r => r.q.map fun c => (pcidOf s r.launch, c))
  ++ (s.ces.flatMap fun l => (l.image :: l.e).map fun c => (l.pcid, c))
  ++ (s.tces.flatMap fun o => [(o.pcid, o.gcap), (o.pcid, o.gcap2), (o.pcid, o.ccap)])

/-- The distinct granules of other nodes that the sweep queries (R193): context, node, offset. -/
def sweepQueries (s : State) : List (Nat × Nat × Nat) :=
  ((sweptCaps s).filterMap fun (pc, c) =>
    let b := (capBase c).toNat
    if c.tag && !cSP c && isAperture (capBase c) && nbits b 47 9 != s.fab.node.toNat then some (pc, nbits b 47 9, b % 2 ^ 47 / 4096 * 4096)
    else none).eraseDups

/-- The queries sent and their answers; none while some are pending. -/
def askQueries (s : State) : List (Nat × Nat × Nat) → State × Option (List (Nat × Nat × Nat))
  | [] => (s, some [])
  | (pc, n, o) :: l =>
    let (s1, a) := ask s noAuth sweepName pc n o .query
    let (s2, r) := askQueries s1 l
    (s2, match a, r with
      | some (.fault k d _), some bad => some (if k = kPeerlost || (k = kCap && d = 7) then (pc, n, o) :: bad else bad)
      | some _, some bad => some bad
      | _, _ => none)

/-- The barrier of the epoch's end: the marks of this node, and the homes' answers for aperture bases (R193). -/
def sweepBarrier (s : State) (bad : List (Nat × Nat × Nat)) (pc : Nat) (c : Cap) : Cap :=
  let b := (capBase c).toNat
  if c.tag && !cSP c && isAperture (capBase c) then
    (if nbits b 47 9 = s.fab.node.toNat then
       (match walk s (ctxOf s pc) true (b % 2 ^ 47) with
        | .ok l => if !l.host && aget false s.rev.bitmap ((l.loc (b % 2 ^ 47)).a / 4096) then { c with tag := false } else c
        | .error _ => c)
     else if bad.contains (pc, nbits b 47 9, b % 2 ^ 47 / 4096 * 4096) then { c with tag := false } else c)
  else barrier s pc c

/-- REVOCATION_EPOCH_COMPLETE (R192, R193): enabled once every engine operation in flight at the start has ended and the
homes have answered. -/
def execRevocationEpochComplete (s : State) : Host.Outcome State Fault Refusal :=
  .next <|
    if s.rev.sweepDone || (engineLive s).any s.rev.inFlight.contains then s
    else match askQueries s (sweepQueries s) with
      | (s1, none) => s1
      | (s1, some bad) =>
        let f := sweepBarrier s1 bad
        let s2 := dropAns (sweepMem (sweepChip (sweepGroups s1 f) f) f) sweepName
        let s3 := { s2 with rev := { s2.rev with done := s2.rev.epoch } }
        if s3.rev.queued then startEpoch { s3 with rev := { s3.rev with queued := false } }
        else { s3 with rev := { s3.rev with sweepDone := true } }

end Sys2Proof.Machine
end

