-- ==== Sys2Proof/Machine/Room.lean ====
section
/-! DEFINITION. What fits on a core, and the slots of the save pool (spec/01_machine.md R18 to R21;
spec/10_synchronisation.md R287, R288, R300; spec/15_traps_contexts.md R422). -/

namespace Sys2Proof.Machine

/-- Bytes of the register file of a core, and of its scratchpad (R18). -/
def regFile : Nat := 786432
def padFile : Nat := 393216

/-- The bytes of the register file that a group of n v registers takes (R19). -/
def regBytes (n : Nat) : Nat := 384 * ((n + 7) / 8 * 8)

/-- Whether a group has its slot and registers: from the placement of its gang until its image is written (R423, R427); a dormant
group's are lent only to tasks (R288), and a dormant task has none. -/
def Grp.holds (s : State) (g : Grp) (task : Bool) : Bool :=
  !g.ended &&
  (if g.task then g.dormant.isNone
   else (match gangBy s g.gang with | some x => x.st = .placed || x.st = .saving | none => false) && (g.dormant.isNone || !task))

/-- The groups that hold a slot of a core. -/
def holders (s : State) (core : Nat) (task : Bool) : List Grp := s.grps.filter fun g => g.core = core && g.holds s task

/-- The lowest slot of a core with room for a group of n v registers. -/
def coreSlot (s : State) (core n : Nat) (task : Bool) : Option Nat :=
  let hs := holders s core task
  if (hs.map fun g => regBytes g.regs).foldl (· + ·) (regBytes n) > regFile then none
  else (below 16).find? fun k => !(hs.any fun g => g.slot = k)

/-- The slots of the save pool (R422). -/
def saveSlot (s : State) : Option Nat := (below (min s.chip.saveCount.toNat 4096)).find? fun k => !s.saveUsed.contains k

/-- A slot lent to a task by a dormant group (R288). -/
def lentSlot (s : State) (g : Grp) : Bool :=
  g.task && s.grps.any fun h => h.core = g.core && h.slot = g.slot && h.dormant.isSome && !h.task && !h.ended && !h.saved

/-- The clusters of a launch into a context: those of its mask where it is protected (R458). -/
def clusterOk (s : State) (pcid cl : Nat) : Bool :=
  let c := ctxOf s pcid
  !c.prot || (slotOf s c.key).mask.getLsbD cl

/-- The domain of a context's units (R438, R458). -/
def domOf (s : State) (pcid : Nat) : BitVec 6 := let c := ctxOf s pcid; if c.prot then BitVec.ofNat 6 c.key else 0

/-- Whether a core may run a context's units now: its cluster is in their domain and mask, and is not being cleared (R458, R459). -/
def coreOpen (s : State) (pcid core : Nat) : Bool :=
  aget 0 s.domains (core / 8) = domOf s pcid && clusterOk s pcid (core / 8) && !(aget false s.clearing (core / 8))

end Sys2Proof.Machine
end

