-- ==== Sys2Proof/Machine/Fit.lean ====
section
/-! DEFINITION. The shape of a workgroup, and where a gang fits (spec/01_machine.md R15, R16, R18 to R21;
spec/10_synchronisation.md R291; spec/14_queue_commands.md R387, R397, R398; spec/16_protection_links.md R458). -/

namespace Sys2Proof.Machine

/-- ⌈a / b⌉. -/
def ceilNat (a b : Nat) : Nat := (a + b - 1) / b

/-- The groups on each core of a run of n cores (R21). -/
def groupSplit (groups n : Nat) : List Nat := (below n).map fun i => groups / n + (if i < groups % n then 1 else 0)

/-- A core's share of a scratchpad demand for c of the groups, rounded up to 1 KiB (R21). -/
def padShare (scratch groups c : Nat) : Nat := ceilNat (scratch * c) (1024 * groups) * 1024

/-- Whether the groups and the scratchpad of each core of a run of n cores fit a core when it is empty. -/
def shapeFits (k : KDesc) (n : Nat) : Bool :=
  (groupSplit k.groups n).all fun c => c ≤ 16 && c * regBytes k.regs ≤ regFile && padShare k.scratch k.groups c ≤ padFile

/-- The groups on each core of a workgroup's run: the fewest cores on which its demand fits when they are empty (R21). -/
def shapeOf (k : KDesc) : Option (List Nat) := ((upto 1 4).find? (shapeFits k)).map (groupSplit k.groups)

/-- What a core has in use: slots, bytes of the register file and of the scratchpad, matrix contexts. -/
structure CoreUse where
  groups : Nat
  regs : Nat
  pad : Nat
  ctxs : Nat
  deriving DecidableEq, Repr, Inhabited

def useNone : CoreUse := { groups := 0, regs := 0, pad := 0, ctxs := 0 }

/-- What a workgroup demands of each core of its run: groups, and bytes of scratchpad. -/
abbrev Demand := List (Nat × Nat)

/-- The demand of a fresh workgroup with these groups on each core (R21). -/
def demandOf (k : KDesc) (counts : List Nat) : Demand := counts.map fun c => (c, padShare k.scratch k.groups c)

/-- A core's use with one part of a demand more. -/
def addUse (k : KDesc) (d : Nat × Nat) (u : CoreUse) : CoreUse :=
  { groups := u.groups + d.1, regs := u.regs + d.1 * regBytes k.regs, pad := u.pad + d.2, ctxs := u.ctxs + (if k.accs then 1 else 0) }

/-- The limits of R18 to R20. -/
def useOk (u : CoreUse) : Bool := u.groups ≤ 16 && u.regs ≤ regFile && u.pad ≤ padFile && u.ctxs ≤ 2

/-- The cell of a core within which a latency class keeps a whole gang (R291). -/
def cellOf (latency core : Nat) : Nat :=
  if latency = 1 then core else if latency = 2 then core / 8 else if latency = 4 then 0 else core / 72

/-- The first cores of the runs of n cores, in the clusters that `ok` names (R16). -/
def runStarts (ok : Nat → Bool) (n : Nat) : List Nat :=
  (below 18).flatMap fun cl => if ok cl then (below (9 - n)).map fun j => 8 * cl + j else []

/-- Whether a demand has room on the run from a core. -/
def runFits (k : KDesc) (d : Demand) (use : Nat → CoreUse) (start : Nat) : Bool :=
  (below d.length).all fun i => useOk (addUse k (d.getD i (0, 0)) (use (start + i)))

/-- The use after the placement of a demand on the run from a core. -/
def runUse (k : KDesc) (d : Demand) (use : Nat → CoreUse) (start c : Nat) : CoreUse :=
  if start ≤ c && c < start + d.length then addUse k (d.getD (c - start) (0, 0)) (use c) else use c

/-- Whether a run lies in one cell. -/
def runCell (latency n start cell : Nat) : Bool := (below n).all fun i => cellOf latency (start + i) = cell

/-- The lowest runs with room for workgroups of these demands, all in the cell of the first (R398). -/
def planGo (k : KDesc) (ok : Nat → Bool) : (Nat → CoreUse) → Option Nat → List Demand → Option (List Nat)
  | _, _, [] => some []
  | use, cell, d :: rest =>
    let fits (st : Nat) : Bool := runCell k.latency d.length st (cell.getD (cellOf k.latency st)) && runFits k d use st
    match (runStarts ok d.length).find? fits with
    | none => none
    | some st => (planGo k ok (runUse k d use st) (some (cell.getD (cellOf k.latency st))) rest).map (st :: ·)

/-- The number of workgroups of a gang (R70). -/
def gangSize (k : KDesc) : Nat := max k.gang 1

/-- The demands of a fresh gang; none where a workgroup fits no run. -/
def gangDemand (k : KDesc) : Option (List Demand) := (shapeOf k).map fun c => List.replicate (gangSize k) (demandOf k c)

/-- The fit check of a launch on an empty chip: its failure code (R21, R291, R384). Any placement that keeps the class
counts, so each cell is tried. -/
def fitCode (k : KDesc) (ok : Nat → Bool) : Option Nat :=
  match gangDemand k with
  | none => some 5
  | some ds =>
    let starts := runStarts ok (ds.headD []).length
    if starts.isEmpty then some 5
    else if starts.any fun st => (planGo k ok (fun _ => useNone) (some (cellOf k.latency st)) ds).isSome then none
    else some 6

end Sys2Proof.Machine
end

