-- ==== Sys2Proof/Machine/Access.lean ====
section
/-! DEFINITION. Memory accesses of groups: translation registers, the checks of each lane, where its bytes lie, watchpoints,
what a load returns and what a store emits (spec/07_memory_access.md R207 to R217, R222; spec/06_capabilities.md R174,
R175; spec/08_sequential_order.md R237 to R248; spec/15_traps_contexts.md R418). -/

namespace Sys2Proof.Machine

/-! Translation registers (R207, R208). -/

/-- An empty b register. -/
def bNone : BReg :=
  { cap := capNull, frame := 0, limit := 0, rd := false, wr := false, host := false, uc := false, scope := 0, an := false,
    anchor := 0, key := 0, here := false, stale := false, base := 0, size := 0 }

/-- A b register. -/
def bGet (g : GCore) (n : Nat) : BReg := aget bNone g.b n

/-- A limit from a distance. -/
def limOf (v : Int) : Word := BitVec.ofNat 32 (min v.toNat (2 ^ 32 - 1))

/-- The translation that XLATE makes of a checked capability (R208). -/
def xlateReg (s : State) (g : Grp) (x : Cap) : State × BReg :=
  let a := cAddr x
  if cSP x || a.testBit 56 then (s, { bNone with cap := x, limit := limOf (capTop x - a) })
  else if a / 2 ^ 57 != 0 then (s, { bNone with cap := x })
  else
    let pcid := pcidOf s g.launch
    let c := ctxOf s pcid
    match leafFor s c pcid false a with
    | (s1, .error _) => (s1, { bNone with cap := x })
    | (s1, .ok l) =>
      let some_ := [accRead, accWrite, accFetch].any fun k => match leafCheck s1 c.key l a k with | .ok () => true | .error _ => false
      let scope := match scopeCheck (agtOf s1 g) l false 0 with | .ok none => true | _ => false
      if !some_ || !scope || (l.host && !hostOkL s1 g.launch) then (s1, { bNone with cap := x })
      else
        (s1, { cap := x, frame := (l.loc a).a, limit := limOf (min ((l.base + l.size : Nat) - (a : Int)) (capTop x - a)), rd := l.rd,
               wr := l.wr, host := l.host, uc := l.uc, scope := BitVec.ofNat 3 l.scope, an := l.an,
               anchor := BitVec.ofNat 8 l.anchor, key := BitVec.ofNat 6 l.key, here := true, stale := false,
               base := l.base, size := l.size })

/-- A stale b register is translated again before it is used (R207). -/
def freshB (s : State) (g : Grp) (n : Nat) : State × Grp :=
  let b := bGet g.g n
  if !b.stale then (s, g)
  else
    let (s1, b1) := xlateReg s g b.cap
    match grpOf s1 g.uid with
    | none => (s1, g)
    | some h =>
      let h1 := { h with g := { h.g with b := aset bNone h.g.b n b1 } }
      (setGrp s1 h1, h1)

/-! Where an access lies. -/

/-- A piece of an access within one page: its place, its bytes, whether the page is uncached, the translation entry that it used
(R206), what authorises it at another node, and the version of the sub-page there (R248). -/
structure Piece where
  loc : Loc
  n : Nat
  uc : Bool
  page : Option (Nat × Nat × Nat)
  au : Auth
  stamp : Word
  deriving DecidableEq, Repr, Inhabited

/-- One lane's access: the lane, its capability, its exact address, its bytes, and the b register with the offset u(off). -/
structure Acc where
  l : Nat
  x : Cap
  va : Int
  n : Nat
  b : Option (BReg × Nat)
  deriving DecidableEq, Repr, Inhabited

/-- What remote pieces need before the access can take its place (R215, R217, R255). -/
inductive RemoteUse where
  | load | loadDirect | store | atomic | red
  deriving DecidableEq, Repr

/-- What every lane of an instruction asks (R177, R205, R213). `caps` marks bytes that are read as 16-byte capabilities (R298). -/
structure AccSpec where
  need : List Nat
  access : Nat
  cap16 : Bool := false
  caps : Bool := false
  align : Nat := 1
  sp : Option Bool := none
  stated : Nat := 0
  use : RemoteUse := .load
  atom : Nat := 4

/-- When the places of an access are asked for: for a window; for a whole lane that is then performed outside windows event by event; for
one such event (R217, R222, R231). -/
inductive ResMode where
  | window | whole | unit
  deriving DecidableEq, Repr

/-- What the remote pieces need then: a load outside windows asks each unit's data when its event comes. -/
def RemoteUse.at_ (u : RemoteUse) (m : ResMode) : RemoteUse :=
  if u != .load then u else match m with | .window => .load | .whole => .atomic | .unit => .loadDirect

/-- The largest single-copy atomic unit of an access: 16 bytes for a capability, else as its atomicity says (R216). -/
def AccSpec.unit (sp : AccSpec) : Nat := if sp.cap16 || sp.caps then 16 else sp.atom

/-- The bytes of the next single-copy atomic event of an access, i of them done, in units of at most `au` bytes (R216); 0 stands for one
event of the whole access. -/
def eventBytes (au : Nat) (a : Acc) (i : Nat) : Nat :=
  if au = 0 then a.n
  else if au > 4 && (a.va + i) % au = 0 && a.n - i ≥ au then au
  else min (a.n - i) (4 - ((a.va + i) % 4).toNat)

/-- The part of an access that its next event covers. -/
def Acc.unit (a : Acc) (au i : Nat) : Acc := { a with va := a.va + i, n := eventBytes au a i, b := a.b.map fun p => (p.1, p.2 + i) }

/-- The direct path of R209, when the bytes lie under the limit. The carve-out of R22 is outside it as it is outside the TLB path. -/
def directPath (s : State) (g : Grp) (b : BReg) (off : Nat) (a : Acc) (sp : AccSpec) : Option (Except TrapInfo (List Piece)) :=
  if !b.here || off + a.n > b.limit.toNat then none
  else
    let va := a.va.toNat
    let f (k d : Nat) : Option (Except TrapInfo (List Piece)) := some (.error { xlFault k d sp.access va false with cap := b.cap })
    if !b.host && !(isHbm (b.frame + off) && isHbm (b.frame + off + a.n - 1)) then f kPage 7
    else if (sp.access = accRead || sp.access = accAtomic) && !b.rd then f kPage 5
    else if (sp.access = accWrite || sp.access = accAtomic) && !b.wr then f kPage 4
    else if sp.stated != 0 && b.scope.toNat > sp.stated then f kScope 2
    else if b.host && !hostOkL s g.launch then f kScope 1
    else some (.ok [{ loc := { sp := if b.host then .host else .hbm, a := b.frame + off }, n := a.n, uc := b.uc,
                      page := some (2 * pcidOf s g.launch, b.base, b.size), au := { cap := a.x, stated := sp.stated }, stamp := 0 }])

/-- The pieces of n bytes at va, page by page (R197, R202 to R205). -/
def pieces (s : State) (g : Grp) (x : Cap) (va0 va : Nat) (sp : AccSpec) : Nat → Nat → Got (List Piece)
  | 0, _ => .ok s []
  | fuel + 1, n =>
    if n = 0 then .ok s []
    else
      let k := if cSP x then n else min n (4096 - va % 4096)
      let pod : Bool := !cSP x && va / 2 ^ 56 = 1
      let au : Auth := { cap := x, stated := sp.stated }
      match target s (agtOf s g) x va sp.access sp.stated (gangWg s g.gang) with
      | .wait s1 => .wait s1
      | .fault s1 t => .fault s1 { t with addr := va0, cap := x }
      | .ok s1 (.there node off) =>
        (pieces s1 g x va0 (va + k) sp fuel (n - k)).bind fun s2 l =>
          .ok s2 ({ loc := { sp := .remote node, a := off }, n := k, uc := false, page := none, au := au, stamp := 0 } :: l)
      | .ok s1 (.here l leaf) =>
        let uc := match leaf with | some f => f.uc | none => false
        (pieces s1 g x va0 (va + k) sp fuel (n - k)).bind fun s2 r =>
          .ok s2 ({ loc := l, n := k, uc := uc, page := leaf.map fun f => (2 * pcidOf s1 g.launch + (if pod then 1 else 0), f.base, f.size),
                    au := au, stamp := 0 } :: r)

/-- Whether a guest line is at hand that its home has sent under this authorisation. -/
def allowed (x : Option GuestLine) (au : Auth) : Bool := match x with | some l => l.auths.contains au | none => false

/-- A piece as its home has answered for it: uncached, or with the version of its sub-page. -/
def Piece.answered (p : Piece) : ApAns → Piece
  | .uncached => { p with uc := true }
  | .data b _ => { p with stamp := BitVec.ofNat 32 (leNat b) }
  | _ => p

/-- The answers that a remote piece needs: guest lines for a load, the home's check for a store, the data itself outside windows
(R215, R217, R248, R255). -/
def remotePiece (s : State) (g : Grp) (sp : AccSpec) (va : Nat) (p : Piece) : Got Piece :=
  match p.loc.sp with
  | .remote node =>
    let pc := pcidOf s g.launch
    let ask_ (s : State) (off : Nat) (k : ApKind) : Got ApAns :=
      match ask s p.au g.uid pc node off k with
      | (s1, none) => .wait s1
      | (s1, some (.fault kd d m)) => .fault s1 (ansFault kd d m sp.access va)
      | (s1, some a) => .ok s1 a
    let fill (t : State) (q : Piece) (k : Nat) : Got Piece :=
      let lo := max p.loc.a (128 * k)
      (ask_ t (128 * k) (.fill (lo - 128 * k) (min (p.loc.a + p.n) (128 * k + 128) - lo))).bind fun t1 a => .ok t1 (q.answered a)
    match sp.use with
    | .store => (ask_ s p.loc.a (.check .write p.n)).bind fun t a => .ok t (p.answered a)
    | .loadDirect =>
      if sp.cap16 || sp.caps then (below (p.n / 16)).foldl (fun r j => r.bind fun t q => (ask_ t (p.loc.a + 16 * j) .capRead).bind fun t1 _ => .ok t1 q) (.ok s p)
      else (ask_ s p.loc.a (.read p.n)).bind fun t _ => .ok t p
    | .atomic => .ok s p
    | .red => (ask_ s p.loc.a (.check .atomic p.n)).bind fun t a => .ok t (p.answered a)
    | .load =>
      let ls := upto (p.loc.a / 128) ((p.loc.a + p.n - 1) / 128 + 1 - p.loc.a / 128)
      ls.foldl (fun r k => r.bind fun t q =>
        match guestAt t pc node (128 * k) with
        | some x => if x.auths.contains p.au then .ok t { q with stamp := x.stamp } else fill t q k
        | none => fill t q k) (.ok s p)
  | _ => .ok s p

/-- The answers that the remote pieces of an access need. -/
def remoteReady (s : State) (g : Grp) (sp : AccSpec) (va : Nat) : List Piece → Got (List Piece)
  | [] => .ok s []
  | p :: rest => (remotePiece s g sp va p).bind fun s1 q => (remoteReady s1 g sp va rest).bind fun s2 l => .ok s2 (q :: l)

/-- Whether the memory instruction about to execute is the load whose data failed its integrity check (R250). -/
def integDue (g : Grp) : Bool :=
  match g.integ with
  | none => false
  | some (st, n) => match g.wins.reverse with
    | w :: _ => if w.closed || w.count ≥ 64 then g.rbNext = st && n = 1 else w.start = st && w.count + 1 = n
    | [] => g.rbNext = st && n = 1

/-- The checks of one lane in the order of R217, and where its bytes lie; then damaged storage and the integrity of a load's data (R250, R410). -/
def resolveAcc (s : State) (g : Grp) (sp : AccSpec) (a : Acc) : Got (List Piece) :=
  match checkUse a.x sp.need a.va a.n sp.access sp.cap16 sp.sp (gangPad s g.gang) with
  | .error t => .fault s t
  | .ok () =>
    match check7 s (pcidOf s g.launch) a.x a.va.toNat sp.access with
    | some t => .fault s { t with cap := a.x }
    | none =>
    if a.va % sp.align != 0 then .fault s (capFault a.x 13 a.va sp.access)
    else
      let slow : Got (List Piece) := pieces s g a.x a.va.toNat a.va.toNat sp (a.n / 4096 + 2) a.n
      let r : Got (List Piece) := match a.b with
        | some (b, off) => match directPath s g b off a sp with | some (.ok ps) => .ok s ps | some (.error t) => .fault s t | none => slow
        | none => slow
      match r with
      | .wait s1 => .wait s1
      | .fault s1 t => .fault s1 t
      | .ok s1 ps0 =>
        match remoteReady s1 g sp a.va.toNat ps0 with
        | .ok s2 ps =>
          let bad : Option Nat := if sp.access = accRead || sp.access = accAtomic then ps.findSome? fun p => spoilAt s2 p.loc p.n else none
          if bad.isSome then .fault s2 { kind := kSpoiled, detail := bad.getD 0, access := sp.access, addr := modPow a.va 64, cap := a.x }
          else if sp.access = accRead && integDue g then .fault s2 { kind := kIntegrity, detail := 1, access := accRead, addr := modPow a.va 64, cap := a.x } else .ok s2 ps
        | .fault s2 t => .fault s2 { t with cap := a.x }
        | .wait s2 => .wait s2

/-- A lane with its outcome. -/
abbrev Resolved := Acc × Except TrapInfo (List Piece)

/-- Every lane resolved in ascending order; false when some lane waits for an answer. -/
def resolveAll (s : State) (res : State → Acc → Got (List Piece)) : List Acc → State × List Resolved × Bool
  | [] => (s, [], true)
  | a :: l =>
    match res s a with
    | .ok s1 ps => let (s2, r, ok) := resolveAll s1 res l; (s2, (a, .ok ps) :: r, ok)
    | .fault s1 t => let (s2, r, ok) := resolveAll s1 res l; (s2, (a, .error t) :: r, ok)
    | .wait s1 => let (s2, r, _) := resolveAll s1 res l; (s2, r, false)

/-- The passing lanes with their places. -/
def passing (rs : List Resolved) : List (Acc × List Piece) := rs.filterMap fun (a, e) => match e with | .ok ps => some (a, ps) | .error _ => none

/-- The one trap of the failing lanes (R217): the kind, detail and capability of the lowest failing lane. -/
def laneTrap (rs : List Resolved) : Option TrapInfo :=
  let bad := rs.filterMap fun (a, e) => match e with | .ok _ => none | .error t => some (a.l, t)
  match bad with
  | [] => none
  | (_, t) :: _ =>
    let kind := bad.filter fun p => p.2.kind = t.kind
    some { t with mask := maskOf ((kind.map (·.1)).contains ·), undone := maskOf ((bad.map (·.1)).contains ·) }

/-! Watchpoints (R418). -/

/-- The watchpoint that an access at an address matches. Scratchpad addresses are not virtual addresses (log 18). -/
def watchOf (g : Grp) (access : Nat) (x : Cap) (va : Int) : Option Nat :=
  (below 4).find? fun w =>
    let lo := aget 0 g.watch (2 * w)
    let hi := aget 0 g.watch (2 * w + 1)
    lo.getLsbD 2 && ((lo.getLsbD 0 && (access = accRead || access = accAtomic)) || (lo.getLsbD 1 && (access = accWrite || access = accAtomic)))
    && !cSP x && va / 64 = (hi.toNat * 2 ^ 32 + lo.toNat / 64 * 64 : Nat) / 64

/-- The WATCH trap of an instruction: the lowest watchpoint that some lane matches, with the lanes that match it. -/
def watchTrap (g : Grp) (noWatch : Bool) (access : Nat) (act : LaneMask) (accs : List Acc) : Option TrapInfo :=
  if noWatch then none
  else
    let hits := accs.filterMap fun a => (watchOf g access a.x a.va).map fun w => (a, w)
    match (hits.map (·.2)).min? with
    | none => none
    | some w =>
      let ls := hits.filter fun p => p.2 = w
      let a := (ls.headD default).1
      some { kind := kWatch, detail := w, access := access, cap := a.x, addr := modPow a.va 64, mask := maskOf ((ls.map (·.1.l)).contains ·), undone := act }

/-! Loads and stores in a window or outside (R240, R245, R248, R255). -/

/-- What a group reads: its view of this node. -/
structure View where
  s : State
  g : Grp
  r : Ram
  direct : Bool
  got : List (Loc × List Byte × Bool)

def viewOf (s : State) (g : Grp) (mode : MemMode) (got : List (Loc × List Byte × Bool) := []) : View :=
  { s := s, g := g, r := viewRam s g, direct := mode != .window, got := got }

/-- The bytes of a piece as the group sees them; outside windows, units read before keep what their events gave. -/
def View.bytes (v : View) (p : Piece) : List Byte :=
  if !v.got.isEmpty then (v.got.filter fun e => e.1.sp = p.loc.sp && p.loc.a ≤ e.1.a && e.1.a < p.loc.a + p.n).flatMap (·.2.1)
  else match p.loc.sp with
    | .remote node =>
      if v.direct then
        (match answerTo v.s v.g.uid node p.loc.a (.read p.n) with
         | some (.data d _) => (d ++ List.replicate p.n 0).take p.n
         | _ => List.replicate p.n 0)
      else ramRead (viewGuest v.s v.g node) (hbmLoc p.loc.a) p.n
    | _ => ramRead v.r p.loc p.n

/-- The little-endian number in an access. -/
def View.nat (v : View) (ps : List Piece) : Nat := leNat (ps.flatMap v.bytes)

/-- The granule of a piece with its tag as the group sees it. -/
def View.granule (v : View) (p : Piece) : Cap :=
  match v.got.find? fun e => e.1 = p.loc with
  | some e => { bits := BitVec.ofNat 128 (leNat e.2.1), tag := e.2.2 }
  | none => match p.loc.sp with
    | .remote node =>
      if v.direct then
        (match answerTo v.s v.g.uid node p.loc.a .capRead with
         | some (.data d t) => { bits := BitVec.ofNat 128 (leNat d), tag := t }
         | _ => capNull)
      else ramReadCap (viewGuest v.s v.g node) (hbmLoc p.loc.a)
    | _ => ramReadCap v.r p.loc

/-- A capability load (R175, R191) through x. -/
def View.cap (v : View) (x : Cap) (ps : List Piece) : Cap :=
  match ps with
  | [] => capNull
  | p :: _ =>
    let raw := v.granule p
    let keep : Bool := cHas x pLOADCAP && p.loc.sp != .host
    barrier v.s (pcidOf v.s v.g.launch) { raw with tag := raw.tag && keep }

/-- The lines of this node that an access touches. -/
def pieceLines (s : State) (p : Piece) : List Loc := match p.loc.sp with | .remote _ => [] | _ => linesOf s.ram p.loc p.n

/-- Notes what a window has read: lines, remote sub-pages with their stamps, those that it is to write too, and pages (R206, R217, R245,
R248). -/
def noteAccess (s : State) (uid : Nat) (mode : MemMode) (read : Bool) (ps : List Piece) : State :=
  match mode with
  | .window =>
    let xl := ps.filterMap (·.page)
    let lines := if read then ps.flatMap (pieceLines s) else []
    let s := shareHost s lines
    let rem : List RemoteRead := ps.flatMap fun p => match p.loc.sp with
      | .remote node => (upto (p.loc.a / 4096) ((p.loc.a + p.n - 1) / 4096 + 1 - p.loc.a / 4096)).map fun k => { node := node, sub := k, stamp := p.stamp }
      | _ => []
    modGrp s uid fun g => modExec g fun w =>
      { w with reads := (lines ++ w.reads).eraseDups, xl := (xl ++ w.xl).eraseDups, lastLoad := if read then w.count else w.lastLoad, remote := (rem ++ w.remote).eraseDups }
  | _ => s

/-- Notes the granule behind a tagged capability that a window has loaded (R191). -/
def noteGran (s : State) (uid : Nat) (mode : MemMode) (v : Cap) : State :=
  match mode, grpOf s uid with
  | .window, some g => match baseGran s (pcidOf s g.launch) v with
    | some k => modGrp s uid fun g => modExec g fun w => { w with grans := (k :: w.grans).eraseDups }
    | none => s
  | _, _ => s

/-- Stores bytes to the pieces of an access, in address order. -/
def emitBytes (s : State) (uid : Nat) (mode : MemMode) : List Piece → List Byte → State
  | [], _ => s
  | p :: ps, b =>
    let o : BufOp := match p.loc.sp with
      | .remote node => .remote node p.loc.a p.n p.au (.write (b.take p.n))
      | _ => .write p.loc (b.take p.n) 0
    emitBytes (emit s uid mode o) uid mode ps (b.drop p.n)

/-- Stores a capability (R174). -/
def emitCap (s : State) (uid : Nat) (mode : MemMode) (ps : List Piece) (v : Cap) : State :=
  match ps with
  | p :: _ => emit s uid mode (match p.loc.sp with | .remote node => .remote node p.loc.a 16 p.au (.capWrite v) | _ => .writeCap p.loc v)
  | [] => s

/-- The conditions of R174 on the value v of a capability store through x; a remote granule's home makes its own (R176). -/
def storeCapCheck (s : State) (g : Grp) (x v : Cap) (va : Int) (ps : List Piece) : Got Unit :=
  if !v.tag then .ok s ()
  else if !cHas x pSTORECAP then .fault s (capFault x 3 va accWrite pSTORECAP)
  else if !cHas v pGLOBAL && !cHas x pSTORELOCAL then .fault s (capFault x 9 va accWrite)
  else
    let bad : Bool := ps.any fun p => match p.loc.sp with
      | .host => true
      | .hbm => cSP v && (match (resolve s.ram p.loc).sp with
          | .pad w => !((match gangBy s g.gang with | some x => x.wgs | none => []).contains w)
          | _ => true)
      | .pad _ => false
      | .remote _ => cSP v
    if bad then .fault s (capFault x 8 va accWrite)
    else ps.foldl (fun r p => r.bind fun t _ => match p.loc.sp with
      | .remote node => match ask t p.au g.uid (pcidOf t g.launch) node p.loc.a (.check (.storeCap (cHas v pGLOBAL) (cSP v)) 16) with
        | (t1, none) => .wait t1
        | (t1, some (.fault kd d m)) => .fault t1 { ansFault kd d m accWrite va.toNat with cap := x }
        | (t1, some _) => .ok t1 ()
      | _ => .ok t ()) (.ok s ())

/-- How a memory instruction goes on in a window once its lanes are resolved: it opens or joins one, or waits for a held line (R222, R237,
R242, R243). `vs` are the registers that need checkpoints. -/
def enterMem (s : State) (g : Grp) (ps : List Piece) (vs qs : List Nat) (wait : State → α) (k : State → Grp → α) : α :=
  match blocked s g.uid false (ps.flatMap (pieceLines s)) with
  | some s1 => wait s1
  | none => match openWin s g with
    | (s1, g1, .window) => (match takeCkpt s1 g1 vs qs with
      | none => wait (setGrp s1 { g1 with wins := closeWins g1.wins })
      | some g2 => k (setGrp s1 g2) g2)
    | (s1, g1, _) => wait (setGrp s1 g1)

/-- How an access outside windows starts: in SOLO mode, or, for an uncached page, as an irrevocable instruction, which commits every
window, joins multicast threads, and is illegal in an idempotent region (R222, R241, R255, R273, R429). -/
def enterDirect (s : State) (g : Grp) (uc : Bool) (wait : State → α) (bad : State → TrapInfo → α) (k : State → Grp → α) : α :=
  if uc && g.region.isSome && g.frame.isNone then bad s { kind := kIllegal, detail := 11 }
  else if !g.wins.isEmpty then wait (commitAll s g.uid).1
  else if uc && mcastBusy s g.uid then wait s
  else k s g

/-- One event read outside windows: the places with their bytes and tags. -/
def unitRead (s : State) (g : Grp) (cap : Bool) (ps : List Piece) : List (Loc × List Byte × Bool) :=
  let v := viewOf s g .direct
  ps.map fun p => if cap then (p.loc, leBytes 16 (v.granule p).bits.toNat, (v.granule p).tag) else (p.loc, v.bytes p, false)

/-- The units read so far as pieces; adjoining units join. -/
def Part.pieces (p : Part) : List Piece :=
  p.got.foldr (fun e r =>
    let one (n : Nat) : Piece := { loc := e.1, n := n, uc := false, page := none, au := default, stamp := 0 }
    match r with
    | q :: l => if q.loc = { e.1 with a := e.1.a + e.2.1.length } then one (e.2.1.length + q.n) :: l else one e.2.1.length :: r
    | [] => [one e.2.1.length]) []

/-- The record of one lane's access under way, or a fresh one. -/
def partOf (p : Option Part) (l : Nat) : Part :=
  match p with
  | some q => if q.lane = l then q else { lane := l, got := [], done := 0 }
  | none => { lane := l, got := [], done := 0 }

/-! Scalar accesses (R220, R221). -/

/-- No later check of a scalar access. -/
def noPost (s : State) (_ps : List Piece) : Got Unit := .ok s ()

/-- The record of a scalar access under way outside windows. -/
def setPart (s : State) (uid idx : Nat) (p : Option Part) : State :=
  modGrp s uid fun g => { g with g := g.g.modSplit idx fun y => { y with part := p } }

/-- The next event of a scalar access outside windows (R231). -/
def scalarDirect (s : State) (g : Grp) (x : Split) (sp : AccSpec) (a : Acc) (res : ResMode → State → Acc → Got (List Piece))
    (eff : State → Grp → MemMode → Part → List Piece → Fin) : Fin :=
  let p := partOf x.part 0
  let c := a.unit sp.unit p.done
  match (res .whole s a).bind fun t _ => res .unit t c with
  | .wait s1 => .again s1
  | .fault s1 t => .trap (setPart (dropAns s1 g.uid) g.uid x.idx none) t
  | .ok s1 ps => match blocked s1 g.uid (sp.access != accRead) (ps.flatMap (pieceLines s1)) with
    | some s2 => .again s2
    | none =>
      let load : Bool := sp.access = accRead
      let q : Part := { p with got := if load then p.got ++ unitRead s1 g (sp.cap16 || sp.caps) ps else p.got, done := p.done + c.n }
      let last : Bool := q.done ≥ a.n
      let s2 := setPart s1 g.uid x.idx (if last then none else some q)
      let go (q : Part) (ps : List Piece) : Fin := match grpOf s2 g.uid with | some g2 => eff s2 g2 .direct q ps | none => .again s2
      if load then (if last then go q q.pieces else .again (dropAns s2 g.uid))
      else if last then go p ps
      else match go p ps with | .ret s3 _ _ => .again s3 | r => r

/-- A scalar access: its effect on its resolved place. Outside windows each event takes a turn (R231), and `eff` is told what earlier
ones have done. -/
def scalarMem (s : State) (g : Grp) (x : Split) (sp : AccSpec) (a : Acc) (post : State → List Piece → Got Unit)
    (eff : State → Grp → MemMode → Part → List Piece → Fin) : Fin :=
  match watchTrap g x.noWatch sp.access x.act [a] with
  | some t => .trap s t
  | none =>
    let res (m : ResMode) (s : State) (c : Acc) : Got (List Piece) :=
      (resolveAcc s g { sp with use := sp.use.at_ m, align := if m = .unit then 1 else sp.align } c).bind fun t ps =>
        if m = .unit then .ok t ps else (post t ps).bind fun u _ => .ok u ps
    let direct (uc : Bool) (s : State) (g : Grp) : Fin := enterDirect s g uc .again .trap fun s g => scalarDirect s g x sp a res eff
    if x.part.isSome then scalarDirect s g x sp a res eff
    else if soloOn g then direct false s g
    else match res .window s a with
      | .wait s1 => .again s1
      | .fault s1 t => .trap (dropAns s1 g.uid) t
      | .ok s1 ps =>
        match grpOf s1 g.uid with
        | none => .again s1
        | some g1 =>
          if ps.any (·.uc) then direct true s1 g1
          else enterMem s1 g1 ps [] [] .again fun s2 g2 =>
            eff (noteAccess s2 g.uid .window (sp.access = accRead) ps) g2 .window (partOf none 0) ps

/-- The address of SLDC and SSTC. -/
def scapAddr (x : Split) (ca : CReg) (sb : SReg) (f : BitVec 9) : Int := cAddr (cGet x ca) + sI (sGet x sb) + 16 * f.toInt

/-! Lane accesses (R213 to R217). -/

/-- What a lane memory instruction does in its passing lanes. Outside windows it is told what earlier events of the one lane have done. -/
abbrev LaneEff := State → Grp → MemMode → Part → List (Acc × List Piece) → State × LOut

/-- The first of these lanes that passes its checks, with the places of its next event, and the lanes that fail before it; a lane whose
answer is missing ends the search. -/
def firstLane (res : ResMode → State → Acc → Got (List Piece)) (au : Nat) (p : Option Part) :
    State → List Acc → List Resolved → Got (List Resolved × Option (Acc × List Piece))
  | s, [], bad => .ok s (bad, none)
  | s, a :: l, bad =>
    match (res .whole s a).bind fun t _ => res .unit t (a.unit au (partOf p a.l).done) with
    | .wait s1 => .wait s1
    | .fault s1 t => firstLane res au p s1 l (bad ++ [(a, .error t)])
    | .ok s1 ps => .ok s1 (bad, some (a, ps))

/-- The next event of a lane memory instruction outside windows (R231): the lanes that pass go one by one, then the others trap (R217). -/
def laneDirect (x : LX) (access au : Nat) (cap : Bool) (accs : List Acc) (res : ResMode → State → Acc → Got (List Piece)) (eff : LaneEff)
    (s : State) (g : Grp) : LFin :=
  match firstLane res au x.b.part s accs [] with
  | .wait s1 => .again s1
  | .fault s1 t => .trap s1 noOut t
  | .ok s1 (bad, none) => match laneTrap bad with
    | some t => .trap (dropAns s1 g.uid) noOut t
    | none => let r := eff s1 g .direct (partOf none 96) []; .ret r.1 r.2
  | .ok s1 (_, some (a, ps)) =>
    match blocked s1 g.uid (access != accRead) (ps.flatMap (pieceLines s1)) with
    | some s2 => .again s2
    | none =>
      let load : Bool := access = accRead
      let p := partOf x.b.part a.l
      let c := a.unit au p.done
      let q : Part := { p with got := if load then p.got ++ unitRead s1 g cap ps else p.got, done := p.done + c.n }
      let last : Bool := q.done ≥ a.n
      let r : State × LOut := if load then (if last then eff s1 g .direct q [(a, q.pieces)] else (s1, noOut)) else eff s1 g .direct p [(c, ps)]
      let s2 := dropAns r.1 g.uid
      let rest := x.act &&& ~~~(maskOf (· = a.l))
      if !last then .part s2 q else if rest = 0 then .ret s2 r.2 else .more s2 r.2 rest

/-- A lane memory instruction: every lane of `accs` checked by `res`, the passing lanes done by `eff`, one trap for the others. `au` is
the unit of R216, and `cap` says that it reads capabilities. -/
def laneMemBy (x : LX) (access au : Nat) (cap : Bool) (accs : List Acc) (res : ResMode → State → Acc → Got (List Piece)) (eff : LaneEff) : LFin :=
  match watchTrap x.g x.b.noWatch access x.act accs with
  | some t => .trap x.s noOut t
  | none =>
    let ws := writesOf (RawLane.ofWord x.w)
    let vs := ws.filter (· < 1000)
    let qs := (ws.filter fun n => 1000 ≤ n && n < 2000).map fun n => ckptQ (n - 1000)
    let direct (uc : Bool) (s : State) (g : Grp) : LFin :=
      enterDirect s g uc .again (fun t i => .trap t noOut { i with mask := x.act, undone := x.act }) (laneDirect x access au cap accs res eff)
    if x.b.part.isSome then laneDirect x access au cap accs res eff x.s x.g
    else if soloOn x.g then direct false x.s x.g
    else match resolveAll x.s (res .window) accs with
      | (s1, _, false) => .again s1
      | (s1, rs, true) =>
        match grpOf s1 x.g.uid with
        | none => .again s1
        | some g1 =>
          let ok := passing rs
          let ps := ok.flatMap (·.2)
          if ps.any (·.uc) then direct true s1 g1
          else enterMem s1 g1 ps vs qs .again fun s2 g2 =>
            let s3 := noteAccess s2 x.g.uid .window (access = accRead) ps
            let (s4, o) := eff s3 g2 .window (partOf none 96) ok
            let s5 := dropAns s4 x.g.uid
            match laneTrap rs with
            | none => .ret s5 o
            | some t => .trap s5 o t

/-- As `laneMemBy`, with the checks of R217 by a specification, and a later check of each lane (R174). -/
def laneMem (x : LX) (sp : AccSpec) (accs : List Acc) (post : State → Grp → Acc → List Piece → Got Unit) (eff : LaneEff) : LFin :=
  laneMemBy x sp.access sp.unit sp.cap16 accs (fun m s a =>
    (resolveAcc s x.g { sp with use := sp.use.at_ m } a).bind fun t ps =>
      if m = .unit then .ok t ps else (post t x.g a ps).bind fun u _ => .ok u ps) eff

/-- No later check. -/
def noCheck (s : State) (_g : Grp) (_a : Acc) (_ps : List Piece) : Got Unit := .ok s ()

end Sys2Proof.Machine
end

