-- ==== Sys2Proof/Machine/Image.lean ====
section
/-! DEFINITION. The bytes of save images: group records, registers, scratchpads and matrix contexts in a slot of the save pool
(spec/15_traps_contexts.md R422 to R427; spec/10_synchronisation.md R287, R294, R300; spec/11_matrix.md R330). The spec gives the parts of
a slot and of a group record; within a part the fields stand in the order in which it lists them (log 41). -/

namespace Sys2Proof.Machine

/-- The device physical address of a save slot (R422). -/
def imgBase (s : State) (slot : Nat) : Nat := s.chip.saveBase.toNat + slot * 2 ^ 23

/-- Bytes, and a capability with its tag, written at a device physical address. -/
def imgPut (s : State) (a : Nat) (b : List Byte) : State := { s with ram := { s.ram with hbm := wrBytes s.ram.hbm a b } }
def imgNat (s : State) (a n v : Nat) : State := imgPut s a (leBytes n v)
def imgGranule (s : State) (a : Nat) (c : Cap) : State :=
  let t := imgNat s a 16 c.bits.toNat
  { t with ram := { t.ram with tags := aset false t.ram.tags (a / 16) c.tag } }

/-- Fields one after another, each with its width in bytes. -/
def imgFields (s : State) (a : Nat) : List (Nat × Nat) → State
  | [] => s
  | (n, v) :: l => imgFields (imgNat s a n v) (a + n) l

/-- A slot with every byte and tag 0: unused space is written as zero (R424). -/
def imgClear (s : State) (base : Nat) : State :=
  { s with ram := { s.ram with hbm := s.ram.hbm.filter fun e => e.1 < base || base + 2 ^ 23 ≤ e.1,
                               tags := s.ram.tags.filter fun e => 16 * e.1 < base || base + 2 ^ 23 ≤ 16 * e.1 } }

/-- A row of 96 words in memory. -/
def rowBytes (r : Row) : List Byte := (below 96).flatMap fun l => leBytes 4 (rl r l).toNat
def imgRow (s : State) (a : Nat) (r : Row) : State := if r = zeroRow then s else imgPut s a (rowBytes r)
def rowAt (s : State) (a : Nat) : Row := rowFn fun l => BitVec.ofNat 32 (leNat (rdBytes s.ram.hbm (a + 4 * l) 4))

/-- What a split is doing, as a number. -/
def SplitSt.code : SplitSt → Nat
  | .ready => 0 | .merge => 1 | .rendezvous _ _ => 2 | .partner _ => 3 | .waitph _ _ _ _ => 4 | .yield _ => 5 | .handler => 6 | .attest _ _ _ => 7

/-! Group records (R425). -/

/-- The places of a group's record and of its v registers in its slot (R424). -/
def recAt (base : Nat) (g : Grp) : Nat := base + 0x10000 + 0x4000 * g.gidx
def regsAt (base : Nat) (g : Grp) : Nat := base + 0x110000 + regBytes g.regs * g.gidx

/-- A split state of 1 KiB: s1 to s63, c0 to c31, PCC, LCC. -/
def imgSplit (s : State) (a : Nat) (x : Split) : State :=
  let s1 := imgPut s (a + 4) ((upto 1 63).flatMap fun k => leBytes 4 (sGet x (BitVec.ofNat 6 k)).toNat)
  let s2 := (below 32).foldl (fun t k => imgGranule t (a + 256 + 16 * k) (cGet x (BitVec.ofNat 5 k))) s1
  imgGranule (imgGranule s2 (a + 768) x.pcc) (a + 784) x.lcc

/-- The part of a record from 0x1000: split table, k registers, dead mask, status, counts, b registers, watchpoints, tickets, NBR state, compaction
record, dormant flag and set-aside lane work. -/
def imgGroupPart (s : State) (a : Nat) (g : Grp) : State :=
  let c := g.g
  let s1 := imgFields s a (c.splits.flatMap fun x => [(1, x.idx), (1, x.st.code), (6, 0)])
  let s2 := imgFields s1 (a + 0x40) ((upto 1 15).map fun k => (12, (kGet c k).toNat))
  let s3 := imgFields s2 (a + 0x100) [(32, c.dead.toNat), (4, c.status.toNat), (4, g.rbcount.toNat), (4, g.solo.getD 0), (4, g.tceTicket.toNat),
    (4, g.ceTicket.toNat), (4, c.nbrSeq.toNat), (4, c.nbrPosted.toNat), (4, g.dormant.isSome.toNat)]
  let s4 := (below 8).foldl (fun t k => imgGranule t (a + 0x140 + 16 * k) (aget { (default : BReg) with cap := capNull } c.b k).cap) s3
  let s5 := imgFields s4 (a + 0x1C0) ((below 8).map fun k => (4, (aget 0 g.watch k).toNat))
  let s6 := match c.compact with
    | some r => imgFields s5 (a + 0x1E0) [(4, r.units.toNat), (4, r.partner), (12, (maskOf r.h.contains).toNat), (12, (maskOf r.s.contains).toNat)]
    | none => s5
  let s7 := imgFields s6 (a + 0x240) (g.posts.flatMap fun p => [(4, p.n.toNat), (4, p.lo.toNat), (4, p.hi.toNat), (4, p.dead.toNat)])
  imgFields s7 (a + 0x300) (((match g.frame with | some f => f.aside | none => []) ++ c.laneQ).flatMap fun b => [(8, b.pc), (8, b.next)])

/-- The trap frame and the fault record, from 0x1800. -/
def imgFrame (s : State) (a : Nat) (g : Grp) : State :=
  let s1 := imgFields s (a + 0x100) (g.frec.map fun w => (4, w.toNat))
  match g.frame with
  | some f => imgGranule (imgGranule (imgFields s1 a [(4, 1), (4, f.split), (4, f.kind), (12, f.act.toNat)]) (a + 0x20) f.pcc) (a + 0x30) f.lcc
  | none => s1

/-- The region entry record, from 0x1C00 (R429). -/
def imgRegion (s : State) (a : Nat) (r : Region) : State :=
  let s1 := imgFields s a [(4, r.kept.toNat), (4, r.status.toNat), (4, r.tce.toNat), (4, r.ce.toNat), (4, r.nbr.toNat), (12, r.act.toNat), (32, r.dead.toNat)]
  imgGranule (imgGranule s1 (a + 0x40) r.pcc) (a + 0x50) r.lcc

/-- A group written to its area of a slot: its record and its v registers (R287, R424, R425). -/
def imgGrp (s : State) (base : Nat) (g : Grp) : State :=
  let a := recAt base g
  let s1 := g.g.splits.foldl (fun t x => imgSplit t (a + 1024 * x.idx) x) s
  let s2 := imgFrame (imgGroupPart s1 (a + 0x1000) g) (a + 0x1800) g
  let s3 := match g.region with | some r => imgRegion s2 (a + 0x1C00) r | none => s2
  let s4 := imgFields s3 (a + 0x2000) ((below 64).map fun q => (12, (aget 0 g.g.qtags q).toNat))
  g.g.v.foldl (fun t e => imgRow t (regsAt base g + 384 * e.1) e.2) s4

/-- A group read back from its area as the image then stands: its scalar registers and its live v registers (R422, R427). -/
def grpBack (s : State) (base : Nat) (g : Grp) : Grp :=
  let split (x : Split) : Split :=
    { x with s := (upto 1 60).foldl (fun m k => aset 0 m k (BitVec.ofNat 32 (leNat (rdBytes s.ram.hbm (recAt base g + 1024 * x.idx + 4 * k) 4)))) [] }
  let v := ((below g.regs).filter fun n => !vDead g.g n).foldl (fun m n => aset zeroRow m n (rowAt s (regsAt base g + 384 * n))) []
  { g with g := { g.g with splits := g.g.splits.map split, v := v } }

/-! The rest of a slot (R424). -/

/-- The matrix context of a core: its collector, settings, counters, state and operations (R330). -/
def imgMat (s : State) (a : Nat) (c : MatCtx) : State :=
  let slice (t : State) (e : (List Row × Option Row) × Nat) : State :=
    let t1 := e.1.1.zipIdx.foldl (fun u r => imgRow u (a + 3072 * e.2 + 384 * r.2) r.1) t
    match e.1.2 with | some r => imgRow t1 (a + 0xC000 + 384 * e.2) r | none => t1
  let s1 := match c.coll with | some k => k.slices.zipIdx.foldl slice s | none => s
  let s2 := imgFields s1 (a + 0xD800) [(1, c.scale), (1, c.sreg), (1, c.rate), (1, c.trapOn.toNat), (4, c.stepCtr.toNat), (4, c.checkCtr.toNat), (2, c.step),
    (1, c.stopped.toNat), (1, c.col.toNat), (2, c.count.toNat), (2, c.colStep.toNat), (4, c.holder.getD 0), (4, match c.pending with | some p => p.kind + 256 * p.detail | none => 0)]
  (c.run.toList ++ c.queue).zipIdx.foldl (fun t o =>
    imgGranule (imgFields t (a + 0xD840 + 64 * o.2) [(12, o.1.word.toNat), (4, o.1.off.toNat), (4, o.1.inc.toNat), (4, o.1.count), (4, o.1.stride), (4, o.1.rowStride.toNat)])
      (a + 0xD840 + 64 * o.2 + 32) o.1.b.cap) s2

/-- The rows of an accumulator bank, and a bank read back. -/
def imgBank (s : State) (a : Nat) (c : MatCtx) : State := c.bank.foldl (fun t e => imgRow t (a + 384 * e.1) e.2) s
def bankBack (s : State) (a : Nat) : AList Row :=
  ((s.ram.hbm.filter fun e => a ≤ e.1 && e.1 < a + 0x48000).map fun e => (e.1 - a) / 384).eraseDups.foldl (fun m n => aset zeroRow m n (rowAt s (a + 384 * n))) []

/-- The header: who the workgroup is, its run, the flag (1 saved, 2 discarded), the mapping slots, the cores with a matrix context, and pending
stops. -/
def imgHead (s : State) (base : Nat) (w : Wg) (flag : Nat) : State :=
  let gangid := match gangBy s w.gang with | some x => x.gangid | none => 0
  let s1 := imgFields s base ([(2, pcidOf s w.launch), (6, w.launch), (4, w.wgid), (4, gangid), (4, w.perCore.length)] ++ w.perCore.map fun n => (1, n))
  let s2 := imgFields s1 (base + 0x40) [(4, flag), (4, (w.ctxs.map fun e => 2 ^ e.1).sum),
    (4, (s.tces.filter fun o => o.wg = w.uid && o.stop.isSome).length), (4, (s.ces.filter fun l => l.wg = w.uid && l.stop.isSome).length)]
  w.mapSave.foldl (fun t m => imgFields t (base + 0x80 + 16 * m.slot) [(8, m.pa), (4, m.off), (4, m.len)]) s2

/-- The tags and the span records of a scratchpad. -/
def imgTags (s : State) (base : Nat) (p : Pad) : State :=
  let bit (t : State) (k : Nat) : State := imgPut t (base + 0x6B0000 + k / 8) [rd8 t.ram.hbm (base + 0x6B0000 + k / 8) ||| BitVec.ofNat 8 (2 ^ (k % 8))]
  p.span.foldl (fun t e => imgNat t (base + 0x6B3000 + e.1) 1 e.2.toNat) ((p.tags.filter (·.2)).foldl (fun t e => bit t e.1) s)

/-- While a workgroup is saved, the scratchpad area of its image and its scratchpad are one storage: whatever an agent does to the one it does
to the other (R426). The entry stands in the ninth slot, which no MAP names. -/
def imgSlot : Nat := 8
def imgMap (s : State) (base : Nat) (w : Wg) : MapEnt := { wg := w.uid, slot := imgSlot, pa := base + 0x530000, off := 0, len := (padOf s.ram w.uid).size }

/-- The image of a workgroup is written to its slot (R423, R424). -/
def writeImage (s : State) (wg : Nat) : State :=
  match wgBy s wg with
  | none => s
  | some w => match w.slot with
    | none => s
    | some k =>
      let base := imgBase s k
      let gs := s.grps.filter fun g => g.wg = wg && !g.task && !g.ended
      let kept : Bool := gs.any fun g => g.saved
      let s1 := gs.foldl (fun t g => imgGrp t base g) (imgHead (imgClear s base) base w (if kept then 1 else 2))
      let s2 := w.ctxs.foldl (fun t e => imgMat (imgBank t (base + 0x410000 + 0x48000 * e.1) e.2) (base + 0x6B8000 + 0x10000 * e.1) e.2) s1
      let s3 := imgTags s2 base (padOf s.ram wg)
      { s3 with ram := { s3.ram with maps := s3.ram.maps ++ [imgMap s base w] } }

/-- The image of a workgroup is read back: registers and accumulators as they then stand (R422, R427). Its scratchpad is on the cores again. -/
def readImage (s : State) (wg : Nat) : State :=
  match wgBy s wg with
  | none => s
  | some w => match w.slot with
    | none => s
    | some k =>
      let base := imgBase s k
      let s1 := modWg s wg fun y => { y with ctxs := y.ctxs.map fun e => (e.1, { e.2 with bank := bankBack s (base + 0x410000 + 0x48000 * e.1) }) }
      unmapSlot { s1 with grps := updWhere (fun g => g.wg = wg && !g.task && g.saved && !g.ended) (grpBack s base) s1.grps } wg imgSlot

/-- A group that goes dormant writes its area of the slot, and reads it when it is reactivated (R287). -/
def sleepImage (s : State) (uid : Nat) : State :=
  match grpOf s uid with
  | none => s
  | some g => match if g.task then g.ySlot else (wgBy s g.wg).bind (·.slot) with
    | some k => imgGrp s (imgBase s k) g
    | none => s
def wakeImage (s : State) (uid : Nat) : State :=
  match grpOf s uid with
  | none => s
  | some g => match if g.task then g.ySlot else (wgBy s g.wg).bind (·.slot) with
    | some k => setGrp s (grpBack s (imgBase s k) g)
    | none => s

end Sys2Proof.Machine
end

