-- ==== Sys2Proof/Machine/Sync.lean ====
section
/-! DEFINITION. Barrier, wait and task instructions and their events (spec/10_synchronisation.md R277 to R301). -/

namespace Sys2Proof.Machine

/-! Barrier operations (R282 to R284). -/

/-- The access of a barrier instruction to its 16-byte object. -/
def barAcc (x : Split) (ca : CReg) : Acc := { l := 0, x := cGet x ca, va := cAddr (cGet x ca), n := 16, b := none }

/-- BINIT, ARRIVE and EXPECT check the object for an atomic access (R283). -/
def barSpec : AccSpec := { need := [pATOMIC, pLOAD, pSTORE], access := accAtomic, align := 16, sp := some true, use := .atomic, atom := 16 }

/-- WAITPH, WAITPHY and BTEST check it for a read (R283). -/
def waitSpec : AccSpec := { need := [pLOAD], access := accRead, align := 16, sp := some true, atom := 16 }

/-- A buffered barrier operation. -/
def barOp (s : State) (g : Grp) (x : Split) (ca : CReg) (op : BarOp) : Fin :=
  scalarMem s g x barSpec (barAcc x ca) noPost fun s g m _ ps =>
    match ps with
    | p :: _ => .ok (emit s g.uid m (.bar p.loc op))
    | [] => .ok s

/-- BINIT (R279). -/
def execBinit (ca : CReg) (sb : SReg) (z keep : Bool) (s : State) : Host.Outcome State Fault Refusal :=
  scalarStep s fun g x => barOp s g x ca (.init ((sGet x sb).extractLsb' 0 16) z keep)

/-- The byte count of ARRIVE and EXPECT (R282). -/
def barCount (x : Split) (sb : SReg) (w : Bool) : Int := if w then sgn 64 (sPair x sb) else uI (sGet x sb)

/-- ARRIVE (R279). -/
def execArrive (ca : CReg) (sb : SReg) (w : Bool) (s : State) : Host.Outcome State Fault Refusal :=
  scalarStep s fun g x => barOp s g x ca (.arrive (barCount x sb w))

/-- EXPECT (R279). -/
def execExpect (ca : CReg) (sb : SReg) (w : Bool) (s : State) : Host.Outcome State Fault Refusal :=
  scalarStep s fun g x => barOp s g x ca (.expect (barCount x sb w))

/-- BTEST (R285); it takes a pending stop first (R345). -/
def execBtest (ca : CReg) (sb sr : SReg) (s : State) : Host.Outcome State Fault Refusal :=
  scalarStep s fun g x =>
    match pendingStop s g with
    | some p => p.fin s
    | none => scalarMem s g x waitSpec (barAcc x ca) noPost fun s g m p ps =>
        .set s sr (barTest (Bar.of (ps.flatMap (viewOf s g m p.got).bytes)) (sGet x sb))

/-! WAITPH (R286). -/

/-- The object of a wait, checked (R283). -/
def waitObj (s : State) (g : Grp) (c : Cap) : Except TrapInfo Loc :=
  match checkUse c waitSpec.need (cAddr c) 16 accRead false (some true) (gangPad s g.gang) with
  | .error t => .error t
  | .ok () =>
    if cAddr c % 16 != 0 then .error (capFault c 13 (cAddr c) accRead)
    else match padLoc s g.gang (cAddr c) with
      | some l => .ok l
      | none => .error (capFault c 4 (cAddr c) accRead)

/-- The result of a wait on an object as a die sees it: 0 once the phase has passed, 1 for the error mark, none while the
wait goes on. A die with a proxy also waits for the proxy's copy of the phase (R286, R292). -/
def waitRes (s : State) (die : Nat) (l : Loc) (p : Word) : Option Word :=
  let r := barTest (barAt s.ram l) p
  let late : Bool := match l.sp with
    | .pad w => s.proxies.any fun x => x.wg = w && x.off = l.a && x.die = die && !passed x.phase p
    | _ => false
  if r = 2 || (r = 0 && late) then none else some r

/-- Whether the line of an object may be read now (R242). -/
def barFree (s : State) (uid : Nat) (l : Loc) : Bool := !heldLine s uid false (linesOf s.ram l 16)

/-- WAITPH on a checked object, after its commit: done at once when the wait is over, else the split parks. -/
def waitOn (s : State) (g : Grp) (x : Split) (l : Loc) (p : Word) (sr : SReg) (cont : Option Cap) : Fin :=
  match if barFree s g.uid l then waitRes s (g.core / 72) l p else none with
  | some r => .ret s [(sr.toNat, r)] cont
  | none =>
    let c := stampSplit (g.g.modSplit x.idx fun y => { y with st := .waitph l p sr cont }) x.idx
    .gone (proxyOpen (setGrp s { g with g := c }) (g.core / 72) l)

/-- A group gives up its slot until the wait is over (R287). -/
def goDormant (s : State) (g : Grp) (x : Split) (l : Loc) (p : Word) (sr : SReg) (cont : Cap) : Fin :=
  let sleep (s : State) : Fin :=
    let c := g.g.modSplit x.idx fun y => { y with pcc := cont }
    .gone (sleepImage (setGrp s (tickSolo { g with g := { c with laneQ := [] }, dormant := some { obj := l, p := p, res := sr } })) g.uid)
  match if barFree s g.uid l then waitRes s (g.core / 72) l p else none with
  | some r => .ret s [(sr.toNat, r)] (some cont)
  | none =>
    if g.task then
      (if g.ySlot.isSome then sleep s
       else match saveSlot s with
         | some k =>
           let g1 := { g with ySlot := some k }
           let c := g1.g.modSplit x.idx fun y => { y with pcc := cont }
           .gone (sleepImage (setGrp { s with saveUsed := k :: s.saveUsed }
             (tickSolo { g1 with g := { c with laneQ := [] }, dormant := some { obj := l, p := p, res := sr } })) g.uid)
         | none => waitOn (raiseEvent s 8 (g.core / 72) 0 []) g x l p sr (some cont))
    else match (wgBy s g.wg).bind (·.slot) with
      | some _ => sleep s
      | none => match saveSlot s with
        | some k => sleep (modWg { s with saveUsed := k :: s.saveUsed } g.wg fun w => { w with slot := some k })
        | none => waitOn (raiseEvent s 8 (g.core / 72) 0 []) g x l p sr (some cont)

/-- A wait that gives the slot up: the checks of R287 in order, the commit, and the wait. -/
def waitYield (s : State) (g : Grp) (x : Split) (cont : Except TrapInfo Cap) (ca : CReg) (sb sr : SReg) : Fin :=
  if g.g.splits.length > 1 then .trap s { kind := kDiverge, detail := 0 }
  else if g.g.compact.isSome then .trap s { kind := kPartial, detail := 0 }
  else match cont with
    | .error t => .trap s t
    | .ok c => match waitObj s g (cGet x ca) with
      | .error t => .trap s t
      | .ok l => committed s g x fun s g x => goDormant s g x l (sGet x sb) sr c

/-- WAITPH (R286): it takes a pending stop, checks the object, commits and waits. In a lent slot it is WAITPHY with the next word as its
continuation (R288). -/
def execWaitph (ca : CReg) (sb sr : SReg) (s : State) : Host.Outcome State Fault Refusal :=
  scalarStep s fun g x =>
    match pendingStop s g with
    | some p => p.fin s
    | none =>
      if lentSlot s g then waitYield s g x (.ok (nextPcc x)) ca sb sr
      else match waitObj s g (cGet x ca) with
        | .error t => .trap s t
        | .ok l => committed s g x fun s g x => waitOn s g x l (sGet x sb) sr none

/-- WAITPHY (R287). -/
def execWaitphy (cd ca : CReg) (sb sr : SReg) (s : State) : Host.Outcome State Fault Refusal :=
  scalarStep s fun g x =>
    match pendingStop s g with
    | some p => p.fin s
    | none => waitYield s g x (jumpThrough (cGet x cd) 0) ca sb sr

/-- A split released from its wait (R286): the windows that siblings have open take it as their shadow copy holds it. -/
def releaseSplit (g : Grp) (idx : Nat) (f : Split → Split) : Grp :=
  let g1 := { g with g := g.g.modSplit idx f }
  match g1.g.split idx with
  | some x => { g1 with wins := g1.wins.map fun w => { w with snap := w.snap.setSplit x } }
  | none => g1

/-- WAITPH_RELEASE (R286, R345): a parked split whose phase has passed, or whose object holds the error mark, performs its
read event and goes on; a pending stop releases it to take the stop at its WAITPH. -/
def execWaitphRelease (core slot split : Nat) (s : State) : Host.Outcome State Fault Refusal :=
  .next <| match grpAt s core slot with
    | none => s
    | some g => match g.g.split split with
      | none => s
      | some x => match x.st with
        | .waitph l p sr cont =>
          if (pendingStop s g).isSome then setGrp s (releaseSplit g split fun y => { y with st := .ready })
          else match if barFree s g.uid l then waitRes s (g.core / 72) l p else none with
            | none => s
            | some r =>
              let c := g.g.sSet split sr.toNat r
              if g.g.claimWaits c split then s
              else setGrp s (tickSolo (releaseSplit { g with g := c } split fun y => { y with st := .ready, pcc := cont.getD (nextPcc y) }))
        | _ => s

/-- The cores on which a dormant group may be reactivated: its own, or, for a task, any core of its die (R287, R300). -/
def wakeCores (s : State) (g : Grp) : List Nat :=
  if g.task then (upto (g.core / 72 * 72) 72).filter (coreOpen s (pcidOf s g.launch)) else [g.core]

/-- GROUP_REACTIVATION (R287, R345): a dormant group whose wait is over takes a free slot and starts at its continuation with
its result; one with a pending stop takes the stop there instead, with no read event. -/
def execGroupReactivation (group : Nat) (s : State) : Host.Outcome State Fault Refusal :=
  .next <| match grpOf s group with
    | none => s
    | some g => match g.dormant with
      | none => s
      | some d =>
        if g.saved || g.ended then s
        else
          let others := { s with grps := s.grps.filter fun h => h.uid != g.uid }
          match (wakeCores s g).findSome? fun c => (coreSlot others c g.regs g.task).map fun k => (c, k) with
          | none => s
          | some (c, k) =>
            let up := freeYSlot (wakeImage (setGrp s { g with core := c, slot := k, dormant := none }) g.uid) g.uid
            match grpOf up g.uid with
            | none => s
            | some g1 =>
              match pendingStop s g with
              | some p => finish up g.uid (soloSplit g).idx (p.fin up)
              | none => match if barFree s g.uid d.obj then waitRes s (c / 72) d.obj d.p else none with
                | none => s
                | some r => setGrp up { g1 with g := g1.g.sSet (soloSplit g1).idx d.res.toNat r }

/-! Die proxies (R292). -/

/-- DIE_PROXY_FORWARD: the forward in flight has reached the object, and the next one leaves with what has been gathered meanwhile. -/
def execDieProxyForward (i : Nat) (s : State) : Host.Outcome State Fault Refusal :=
  .next { s with proxies := s.proxies.modify i fun p => { p with flight := p.gathered, gathered := [] } }

/-- PROXY_PHASE_UPDATE: the proxy receives the object's phase. -/
def execProxyPhaseUpdate (i : Nat) (s : State) : Host.Outcome State Fault Refusal :=
  .next { s with proxies := s.proxies.modify i fun p => { p with phase := (barAt s.ram { sp := .pad p.wg, a := p.off }).phase } }

/-! Continuation records (R296 to R299). -/

/-- The join word and the other fields of a record (R296). -/
def recJoin (r : TaskRec) : Word := capWord (r.q.getD 3 capNull) 0
def recLane (r : TaskRec) : Nat := (capWord (r.q.getD 3 capNull) 1).toNat
def recRegs (r : TaskRec) : Nat := (capWord (r.q.getD 3 capNull) 2).toNat % 256 + 1
def recShelf (r : TaskRec) : Nat := (capWord (r.q.getD 3 capNull) 2).toNat / 256 % 16
def recArg (r : TaskRec) : Word := capWord (r.q.getD 3 capNull) 3

/-- Whether a record is malformed (R296). -/
def recBad (r : TaskRec) : Bool :=
  let code := r.q.getD 0 capNull
  !code.tag || !(cOtype code = 0 || cOtype code = 63) || !cHas code pEXEC || (capWord (r.q.getD 3 capNull) 2).toNat / 2 ^ 12 != 0

/-- Whether a shelf serves a context: a valid descriptor that names it (R298, R403). -/
def shelfServes (s : State) (k pcid : Nat) : Bool := (shelfOf s k).flags.getLsbD 0 && (shelfOf s k).pcid.toNat = pcid

/-- A conditional exchange of JOINDEC that is to push a record to a shelf, and has reserved its entry (R299). -/
def joinsTo (k : Nat) : ApKind → Bool
  | .joinCas q v => v = 0 && recShelf { q := q, launch := 0 } = k
  | _ => false

/-- Whether a shelf is full, with the entries that buffered SPAWNs and the JOINDECs under way have reserved (R297 to R299). -/
def shelfFull (s : State) (k : Nat) : Bool :=
  let spawns := (s.grps.flatMap fun g => (bufOf g).filter fun o => match o with | .spawn _ j _ => j = k | _ => false).length
  let joins := (s.fab.reqs.filter fun r => joinsTo k r.kind).length + (s.fab.answers.filter fun a => joinsTo k a.kind).length
  (shelfOf s k).recs.length + spawns + joins ≥ 256 + (shelfOf s k).cap.toNat

/-- Four 16-byte pieces of a 64-byte place. -/
def quarters (ps : List Piece) : List Piece :=
  ps.flatMap fun p => (below (p.n / 16)).map fun k => { p with loc := { p.loc with a := p.loc.a + 16 * k }, n := 16 }

/-- The access to a record through c[ca]. -/
def recAcc (c : Cap) : Acc := { l := 0, x := c, va := cAddr c, n := 64, b := none }

/-- A SCOPEFAULT of a task instruction. -/
def shelfFault (c : Cap) : TrapInfo := { kind := kScope, detail := 10, cap := c }

/-- The record at c[ca] as read through c, with the granules behind its tagged capabilities noted (R191, R298). -/
def readRecord (s : State) (g : Grp) (m : MemMode) (part : Part) (c : Cap) (ps : List Piece) : State × TaskRec :=
  let r : TaskRec := { q := (quarters ps).map fun p => (viewOf s g m part.got).cap c [p], launch := g.launch }
  (r.q.foldl (fun t v => noteGran t g.uid m v) s, r)

/-- The checked place of a record's parent's join word, if it has a parent (R298 step 4). -/
def spawnParent (s : State) (g : Grp) (r : TaskRec) : Got (Option Piece) :=
  let par := r.q.getD 2 capNull
  if !par.tag then .ok s none
  else (resolveAcc s g { need := [pATOMIC, pLOAD, pSTORE], access := accAtomic, use := .red }
      { l := 0, x := par, va := cAddr par + 48, n := 4, b := none }).bind fun t ps => .ok t ps.head?

/-- The increment of a parent's join word and the push of a record (R298). Outside windows another node's join word is incremented first,
and the push awaits it. -/
def spawnEmit (s : State) (uid pcid : Nat) (m : MemMode) (par : Option Piece) (k : Nat) (r : TaskRec) : Got Unit :=
  let inc : ApKind := .atomic .add .z32 1 0
  match par with
  | none => .ok (emit s uid m (.spawn none k r)) ()
  | some p => match p.loc.sp with
    | .remote node =>
      if m = .window then .ok (emit (emit s uid m (.remote node p.loc.a 4 p.au inc)) uid m (.spawn none k r)) ()
      else match ask s p.au uid pcid node p.loc.a inc with
        | (t, none) => .wait t
        | (t, some (.fault kd d e)) => .fault t (ansFault kd d e accAtomic (2 ^ 56 + node * 2 ^ 47 + p.loc.a))
        | (t, some _) => .ok (emit t uid m (.spawn none k r)) ()
    | _ => match if m = .window then none else blocked s uid true (linesOf s.ram p.loc 4) with
      | some t => .wait t
      | none => .ok (emit s uid m (.spawn (some p.loc) k r)) ()

/-- SPAWN (R298). -/
def execSpawn (ca : CReg) (s : State) : Host.Outcome State Fault Refusal :=
  scalarStep s fun g x =>
    let c := cGet x ca
    scalarMem s g x { need := [pLOAD], access := accRead, align := 64, caps := true } (recAcc c) noPost fun s1 g1 m part ps =>
      let rr := readRecord s1 g1 m part c ps
      let s2 := rr.1
      let r := rr.2
      let k := recShelf r
      if recBad r then .trap s2 (capFault c 15 (cAddr c) accRead)
      else match spawnParent s2 g1 r with
        | .fault s3 t => .trap (dropAns s3 g.uid) t
        | .wait s3 => .again (undoEnter s3 g)
        | .ok s3 par =>
          if !shelfServes s3 k (pcidOf s3 g.launch) then .trap (dropAns s3 g.uid) (shelfFault c)
          else if shelfFull s3 k then .again (undoEnter s3 g)
          else match spawnEmit s3 g.uid (pcidOf s3 g.launch) m par k r with
            | .fault s4 t => .trap (dropAns s4 g.uid) t
            | .wait s4 => .again (undoEnter s4 g)
            | .ok s4 () => .ok (dropAns s4 g.uid)

/-- What JOINDEC does with a record (R299): the new join word, if it writes one, and how it ends once that is written. -/
def joinEnd (s : State) (g : Grp) (c : Cap) (r : TaskRec) (sr : SReg) : Option Word × (State → Fin) :=
  let j := recJoin r
  if j = 0 then (none, fun t => .set t sr (BitVec.allOnes 32))
  else if j != 1 then (some (j - 1), fun t => .set t sr (j - 1))
  else if recBad r then (none, fun t => .trap t (capFault c 15 (cAddr c) accAtomic))
  else if !shelfServes s (recShelf r) (pcidOf s g.launch) then (none, fun t => .trap t (shelfFault c))
  else if shelfFull s (recShelf r) then (none, fun t => .again t)
  else (some 0, fun t => .set (perform t g.uid (.spawn none (recShelf r) r)) sr 0)

/-- The event of JOINDEC at another node: one conditional exchange over the record as it was read; a lost one starts again. A zero join
word is one read (R299). -/
def joinThere (s : State) (g : Grp) (c : Cap) (p : Piece) (node : Nat) (r : TaskRec) (sr : SReg) : Fin :=
  let pc := pcidOf s g.launch
  let raw := (below 4).map fun k => match answerTo s g.uid node (p.loc.a + 16 * k) .capRead with
    | some (.data d t) => ({ bits := BitVec.ofNat 128 (leNat d), tag := t } : Cap)
    | _ => capNull
  let zero : ApKind := .joinCas raw 0
  let taken : Bool := (answerTo s g.uid node p.loc.a zero).isSome || s.fab.reqs.any fun q => q.group = g.uid && q.kind = zero
  let e := if taken then (some 0, fun t => Fin.set (perform t g.uid (.spawn none (recShelf r) r)) sr 0) else joinEnd s g c r sr
  if recJoin r = 0 then e.2 (dropAns s g.uid)
  else match ask s p.au g.uid pc node p.loc.a (.joinCas raw (e.1.getD (recJoin r))) with
    | (t, none) => .again t
    | (t, some (.fault kd d m)) => .trap (dropAns t g.uid) { ansFault kd d m accAtomic (cAddr c) with cap := c }
    | (t, some (.data b _)) => if leNat b = 1 then e.2 (dropAns t g.uid) else .again (dropAns t g.uid)
    | (t, some _) => .again (dropAns t g.uid)

/-- JOINDEC (R299): one event on the record. -/
def execJoindec (ca : CReg) (sr : SReg) (s : State) : Host.Outcome State Fault Refusal :=
  scalarStep s fun g x => irrevocable s g x fun s g x =>
    let c := cGet x ca
    match watchTrap g x.noWatch accAtomic x.act [recAcc c] with
    | some t => .trap s t
    | none =>
      match resolveAcc s g { need := [pATOMIC, pLOAD, pSTORE], access := accAtomic, align := 64, caps := true, use := .loadDirect } (recAcc c) with
      | .wait s1 => .again s1
      | .fault s1 t => .trap (dropAns s1 g.uid) t
      | .ok s1 ps =>
        let r := (readRecord s1 g .direct (partOf none 0) c ps).2
        match ps with
        | [] => .again s1
        | p :: _ => match p.loc.sp with
          | .remote node => joinThere s1 g c p node r sr
          | _ =>
            match blocked s1 g.uid true (pieceLines s1 p) with
            | some s2 => .again s2
            | none =>
              let e := joinEnd s1 g c r sr
              e.2 (match e.1 with | some v => putMem s1 g.uid { p.loc with a := p.loc.a + 48 } 0 (leBytes 4 v.toNat) | none => s1)

/-- SHELF_FULL_TIMEOUT (R298): a shelf stays full for 10 µs and the host is told. -/
def execShelfFullTimeout (shelf : Nat) (s : State) : Host.Outcome State Fault Refusal :=
  .next (if shelf < 16 && shelfFull s shelf then raiseEvent s 2 shelf 0 [] else s)

end Sys2Proof.Machine
end

