-- ==== Sys2Proof/Machine/Accept.lean ====
section
/-! DEFINITION. The acceptance of a launch: launch block, code object, kernel descriptor, derived capabilities, the pushes of a
task launch (spec/02_instruction_words.md R68 to R73; spec/14_queue_commands.md R385 to R389; spec/15_traps_contexts.md R412;
spec/16_protection_links.md R438). -/

namespace Sys2Proof.Machine

/-- What a check of the queue processor gives: a value, a failure code with its DETAIL (R384), or a wait for an access. -/
inductive Chk (α : Type) where
  | ok (s : State) (v : α)
  | fail (s : State) (code detail : Nat)
  | wait (s : State)

def Chk.bind {α β : Type} (x : Chk α) (f : State → α → Chk β) : Chk β :=
  match x with
  | .ok s v => f s v
  | .fail s c d => .fail s c d
  | .wait s => .wait s

/-- An access of the queue processor: a fault is code 8 (R380). -/
def Chk.of {α : Type} : Got α → Chk α
  | .ok s v => .ok s v
  | .fault s t => .fail s 8 (faultDetail t)
  | .wait s => .wait s

/-- A check: the code and DETAIL of its failure, or none. -/
def Chk.need (s : State) (bad : Option (Nat × Nat)) : Chk Unit :=
  match bad with | some (c, d) => .fail s c d | none => .ok s ()

/-- Bytes k to k+n-1 of a block, as a number. -/
def fld (b : List Byte) (k n : Nat) : Nat := leNat ((b.drop k).take n)

/-- The first non-zero byte among n bytes from k. -/
def nonzeroAt (b : List Byte) (k n : Nat) : Option Nat := (upto k n).find? fun j => fld b j 1 != 0

/-! Launch blocks (R386). -/

/-- The first byte of bits 62..21 that a scratchpad parameter address has set. -/
def padAddrBad (b : List Byte) (i : Nat) : Option Nat :=
  let a := fld b (16 + 16 * i) 8
  if a / 2 ^ 63 = 1 then nonzeroAt (List.replicate (16 + 16 * i) 0 ++ leBytes 8 (nbits a 21 42 * 2 ^ 21)) (16 + 16 * i) 8 else none

/-- The offset of the first failing byte of a launch block (R384, R386). -/
def blockBad (b : List Byte) : Option Nat :=
  (([nonzeroAt b 10 6, nonzeroAt b 188 4, if fld b 184 4 % 16 != 0 then some 184 else none]
    ++ (below 8).map (padAddrBad b)).filterMap id).min?

/-! Code objects (R68 to R71). -/

def headerBad (h : List Byte) : Bool :=
  fld h 0 4 != 0x094F4358 || fld h 4 2 != 1 || fld h 6 2 != 128 || fld h 24 2 != 3 || fld h 26 2 = 0 || fld h 28 4 != 0
  || fld h 32 8 % 8 != 0 || fld h 40 8 % 8 != 0 || (nonzeroAt h 56 72).isSome

/-- A section entry: kind, offset, size (R69). -/
structure Section where
  kind : Nat
  off : Nat
  size : Nat
  deriving DecidableEq, Repr, Inhabited

/-- Whether a number is a power of two. -/
def isPow2 (n : Nat) : Bool := n != 0 && 2 ^ Nat.log2 n = n

/-- Entry i of a section table, none where a field is outside its range. -/
def sectionAt (t : List Byte) (objSize i : Nat) : Option Section :=
  let e := (t.drop (32 * i)).take 32
  let kind := fld e 0 4
  let size := fld e 16 8
  if (kind = 1 || kind = 2 || kind = 3) && 4 ≤ fld e 4 4 && isPow2 (fld e 4 4) && (nonzeroAt e 24 8).isNone
    && size % (if kind = 1 then 4 else if kind = 2 then 12 else 1) = 0 && fld e 8 8 + size ≤ objSize
  then some { kind := kind, off := fld e 8 8, size := size } else none

/-- The three sections in the order of their kinds, none where the table is malformed (R71). -/
def sections (t : List Byte) (objSize : Nat) : Option (Section × Section × Section) :=
  let l := (below 3).filterMap (sectionAt t objSize)
  match l.find? (·.kind = 1), l.find? (·.kind = 2), l.find? (·.kind = 3) with
  | some a, some b, some c => some (a, b, c)
  | _, _, _ => none

/-- The fields of a kernel descriptor (R70). -/
def descOf (d : List Byte) : KDesc :=
  { task := fld d 4 1 = 2, accs := (fld d 5 1).testBit 0, idem := (fld d 5 1).testBit 1, latency := fld d 6 1, gang := fld d 7 1,
    regs := fld d 8 2, groups := fld d 10 1, scratch := fld d 12 4, entry := fld d 16 4, size := fld d 20 4,
    laneBase := fld d 24 4, laneSize := fld d 28 4,
    params := (below 8).map fun i => (BitVec.ofNat 16 (fld d (32 + 8 * i) 2), fld d (36 + 8 * i) 4),
    argMap := (below 8).map fun i => fld d (96 + i) 1 }

/-- A malformed descriptor (R70, R71), with the sizes of its sections. -/
def descBad (d : List Byte) (code lane strs : Nat) : Bool :=
  let k := descOf d
  (fld d 4 1 != 1 && fld d 4 1 != 2) || fld d 5 1 > 3 || k.latency > 4 || k.gang > 16 || k.regs = 0 || k.regs > 256
  || k.groups = 0 || k.groups > 64 || fld d 11 1 != 0 || k.scratch > 1572864 || k.entry % 4 != 0 || k.laneBase % 12 != 0
  || k.laneSize % 12 != 0 || k.entry + k.size > code || k.laneBase + k.laneSize > lane || fld d 0 4 ≥ strs
  || (below 8).any (fun i => fld d (34 + 8 * i) 2 != 0 || fld d (32 + 8 * i) 2 ≥ 2 ^ 15) || k.argMap.any (· > 60)
  || (nonzeroAt d 104 24).isSome
  || (k.task && (k.latency != 0 || k.gang != 0 || k.scratch != 0 || k.groups != 1))

/-- The lowest feature that a mask needs and FEATURES lacks, or bit 15 for a protected context (R72, R73, R438). -/
def featureMissing (mask : Nat) (prot : Bool) : Option Nat :=
  match (upto 16 112).find? mask.testBit with
  | some b => some b
  | none => if prot && !mask.testBit 15 then some 15 else none

/-! Derived capabilities (R388). -/

/-- The root r narrowed to exact bounds and permissions, with an address inside; none where the derivation fails. -/
def narrow (r : Cap) (base size : Nat) (perms : BitVec 16) (addr : Nat) : Option Cap :=
  if perms &&& ~~~ (cPerms r) != 0 then none
  else match boundsForm r base size true with
    | .error _ => none
    | .ok c => let d := withAddr (withPerms c perms) addr; if d.tag then some d else none

/-- The permissions of a list that r holds. -/
def held (r : Cap) (ps : List Nat) : BitVec 16 := permSet ps &&& cPerms r

def pccPerms (r : Cap) : BitVec 16 := permSet [pEXEC] ||| held r [pSYS, pGLOBAL]
def stackPerms : BitVec 16 := permSet [pLOAD, pSTORE, pLOADCAP, pSTORECAP, pSTORELOCAL]

/-- A scratchpad capability of workgroup index 0 with exact bounds; none where the range lies beyond the scratchpad (R168,
R388). -/
def padParam (r : Cap) (k : KDesc) (off len : Nat) (perms : BitVec 16) : Option Cap :=
  if perms &&& ~~~ (cPerms r) != 0 || off + len > k.scratch then none
  else match encBounds off (off + len) with
    | some (b, t, e) =>
      if b = off && t = (off + len : Nat) then
        some (mkCap (perms &&& ~~~ (permSet [pGLOBAL])) 0 true e (modPow (b / 2 ^ e) 17) (modPow (t / 2 ^ e) 17) off true)
      else none
    | none => none

/-- The same capability for the workgroup at index w of its gang. -/
def padParamAt (c : Cap) (w : Nat) : Cap :=
  if !cSP c then c
  else
    let d : Int := (w * 2 ^ 21 : Nat)
    let m := withBounds c (cE c) (modPow ((capBase c + d) / 2 ^ cE c) 17) (modPow ((capTop c + d) / 2 ^ cE c) 17)
    withAddr m (cAddr c + d)

/-- Parameter i of a launch block (R386, R388). -/
def paramOf (r : Cap) (k : KDesc) (b : List Byte) (i : Nat) : Option Cap :=
  let (perms, least) := k.params.getD i (0, 0)
  let a := fld b (16 + 16 * i) 8
  let len := fld b (24 + 16 * i) 8
  if perms = 0 then some capNull
  else if len < least then none
  else if a / 2 ^ 63 = 1 then padParam r k (a % 2 ^ 21) len perms
  else narrow r a len (perms ||| held r [pGLOBAL]) a

/-- Whether the stack capability of every group can be derived: every range has exact bounds when address and size are
multiples of the granule that the size needs (R170, R388). -/
def stackOk (r : Cap) (stack size groups : Nat) : Bool :=
  let e := rlenExp size
  stack = 0 || (stackPerms &&& ~~~ (cPerms r) = 0 && stack % 2 ^ e = 0 && size % 2 ^ e = 0 && stack + size * groups ≤ 2 ^ 57)

/-- The DETAIL of the first derivation of a kernel launch that fails (R388). -/
def paramsBad (pcc lcc : Option Cap) (ps : List (Option Cap)) (stack : Bool) : Option Nat :=
  if pcc.isNone then some 9
  else if lcc.isNone then some 10
  else match ps.findIdx? (·.isNone) with
    | some i => some i
    | none => if stack then none else some 8

/-- The four capabilities of a handler block (R412). -/
def handlerCaps (r : Cap) (h : List Byte) : List Cap :=
  let mk (a n : Nat) (p : BitVec 16) : Cap := if n = 0 then capNull else (narrow r a n p a).getD capNull
  [mk (fld h 0 8) (fld h 8 4) (pccPerms r), mk (fld h 16 8) (fld h 12 4) (permSet [pEXEC]),
   mk (fld h 24 8) (fld h 32 8) (stackPerms ||| held r [pGLOBAL]),
   mk (fld h 40 8) (fld h 48 8) (permSet [pMAP, pLOAD, pSTORE])]

/-! Acceptance (R387). -/

/-- A launch record: its launch block, semaphore and unit count, and the shelf of a QTASK. -/
structure LaunchReq where
  block : DWord
  sem : DWord
  count : Word
  shelf : Option Nat
  deriving DecidableEq, Repr, Inhabited

/-- What the code object of a launch gives: its sections' addresses and sizes, its features and its descriptor. -/
structure Xco where
  code : Nat
  codeSize : Nat
  lane : Nat
  laneSize : Nat
  feats : Nat
  k : KDesc
  deriving DecidableEq, Repr, Inhabited

/-- The code object that a launch block names (R68 to R72). -/
def readXco (s : State) (q pcid : Nat) (b : List Byte) : Chk Xco :=
  let at_ := fld b 0 8
  (Chk.of (qpRead s q pcid at_ 128)).bind fun s1 h =>
  (Chk.need s1 (if headerBad h then some (3, 0) else if fld b 8 2 ≥ fld h 26 2 then some (2, 0x108) else none)).bind fun s2 _ =>
  (Chk.of (qpRead s2 q pcid (at_ + fld h 32 8) 96)).bind fun s3 t =>
  match sections t (fld h 48 8) with
  | none => .fail s3 3 0
  | some (c, l, strs) =>
    (Chk.of (qpRead s3 q pcid (at_ + fld h 40 8 + 128 * fld b 8 2) 128)).bind fun s4 d =>
    (Chk.need s4 (if descBad d c.size l.size strs.size then some (3, 0)
      else (featureMissing (fld h 8 16) (ctxOf s4 pcid).prot).map fun m => (4, m))).bind fun s5 _ =>
    .ok s5 { code := at_ + c.off, codeSize := c.size, lane := at_ + l.off, laneSize := l.size, feats := fld h 8 16, k := descOf d }

/-- The code capability of a task launch: exact bounds over both sections (R389). -/
def taskCode (r : Cap) (x : Xco) : Option Cap :=
  let lo := min x.code x.lane
  let hi := max (x.code + x.codeSize) (x.lane + x.laneSize)
  narrow r lo (hi - lo) (pccPerms r) (x.code + x.k.entry)

/-- The capabilities of a launch, or the DETAIL of code 7: PCC and LCC, and c0 to c7 (R388); for a task launch the code
capability with the lane-code base as its LCC's address, and c0 (R389). -/
def launchCaps (r : Cap) (x : Xco) (task : Bool) (b : List Byte) (count : Nat) : Except Nat (Cap × Cap × List Cap) :=
  if task then
    match taskCode r x, paramOf r x.k b 0 with
    | none, _ => .error 9
    | some _, none => .error 0
    | some c, some f => .ok (c, withAddr c (x.lane + x.k.laneBase), [f])
  else
    let pcc := narrow r x.code x.codeSize (pccPerms r) (x.code + x.k.entry)
    let lcc := narrow r x.lane x.laneSize (permSet [pEXEC]) (x.lane + x.k.laneBase)
    let ps := (below 8).map (paramOf r x.k b)
    match paramsBad pcc lcc ps (stackOk r (fld b 176 8) (fld b 184 4) (count * x.k.groups)) with
    | some d => .error d
    | none => .ok (pcc.getD capNull, lcc.getD capNull, ps.map fun c => c.getD capNull)

/-- The failure code of the checks of kind, count and fit (R387). -/
def kindBad (s : State) (pcid : Nat) (k : KDesc) (req : LaunchReq) : Option (Nat × Nat) :=
  let n := req.count.toNat
  if k.task != req.shelf.isSome then some (14, 0)
  else if n = 0 || (!k.task && n % gangSize k != 0) then some (13, 0)
  else (fitCode k (clusterOk s pcid)).map fun c => (c, 0)

/-- The launch, with the queue's priority and current objects; its units are counted and none is placed (R387, R393). -/
def addLaunch (s : State) (q : Nat) (x : Que) (req : LaunchReq) (o : Xco) (b : List Byte) (caps : Cap × Cap × List Cap)
    (hs : List Cap) : State :=
  let l : Lnch :=
    { uid := s.uid, queue := q, pcid := x.pcid, prio := x.prio, graph := x.graph, phase := x.phase, job := x.job, hidden := 0,
      shelf := req.shelf.getD 0, recIx := x.rd, sem := req.sem, kd := o.k, root := x.root, pcc := caps.1, lcc := caps.2.1, params := caps.2.2,
      args := (below 8).map fun i => BitVec.ofNat 32 (fld b (144 + 4 * i) 4), stack := fld b 176 8, stackSize := fld b 184 4,
      hPcc := hs.getD 0 capNull, hLcc := hs.getD 1 capNull, hData := hs.getD 2 capNull, hMap := hs.getD 3 capNull,
      count := req.count.toNat, next := 0, host := o.feats.testBit 13, cancelled := false, complete := false }
  unitsIn { s with launches := s.launches ++ [l], uid := s.uid + 1, fab := { s.fab with launched := true } } l.uid l.count

/-- The checks of a QLAUNCH or QTASK in their order, and the acceptance (R387); the value is the launch's name. No launch is
accepted before NODESET (R471 step 9). -/
def accept (s : State) (q : Nat) (req : LaunchReq) : Chk Nat :=
  let x := queOf s q
  let r := x.root
  if !s.fab.nodeSet then .wait s else
  (Chk.need s (if !(ctxOf s x.pcid).valid then some (12, 0)
    else match req.shelf with
      | some k => if shelfServes s k x.pcid then none else some (10, k)
      | none => none)).bind fun s0 _ =>
  (Chk.of (qpRead s0 q x.pcid req.block.toNat 192)).bind fun s1 b =>
  (Chk.need s1 ((blockBad b).map fun o => (2, 0x100 + o))).bind fun s2 _ =>
  (readXco s2 q x.pcid b).bind fun s3 o =>
  (Chk.need s3 (kindBad s3 x.pcid o.k req)).bind fun s4 _ =>
  match launchCaps r o req.shelf.isSome b req.count.toNat with
  | .error d => .fail s4 7 d
  | .ok caps =>
    let h := (ctxOf s4 x.pcid).handler
    (if h = 0 then Chk.ok s4 [] else (Chk.of (qpRead s4 q x.pcid h 64)).bind fun s5 hb => .ok s5 (handlerCaps r hb)).bind fun s6 hs =>
    .ok (addLaunch s6 q x req o b caps hs) s6.uid

/-! Task launches (R389). -/

/-- Record i of a task launch. -/
def taskRecord (l : Lnch) (i : Nat) : TaskRec :=
  let w1 := BitVec.ofInt 32 ((cAddr l.lcc : Int) - capBase l.pcc)
  let w2 := BitVec.ofNat 32 (l.kd.regs - 1 + 256 * l.shelf)
  { q := [l.pcc, l.params.getD 0 capNull, capNull, { bits := (l.args.getD 0 0 + BitVec.ofNat 32 i) ++ w2 ++ w1 ++ (0 : Word), tag := false }],
    launch := l.uid }

/-- Pushes the records of a task launch while its shelf has room; with the last one the queue goes on. -/
def pushTasks (s : State) (uid : Nat) : Nat → State
  | 0 => s
  | n + 1 =>
    match lnchBy s uid with
    | none => s
    | some l =>
      if l.next ≥ l.count || shelfFull s l.shelf then s
      else
        let s1 := pushShelf s l.shelf (taskRecord l l.next)
        let s2 := modLnch s1 uid fun y => { y with next := y.next + 1 }
        if l.next + 1 = l.count then endPush s2 l.queue else pushTasks s2 uid n

end Sys2Proof.Machine
end

