-- ==== Sys2Proof/Machine/Turn.lean ====
section
/-! DEFINITION. Which instruction a turn of a slot runs: the split that issues, its word, and the lane instruction at the head
of the lane queue (spec/03_scalar_stream.md R83, R84, R89; spec/02_instruction_words.md R60, R61, R64, R65). -/

namespace Sys2Proof.Machine

/-- What a turn finds: nothing to run, with the state it leaves, or an instruction and the state that names its agent. -/
inductive Pick where
  | idle (s : State)
  | run (s : State) (i : Instr)

/-- A split that may issue: ready, with no lane block of its own unfinished: R82 orders its next instruction after the block (log 8). -/
def canIssue (g : Grp) (x : Split) : Bool := x.st = .ready && !(g.g.laneQ.any fun b => b.split = x.idx)

/-- A group waits for its ATTEST to be answered, and issues nothing else (R241). -/
def attesting (g : Grp) : Bool := g.g.splits.any fun x => match x.st with | .attest _ _ _ => true | _ => false

/-- A lane instruction that has performed some of its events outside windows: the group issues its next instruction after the others
(R241, R255). -/
def lanePart (g : Grp) : Bool := match g.g.laneQ with | b :: _ => b.part.isSome | [] => false

/-- A scalar instruction that has performed some of its events outside windows. -/
def scalarPart (g : Grp) : Bool := g.g.splits.any fun x => x.part.isSome

/-- Whether an earlier access of a group has not been performed: a write posted to another node, or, in SOLO mode, a barrier operation on
its way to the other die (R255, R292). -/
def accessOut (s : State) (g : Grp) : Bool :=
  postsOf s g.uid || (soloOn g && s.proxies.any fun p => (p.flight ++ p.gathered).contains g.uid)

/-- The instruction of a group that awaits the answer to an event: its lane instruction (none) or that of a split (R241). -/
def performer (s : State) (g : Grp) : Option (Option Nat) :=
  match s.performing.find? fun p => p.1 = g.uid with
  | some p => some p.2
  | none => (g.g.splits.find? fun x => x.part.isSome).map fun x => some x.idx

/-- Whether a split's instruction did not retire at its latest try. An answer that has arrived may end any wait of its group. -/
def waits (s : State) (g : Grp) (x : Split) : Bool := s.waiting.contains (g.uid, x.idx) && !(s.fab.answers.any fun a => a.group = g.uid)

/-- The split that issues (R83): of those ready whose instruction may issue, the one that issued least recently, the older first; where
every ready split has waited, each is tried again. While an instruction of a split awaits an event of its own, that split alone. -/
def pickSplit (s : State) (g : Grp) : Option Split :=
  let able := g.g.splits.filter (canIssue g)
  let free := able.filter fun x => !(waits s g x)
  let rs : List Split := match performer s g with
    | some (some i) => able.filter fun (x : Split) => x.idx = i
    | _ => if free.isEmpty then able else free
  rs.find? fun x => rs.all fun y => x.issued < y.issued || (x.issued = y.issued && x.age ≤ y.age)

/-- The state for a fresh round of tries where every ready split of a group has waited. -/
def freshRound (s : State) (g : Grp) : State :=
  if (g.g.splits.filter (canIssue g)).all (waits s g) then { s with waiting := s.waiting.filter fun p => p.1 != g.uid } else s

/-- Whether an instruction of a group is between two of its events, or has asked another node for an event and not taken its answer: a
repeated request would be a second event (R231, R241, R261). -/
def eventOut (s : State) (uid : Nat) : Bool :=
  (match grpOf s uid with | some g => lanePart g || scalarPart g | none => false) ||
  (s.fab.reqs.any fun r => r.group = uid && r.kind.isEvent) || s.fab.answers.any fun a => a.group = uid && a.kind.isEvent

/-- What a group's instruction leaves for the choice of its next: a split whose instruction has not retired waits, one that has
retired ends the waits of its group, and an event asked for and not answered keeps the group to its instruction (R83, R241). -/
def noteTurn (s t : State) : State :=
  let note (g : Grp) (who : Option Nat) (stuck : Bool) : State :=
    let ev := eventOut t g.uid
    { t with
      performing := (if ev then [(g.uid, who)] else []) ++ t.performing.filter (fun p => p.1 != g.uid),
      waiting := match who with
        | some i => if stuck && !ev then (g.uid, i) :: t.waiting.filter (· != (g.uid, i))
                    else if stuck then t.waiting else t.waiting.filter fun p => p.1 != g.uid
        | none => t.waiting }
  match s.actor with
  | .split core slot i _ => match actorGrp s core slot with
    | some g => note g (some i) (match grpOf t g.uid with
      | some h => (match g.g.split i, h.g.split i with
        | some x, some y => x.issued = y.issued && x.pcc = y.pcc && y.st = .ready
        | _, _ => false)
      | none => false)
    | none => t
  | .lane core slot => match actorGrp s core slot with
    | some g => note g none false
    | none => t
  | _ => t

/-- Whether a chain run of another slot of this slot's lane pipe has issued its first instruction and not its last (R58). -/
def pipeHeld (s : State) (g : Grp) : Bool :=
  s.grps.any fun h => h.live && h.core = g.core && h.slot % 4 = g.slot % 4 && h.slot != g.slot &&
    (match h.g.laneQ.head? with | some b => b.pre.isSome | none => false)

/-- Drops the answer that brought the code word at a virtual address; answers to the instruction's own accesses stay. -/
def dropFetch (s : State) (uid va : Nat) : State :=
  let mine (a : Ans) : Bool := a.group = uid && a.node = va % 2 ^ 56 / 2 ^ 47 && a.off = va % 2 ^ 47 && a.kind = .fetch
  { s with fab := { s.fab with answers := s.fab.answers.filter fun a => !mine a } }

/-- The next scalar instruction of a split (R65, R89): a fetch that fails and an illegal word are rows of their own. -/
noncomputable def fetchScalar (s : State) (g : Grp) (x : Split) : Pick :=
  let act (w : Word) : Actor := .split g.core g.slot x.idx w
  let bad (t : State) (f : TrapInfo) : Pick :=
    .run { t with actor := act 0 } (.scalarFetchFault f.kind f.detail (BitVec.ofNat 64 f.addr) f.home)
  match fetchCheck x.pcc x.pc with
  | .error t => bad s t
  | .ok () =>
    match fetchWord s g x.pcc x.pc with
    | .wait s1 => .idle s1
    | .fault s1 t => bad (dropAns s1 g.uid) t
    | .ok s1 w =>
      let s2 := { dropFetch s1 g.uid x.pc with actor := act w }
      match decodeScalar w with
      | .ok i => .run s2 i
      | .error c => .run s2 (.illegalScalarWord w c)

/-- A turn of a slot's scalar stream. -/
noncomputable def scalarTurn (core slot : Nat) (s : State) : Pick :=
  match grpAt s core slot with
  | none => .idle s
  | some g =>
    if attesting g || lanePart g || accessOut s g || performer s g = some none then .idle s
    else match pickSplit s g with
      | none => .idle s
      | some x => fetchScalar (freshRound s g) g x

/-- A turn of a slot's lane pipe: an illegal lane word traps at its place in the block (R64). -/
def laneTurn (core slot : Nat) (s0 : State) : Pick :=
  let s := { s0 with actor := .lane core slot }
  match actorLane s with
  | none => .idle s
  | some x =>
    if attesting x.g || accessOut s x.g || (performer s x.g).any (·.isSome) || pipeHeld s x.g then .idle s
    else match blockCode x.g.regs (accsOf s x.g) x.b.words x.n with
    | some c => .idle (finishLane x (x.illegal c))
    | none => match decodeLane x.g.regs (accsOf s x.g) x.w with
      | .ok i => .run s i
      | .error c => .idle (finishLane x (x.illegal c))

end Sys2Proof.Machine
end

