-- ==== Sys2Proof/Machine/Queue.lean ====
section
/-! DEFINITION. The queue processor: the turn of a queue and the records of R383 (spec/14_queue_commands.md R379 to R396). -/

namespace Sys2Proof.Machine

/-- The launches that a queue has accepted and that have not completed (R382, R393). -/
def openLnchs (s : State) (q : Nat) : List Lnch := s.launches.filter fun l => l.queue = q && !l.complete

/-- What a record does: it takes effect, and the queue goes on at the next record or where QJUMP says; it has moved its queue
itself; it waits in state 2; it waits for an access; it fails (R382, R384). -/
inductive QEnd where
  | done (s : State) (jump : Option Word)
  | moved (s : State)
  | hold (s : State)
  | again (s : State)
  | fail (s : State) (code detail : Nat)

/-- The end of a check as the end of a record. -/
def Chk.toEnd {α : Type} (x : Chk α) (f : State → α → QEnd) : QEnd :=
  match x with
  | .ok s v => f s v
  | .fail s c d => .fail s c d
  | .wait s => .again s

/-- A queue waits in state 2 (R378). -/
def holdQue (s : State) (q : Nat) : State := modQue s q fun x => if x.state = 3 then x else x.setState 2

/-- The queue after a record whose op byte is `op` (R382, R384). -/
def endRecord (q op : Nat) : QEnd → State
  | .done s j =>
    modQue (dropAns s (qpName q)) q fun x =>
      let y := { x with rd := match j with | some t => t | none => x.rd + 1 }
      if y.state = 2 then y.setState 1 else y
  | .moved s => dropAns s (qpName q)
  | .hold s => holdQue (dropAns s (qpName q)) q
  | .again s => s
  | .fail s c d => failQueue (dropAns s (qpName q)) q (queOf s q).rd c d op

/-- One record of the queue that the actor names: a record with `.after` first waits for the queue's earlier launches (R382). -/
def queueStep (s : State) (op : Nat) (after : Bool) (f : Nat → Que → QEnd) : Host.Outcome State Fault Refusal :=
  match s.actor with
  | .queue q => .next (if after && !(openLnchs s q).isEmpty then holdQue s q else endRecord q op (f q (queOf s q)))
  | _ => .fault .noActor

/-- QNOP (R383). -/
def execQnop (after : Bool) (s : State) : Host.Outcome State Fault Refusal :=
  queueStep s 0 after fun _ _ => .done s none

/-- QLAUNCH (R387). -/
def execQlaunch (after : Bool) (block sem : DWord) (count : Word) (s : State) : Host.Outcome State Fault Refusal :=
  queueStep s 1 after fun q _ =>
    (accept s q { block := block, sem := sem, count := count, shelf := none }).toEnd fun t _ => .done t none

/-- QTASK (R387, R389): the queue stays on the record until the last push. -/
def execQtask (after : Bool) (shelf : BitVec 4) (block sem : DWord) (count : Word) (s : State) : Host.Outcome State Fault Refusal :=
  queueStep s 2 after fun q _ =>
    (accept s q { block := block, sem := sem, count := count, shelf := some shelf.toNat }).toEnd fun t uid =>
      let t1 := pushTasks t uid count.toNat
      match lnchBy t1 uid with
      | some l => if l.next < l.count then .hold t1 else .moved t1
      | none => .moved t1

/-- The comparisons of R390. -/
def semTest (cmp : Nat) (v o mask : DWord) : Bool :=
  match cmp with
  | 0 => v = o
  | 1 => v != o
  | 2 => o.toNat ≤ v.toNat
  | 3 => o.toNat < v.toNat
  | 4 => v.toNat ≤ o.toNat
  | 5 => v.toNat < o.toNat
  | 6 => v &&& mask != 0
  | _ => (v - o).toNat < 2 ^ 63

/-- A read of the semaphore of a QWAIT (R390). -/
def qwaitRead (s : State) (q : Nat) (x : Que) (cmp : BitVec 3) (sem operand mask : DWord) : QEnd :=
  (Chk.of (qpRead s q x.pcid sem.toNat 8)).toEnd fun t b =>
    if semTest cmp.toNat (BitVec.ofNat 64 (leNat b)) operand mask then .done t none else .hold t

/-- QWAIT (R390). -/
def execQwait (after : Bool) (cmp : BitVec 3) (sem operand mask : DWord) (s : State) : Host.Outcome State Fault Refusal :=
  queueStep s 3 after fun q x => qwaitRead s q x cmp sem operand mask

/-- QSIGNAL (R391). -/
def execQsignal (after : Bool) (op : BitVec 2) (sem operand : DWord) (s : State) : Host.Outcome State Fault Refusal :=
  queueStep s 4 after fun q x =>
    let (a, f) : AtomOp × (Nat → Nat) :=
      if op = 0 then (.exch, fun _ => operand.toNat)
      else if op = 1 then (.add, fun v => (v + operand.toNat) % 2 ^ 64)
      else (.max, fun v => max v operand.toNat)
    (Chk.of (qpRmw s (qpName q) x.pcid sem.toNat a operand f)).toEnd fun t _ => .done t none

/-- A level marker: the object current afterwards, and the reset of its counters and flags (R383). -/
def marker (s : State) (q : Nat) (op : BitVec 2) (obj : BitVec 10) (set : Que → Option Nat → Que) : QEnd :=
  let s1 := if op = 1 then modLevel s obj.toNat fun _ => levelNone else s
  .done (modQue s1 q fun y => set y (if op = 2 then none else some obj.toNat)) none

/-- QGRAPH (R383). -/
def execQgraph (after : Bool) (op : BitVec 2) (obj : BitVec 10) (s : State) : Host.Outcome State Fault Refusal :=
  queueStep s 5 after fun q _ => marker s q op obj fun y o => { y with graph := o }

/-- QPHASE (R383). -/
def execQphase (after : Bool) (op : BitVec 2) (obj : BitVec 10) (s : State) : Host.Outcome State Fault Refusal :=
  queueStep s 6 after fun q _ => marker s q op obj fun y o => { y with phase := o }

/-- QJOB (R383). -/
def execQjob (after : Bool) (op : BitVec 2) (obj : BitVec 10) (s : State) : Host.Outcome State Fault Refusal :=
  queueStep s 7 after fun q _ => marker s q op obj fun y o => { y with job := o }

/-- The cancel of every launch that p names, as one event (R395). -/
def cancelWhere (s : State) (p : Lnch → Bool) : State :=
  ((s.launches.filter fun l => !l.complete && p l).map (·.uid)).foldl cancelLaunch s

/-- A level object is cancelled at the levels that p names (R395). -/
def cancelLevel (s : State) (obj : Nat) (p : Lnch → Bool) : State :=
  modLevel (cancelWhere s p) obj fun x => { x with cancelled := true }

/-- QCANCEL (R395). The cancelled queue fails at its current record. -/
def execQcancel (after : Bool) (kind : BitVec 3) (obj : BitVec 10) (s : State) : Host.Outcome State Fault Refusal :=
  queueStep s 8 after fun q _ =>
    let o := obj.toNat
    if kind = 4 then
      let t := cancelWhere s fun l => l.queue = o
      if o = q then .fail t 11 0 else .done (failQueue t o (queOf t o).rd 11 0 0) none
    else .done (cancelLevel s o fun l =>
      (if kind = 1 then l.graph else if kind = 2 then l.phase else l.job) = some o) none

/-- QCOUNT (R394). -/
def execQcount (after : Bool) (_kind : BitVec 3) (obj : BitVec 10) (target : DWord) (s : State) : Host.Outcome State Fault Refusal :=
  queueStep s 9 after fun q x =>
    let v := levelOf s obj.toNat
    (Chk.of (qpWrite s q x.pcid target.toNat (leBytes 8 v.out.toNat ++ leBytes 8 v.done.toNat))).toEnd fun t _ =>
      .done t none

/-- QJUMP (R383). -/
def execQjump (after : Bool) (target : Word) (s : State) : Host.Outcome State Fault Refusal :=
  queueStep s 10 after fun _ _ => .done s (some target)

/-- QCTL.PRIO (R377, R383). -/
def setPrio (x : Que) (p : BitVec 2) : Que := { x with ctl := (x.ctl &&& ~~~ 0x60#32) ||| (p.zeroExtend 32 <<< 5) }

/-- QPRIO (R383). -/
def execQprio (after : Bool) (prio : BitVec 2) (s : State) : Host.Outcome State Fault Refusal :=
  queueStep s 11 after fun q _ => .done (modQue s q fun y => setPrio y prio) none

/-- UNASSIGNED_QUEUE_OP: a record that cannot take effect as it was read fails its queue (R63, R384): an op that is not
assigned, a malformed record, a ring that cannot be read, a context that is no longer valid. -/
def execUnassignedQueueOp (op : Byte) (code detail : Nat) (s : State) : Host.Outcome State Fault Refusal :=
  queueStep s op.toNat false fun _ _ => .fail s code detail

/-! The turn of a queue. -/

/-- Work that a queue has left over from its earlier records: completion decrements that had to wait (R393) and the pushes of a
task launch (R389). -/
def queueRetry (s : State) (q : Nat) : State :=
  let s1 := ((openLnchs s q).filter fun l => l.hidden = 0).foldl (fun t l => tryComplete t l.uid) s
  match (openLnchs s1 q).find? fun l => l.kd.task && l.next < l.count with
  | some l => pushTasks s1 l.uid (l.count - l.next)
  | none => s1

/-- Whether a queue has a task launch whose records are not all pushed. -/
def pushing (s : State) (q : Nat) : Bool := (openLnchs s q).any fun l => l.kd.task && l.next < l.count

/-- The record at the read index of a queue, as a 256-bit number (R379). -/
def ringRecord (s : State) (q : Nat) (x : Que) : Got Nat :=
  (qpRead s q x.pcid (x.base.toNat + 32 * (x.rd.toNat % 2 ^ x.logn)) 32).bind fun t b => .ok t (leNat b)

/-- The op of the record of a queue whose context is no longer valid, where the QP has read it before that (log 75). -/
def lateOp (s : State) (q : Nat) (x : Que) : Nat :=
  match ringRecord { s with ctxs := aset ctxNone s.ctxs x.pcid { ctxOf s x.pcid with valid := true } } q x with
  | .ok _ r => r % 256
  | _ => 0

/-- The instruction of a record, or the failure that stands for it (R63, R384); a malformed record with `.after` waits first. -/
noncomputable def recordPick (s : State) (q r : Nat) : Pick :=
  match decodeQueue (BitVec.ofNat 256 r) with
  | .ok i => .run s i
  | .error (c, d) =>
    if c = 2 && d != 1 && r.testBit 8 && !(openLnchs s q).isEmpty then .idle (holdQue s q)
    else .run s (.unassignedQueueOp (BitVec.ofNat 8 r) c d)

/-- Whether a queue runs and has a record whose accesses await no answer. -/
def queueReady (s : State) (q : Nat) : Bool :=
  let x := queOf s q
  x.en && x.state = 1 && x.rd != x.wr && !pushing s q && !s.fab.reqs.any fun r => r.group = qpName q

/-- Whether the QP would serve another ready queue before this one: one of higher priority, or, of the same, one that comes sooner in
the round after the queue that it served last (R382). -/
def servedFirst (s : State) (q : Nat) : Bool :=
  let after (k : Nat) : Nat := (k + 63 - s.chip.lastServed) % 64
  (below 64).any fun k => k != q && queueReady s k &&
    ((queOf s q).prio < (queOf s k).prio || ((queOf s k).prio = (queOf s q).prio && after k < after q))

/-- A turn of a queue: it works on the record at its read index while it is enabled and has work (R379, R382). -/
noncomputable def queueTurn (q : Nat) (s0 : State) : Pick :=
  let s := { queueRetry s0 q with actor := .queue q }
  let x := queOf s q
  if q ≥ 64 || !x.en || !(x.state = 1 || x.state = 2) || x.rd = x.wr || pushing s q || servedFirst s q then .idle s
  else
    let t := { s with chip := { s.chip with lastServed := q } }
    let late := lateOp t q x
    if !(ctxOf t x.pcid).valid && (late = 1 || late = 2) then .run t (.unassignedQueueOp (BitVec.ofNat 8 late) 12 0)
    else match ringRecord t q x with
      | .wait u => .idle u
      | .fault u f => .run u (.unassignedQueueOp 0 8 (faultDetail f))
      | .ok u r => recordPick u q r

/-- The read again of a semaphore by a queue that waits at a QWAIT (R390): its record is read as a turn of the queue reads it. -/
def qwaitAgain (q : Nat) (s : State) : State :=
  let x := queOf s q
  if q ≥ 64 || !x.en || x.state != 2 || x.rd = x.wr || pushing s q || !(ctxOf s x.pcid).valid then s
  else match ringRecord { s with actor := .queue q } q x with
    | .ok t r => match qwaitOf (BitVec.ofNat 256 r) with
      | some w => if w.after && !(openLnchs t q).isEmpty then s else endRecord q 3 (qwaitRead t q (queOf t q) w.cmp w.sem w.operand w.mask)
      | none => s
    | _ => s

/-- QWAIT_REREAD: the line of a waited semaphore was invalidated (R390). -/
def execQwaitReread (q : Nat) (s : State) : Host.Outcome State Fault Refusal := .next (qwaitAgain q s)

/-- QWAIT_POLL: the interval of 2 µs (R390). -/
def execQwaitPoll (q : Nat) (s : State) : Host.Outcome State Fault Refusal := .next (qwaitAgain q s)

/-- The entries of a ring that buffered LAUNCHes have reserved. -/
def ringKept (s : State) (q : Nat) : Nat :=
  (s.grps.flatMap fun g => (bufOf g).filter fun o => match o with | .ring k _ => k = q | _ => false).length

/-- Whether the ring of a queue is full, with the entries that buffered LAUNCHes have reserved (R404). -/
def ringFull (s : State) (q : Nat) : Bool :=
  let x := queOf s q
  (x.wr - x.rd).toNat + ringKept s q ≥ 2 ^ x.logn

/-- QUEUE_FULL_TIMEOUT: a device-fed ring has been full for 10 µs (R401, R404). -/
def execQueueFullTimeout (q : Nat) (s : State) : Host.Outcome State Fault Refusal :=
  let x := queOf s q
  .next (if q < 64 && x.en && x.dev && ringFull s q then raiseEvent s 3 q 0 [] else s)

/-- Checks 3 and 4 of LAUNCH, its wait for an entry, and the translation entry of a local place of it (R404). -/
def launchEntry (s : State) (g : Grp) (c : Cap) (q : Nat) : Got (Option (Nat × Nat × Nat)) :=
  let x := queOf s q
  let pcid := pcidOf s g.launch
  if q > 63 || !x.en || !x.dev || x.pcid != pcid then .fault s (capFault c 18 (cAddr c) accRead)
  else if ringFull s q then .wait s
  else
    let va := x.base.toNat + 32 * ((x.wr.toNat + ringKept s q) % 2 ^ x.logn)
    let ag : Agt := { qpAgt q pcid with uid := g.uid }
    let pod := va / 2 ^ 56 % 2
    (pagesOf s ag capNull va accWrite 2 32).bind fun s1 l => (piecesCheck s1 noAuth ag accWrite .write l).bind fun s2 _ =>
      .ok s2 (l.findSome? fun p => match p.1 with | .here _ (some f) => some (2 * pcid + pod, f.base, f.size) | _ => none)

/-- LAUNCH (R404). -/
def execLaunch (ca : CReg) (sb : SReg) (s : State) : Host.Outcome State Fault Refusal :=
  scalarStep s fun g x =>
    let c := cGet x ca
    let q := (sGet x sb).toNat
    let spec : AccSpec := { need := [pLOAD], access := accRead, align := 32, use := .load }
    let put (page : Option (Nat × Nat × Nat)) (t : State) : Fin :=
      scalarMem t g x spec { recAcc c with n := 32 } noPost fun s1 g1 m part ps =>
        match if m = .window then none else blocked s1 g.uid true (winLines s1 [.ring q []]) with
        | some s2 => .again (undoEnter s2 g)
        | none =>
          let s2 := emit s1 g.uid m (.ring q (ps.flatMap (viewOf s1 g1 m part.got).bytes))
          let s3 := if m = .window then modGrp s2 g.uid fun h => modExec h fun w => { w with xl := (page.toList ++ w.xl).eraseDups } else s2
          .ok (dropAns s3 g.uid)
    let first : Bool := (watchTrap g x.noWatch accRead x.act [recAcc c]).isSome
      || (match checkUse c spec.need (cAddr c) 32 accRead false none (gangPad s g.gang) with | .error _ => true | .ok () => false)
      || cAddr c % 32 != 0
    if first then put none s
    else match launchEntry s g c q with
      | .fault s1 t => .trap s1 t
      | .wait s1 => .again s1
      | .ok s1 page => put page s1

end Sys2Proof.Machine
end

