-- ==== Sys2Proof/Machine/Bar0.lean ====
section
/-! DEFINITION. The registers of BAR0, and the invalidation of translations (spec/14_queue_commands.md R376 to R381, R385,
R392, R400, R402, R403; spec/07_memory_access.md R206; spec/01_machine.md R5, R7). -/

namespace Sys2Proof.Machine

/-- The fields of QCTL that are kept while EN is 1: LOGN, DEV and PCID; and all its fields (R377). -/
def qctlHeld : Word := 0xFFFF009F
def qctlAll : Word := 0xFFFF01FF

/-- A root capability: tagged, unsealed, bounds [0, 2^57), address 0 (R381). -/
def rootCap (perms : BitVec 16) : Cap :=
  match encBounds 0 (2 ^ 57) with
  | some (b, t, e) => mkCap perms 0 false e (modPow (b / 2 ^ e) 17) (modPow (t / 2 ^ e) 17) 0 true
  | none => capNull

/-- The checks when EN passes from 0 to 1, and the root capability (R381). The descriptor is the one in the table; translation uses it from the
next ALL invalidation on (R385). -/
def enableQue (s : State) (q : Nat) : State :=
  let x := queOf s q
  if x.logn < 4 || x.logn > 20 || x.pcid ≥ s.chip.ctxCount.toNat || !(readCtx s x.pcid).valid then failQueue s q x.rd 12 0 0
  else if (x.wr - x.rd).toNat > 2 ^ x.logn then failQueue s q x.rd 9 0 0
  else
    modQue s q fun y => { y with root := rootCap (x.rootp &&& 0x7FFF), stat := 1 }

/-- A write of QCTL (R377, R378, R381). -/
def writeQctl (s : State) (q : Nat) (v : Word) : State :=
  let x := queOf s q
  let keep : Word := if x.en then qctlHeld else 0
  let s1 := modQue s q fun y => { y with ctl := (y.ctl &&& keep) ||| (v &&& qctlAll &&& ~~~keep) }
  let on := (queOf s1 q).en
  if x.en && !on then modQue s1 q fun y => { y with stat := 0 }
  else if !x.en && on then enableQue s1 q
  else s1

/-- A write of QWR (R377, R379). -/
def writeQwr (s : State) (q : Nat) (v : Word) : State :=
  let x := queOf s q
  if x.dev then s
  else
    let s1 := modQue s q fun y => { y with wr := v }
    if (x.state = 1 || x.state = 2) && (v - x.rd).toNat > 2 ^ x.logn then failQueue s1 q x.rd 9 0 0 else s1

/-- QWR_WRITE (R379). -/
def execQwrWrite (q : Nat) (v : Word) (s : State) : Host.Outcome State Fault Refusal :=
  .next (if q < 64 then writeQwr s q v else s)

/-- QUEUE_ENABLE: EN of a disabled queue is written 1 (R381). -/
def execQueueEnable (q : Nat) (ctl : Word) (s : State) : Host.Outcome State Fault Refusal :=
  .next (if q < 64 && ctl.getLsbD 8 && !(queOf s q).en then writeQctl s q ctl else s)

/-- QUEUE_DISABLE: EN of an enabled queue is written 0 (R378). -/
def execQueueDisable (q : Nat) (ctl : Word) (s : State) : Host.Outcome State Fault Refusal :=
  .next (if q < 64 && !ctl.getLsbD 8 && (queOf s q).en then writeQctl s q ctl else s)

/-- LVCANCEL: QCANCEL of a level object at each of its levels (R392, R395). -/
def execLvcancel (n : Nat) (s : State) : Host.Outcome State Fault Refusal :=
  .next (if n < 1024 then cancelLevel s n fun l => l.objs.contains n else s)

/-! Invalidation (R402). -/

/-- INVCTL.GO, and the fields of INVCTL. -/
def invGo : Word := 0x80000000
def invFields : Word := 0x801FFFFF

/-- A write of INVCTL: discarded while GO reads 1; a write of GO starts the invalidation of the address in INVVA. -/
def writeInv (s : State) (v : Word) : State :=
  if s.chip.invCtl.getLsbD 31 then s
  else { s with chip := { s.chip with invCtl := v &&& invFields, invAt := s.chip.invVa } }

/-- INVALIDATION_GO (R402). -/
def execInvalidationGo (ctl : Word) (s : State) : Host.Outcome State Fault Refusal :=
  .next (if ctl.getLsbD 31 then writeInv s ctl else s)

/-- What an invalidation covers: a range of a context's own tables or of its pod table, or the whole context. -/
structure InvRange where
  pcid : Nat
  pod : Bool
  all : Bool
  lo : Nat
  size : Nat
  deriving DecidableEq, Repr, Inhabited

/-- The range of an invalidation (R402). -/
def invRange (ctl : Word) (va : DWord) : InvRange :=
  let code := nbits ctl.toNat 16 3
  let size := [2 ^ 12, 2 ^ 16, 2 ^ 18, 2 ^ 21, 2 ^ 25, 2 ^ 29, 2 ^ 34].getD code (2 ^ 34)
  { pcid := nbits ctl.toNat 0 16, pod := ctl.getLsbD 20, all := ctl.getLsbD 19 || code = 7, lo := va.toNat / size * size, size := size }

/-- Whether it covers a part of n bytes at an address of a context's tables. -/
def InvRange.covers (i : InvRange) (pcid : Nat) (pod : Bool) (base n : Nat) : Bool :=
  pcid = i.pcid && (i.all || (pod = i.pod && base < i.lo + i.size && i.lo < base + n))

/-- Whether the translation of a b register of a context came from a covered entry (R206). -/
def InvRange.coversB (i : InvRange) (pcid : Nat) (b : BReg) : Bool :=
  b.here && i.covers pcid false b.base b.size

/-- b registers made stale. -/
def InvRange.stale (i : InvRange) (pcid : Nat) (l : AList BReg) : AList BReg :=
  l.map fun e => (e.1, if i.coversB pcid e.2 then { e.2 with stale := true } else e.2)

/-- The b copy of a matrix operation after an invalidation (R315). -/
def InvRange.staleOp (i : InvRange) (pcid : Nat) (o : MatOp) : MatOp := if i.coversB pcid o.b then { o with b := { o.b with stale := true } } else o

/-- A group after an invalidation: windows that used an entry are hit, b registers and buffered b copies are stale. -/
def invGrp (s : State) (i : InvRange) (g : Grp) : Grp :=
  let pcid := pcidOf s g.launch
  let op (o : BufOp) : BufOp := match o with | .mat m => .mat (i.staleOp pcid m) | x => x
  { g with g := { g.g with b := i.stale pcid g.g.b },
           wins := g.wins.map fun w =>
             { w with snap := { w.snap with b := i.stale pcid w.snap.b }, buf := w.buf.map op,
                      hit := w.hit || w.xl.any fun p => i.covers (p.1 / 2) (p.1 % 2 = 1) p.2.1 p.2.2 },
           region := g.region.map fun r => { r with b := i.stale pcid r.b } }

/-- The b copies of matrix operations after an invalidation (R315). -/
def invMat (i : InvRange) (pcid : Nat) (c : MatCtx) : MatCtx := { c with run := c.run.map (i.staleOp pcid), queue := c.queue.map (i.staleOp pcid) }

/-- The versions of the sub-pages that a removed pod entry covered advance (R206, R248). -/
def invPod (s : State) (e : TlbEnt) : State :=
  let l := hbmLoc (nbits e.leaf.toNat 12 36 * 4096)
  if !e.pod || e.leaf.getLsbD 10 then s else wrapBumps { s with ram := bumpVers s.ram l e.size } (subsOf s.ram l e.size)

/-- The descriptor of the table comes in force for a context; the pins of a context that is not valid end (R230, R385). -/
def loadCtx (s : State) (pcid : Nat) : State :=
  let c := readCtx s pcid
  if c.valid then { s with ctxs := aset ctxNone s.ctxs pcid c }
  else { s with ctxs := aset ctxNone s.ctxs pcid ctxNone, pins := s.pins.filter fun p => p.pcid != pcid }

/-- The completion of an invalidation (R206, R385, R402). -/
def invalidate (s : State) (i : InvRange) : State :=
  let gone := s.tlb.filter fun e => i.covers e.pcid e.pod e.base e.size
  let s1 : State :=
    { s with
      tlb := s.tlb.filter fun e => !i.covers e.pcid e.pod e.base e.size,
      grps := s.grps.map (invGrp s i),
      wgs := s.wgs.map fun w => { w with ctxs := w.ctxs.map fun e => (e.1, invMat i (pcidOf s w.launch) e.2) } }
  gone.foldl invPod (if i.all then loadCtx s1 i.pcid else s1)

/-- TRANSLATION_INVALIDATION_COMPLETE: GO reads 0 again (R206, R402). -/
def execTranslationInvalidationComplete (s : State) : Host.Outcome State Fault Refusal :=
  .next <|
    if !s.chip.invCtl.getLsbD 31 then s
    else
      let s1 := invalidate s (invRange s.chip.invCtl s.chip.invAt)
      { s1 with chip := { s1.chip with invCtl := s1.chip.invCtl &&& ~~~invGo } }

/-! Reads and writes of 32-bit words (R376). -/

/-- The low and the high word of a 64-bit register, by the register's word number. -/
def halfOf (v : DWord) (i : Nat) : Word := v.extractLsb' (32 * i) 32
def putHalf (v : DWord) (i : Nat) (w : Word) : DWord := if i = 0 then v.extractLsb' 32 32 ++ w else w ++ v.extractLsb' 0 32

/-- FEATURES (R72). -/
def features : Word := 0x0000FFFF

/-- The word that a read of BAR0 finds at an offset that is a multiple of 4. -/
def barWord (s : State) (off : Nat) : Word :=
  let c := s.chip
  if off = 0 then features
  else if off = 0x10 || off = 0x14 then halfOf c.ctxBase ((off - 0x10) / 4)
  else if off = 0x18 then c.ctxCount
  else if off = 0x20 then c.pgrace
  else if off = 0x24 then c.taskSlots
  else if off = 0x40 || off = 0x44 then halfOf c.evBase ((off - 0x40) / 4)
  else if off = 0x48 then c.evLogn
  else if off = 0x4C then c.evWr
  else if off = 0x50 then c.evRd
  else if off = 0x54 then c.evLost
  else if off = 0x80 || off = 0x84 then halfOf c.invVa ((off - 0x80) / 4)
  else if off = 0x88 then c.invCtl
  else if 0x1000 ≤ off && off < 0x1200 then
    let x := shelfOf s ((off - 0x1000) / 32)
    match off % 32 / 4 with
    | 0 => halfOf x.base 0 | 1 => halfOf x.base 1 | 2 => x.cap | 3 => x.flags ++ x.pcid | _ => 0
  else if 0x10000 ≤ off && off < 0x11000 then
    let x := queOf s ((off - 0x10000) / 64)
    match off % 64 / 4 with
    | 0 => halfOf x.base 0 | 1 => halfOf x.base 1 | 2 => x.ctl | 3 => x.rootp.zeroExtend 32 | 4 => x.wr | 5 => x.rd
    | 6 => x.stat | 7 => x.frd | _ => 0
  else if 0x100000 ≤ off && off < 0x108000 then
    let x := levelOf s ((off - 0x100000) / 32)
    match off % 32 / 4 with
    | 0 => halfOf x.out 0 | 1 => halfOf x.out 1 | 2 => halfOf x.done 0 | 3 => halfOf x.done 1
    | 4 => if x.cancelled then 1 else 0 | _ => 0
  else 0

/-- A write of a word of a shelf descriptor: discarded while the shelf holds records (R403). -/
def writeShelf (s : State) (k i : Nat) (v : Word) : State :=
  modShelf s k fun x =>
    if !x.recs.isEmpty then x
    else match i with
      | 0 | 1 => { x with base := putHalf x.base i v }
      | 2 => { x with cap := v }
      | 3 => { x with pcid := v.extractLsb' 0 16, flags := v.extractLsb' 16 16 }
      | _ => x

/-- A write of a word of a queue block (R377). -/
def writeQue (s : State) (q i : Nat) (v : Word) : State :=
  match i with
  | 0 | 1 => modQue s q fun x => { x with base := putHalf x.base i v }
  | 2 => writeQctl s q v
  | 3 => modQue s q fun x => { x with rootp := v.extractLsb' 0 16 }
  | 4 => writeQwr s q v
  | _ => s

/-- A write of a word of BAR0 at an offset that is a multiple of 4; other addresses and RO registers discard it (R5, R376). -/
def writeBar (s : State) (off : Nat) (v : Word) : State :=
  let c := s.chip
  if off = 0x10 then { s with chip := { c with ctxBase := putHalf c.ctxBase 0 (v &&& 0xFFFFF000) } }
  else if off = 0x14 then { s with chip := { c with ctxBase := putHalf c.ctxBase 1 v } }
  else if off = 0x18 then { s with chip := { c with ctxCount := if v.toNat > 65536 then 65536 else v } }
  else if off = 0x20 then { s with chip := { c with pgrace := v } }
  else if off = 0x24 then { s with chip := { c with taskSlots := v } }
  else if off = 0x40 || off = 0x44 then { s with chip := { c with evBase := putHalf c.evBase ((off - 0x40) / 4) v } }
  else if off = 0x48 then { s with chip := { c with evLogn := v } }
  else if off = 0x50 then { s with chip := { c with evRd := v } }
  else if off = 0x80 || off = 0x84 then { s with chip := { c with invVa := putHalf c.invVa ((off - 0x80) / 4) v } }
  else if off = 0x88 then writeInv s v
  else if 0x1000 ≤ off && off < 0x1200 then writeShelf s ((off - 0x1000) / 32) (off % 32 / 4) v
  else if 0x10000 ≤ off && off < 0x11000 then writeQue s ((off - 0x10000) / 64) (off % 64 / 4) v
  else if 0x100000 ≤ off && off < 0x108000 && off % 32 = 0x14 then
    cancelLevel s ((off - 0x100000) / 32) fun l => l.objs.contains ((off - 0x100000) / 32)
  else s

/-- The word at a aligned offset with the bytes that a write of `size` bytes at `off` covers replaced. -/
def mergeBar (old : Word) (a off size : Nat) (v : DWord) : Word :=
  BitVec.ofNat 32 (leNat ((below 4).map fun j =>
    if off ≤ a + j && a + j < off + size then v.extractLsb' (8 * (a + j - off)) 8 else old.extractLsb' (8 * j) 8))

/-- REGISTER_WRITE: a write of 1 to 8 bytes of BAR0, word by word (R5, R376). -/
def execRegisterWrite (off size : Nat) (v : DWord) (s : State) : Host.Outcome State Fault Refusal :=
  .next <|
    if size = 0 || size > 8 || off + size > 2 ^ 24 then s
    else (upto (off / 4) ((off + size - 1) / 4 + 1 - off / 4)).foldl (fun t i =>
      writeBar t (4 * i) (mergeBar (barWord t (4 * i)) (4 * i) off size v)) s

end Sys2Proof.Machine
end

