-- ==== Sys2Proof/Machine/Save.lean ====
section
/-! DEFINITION. Idempotent regions, the save and the restore of gangs (spec/15_traps_contexts.md R421 to R430;
spec/07_memory_access.md R227; spec/10_synchronisation.md R294; spec/11_matrix.md R330). -/

namespace Sys2Proof.Machine

/-! Regions (R429, R430). -/

/-- The v registers of the units that a kept mask marks. -/
def keptRegs (kept : Word) : List Nat := (below 256).filter fun n => kept.getLsbD (n / 8)

/-- The dead bits of the kept units, and every other v register. -/
def keptDead (kept : Word) (dead : BitVec 256) : BitVec 256 :=
  (below 256).foldl (fun m n => if kept.getLsbD (n / 8) && !dead.getLsbD n then m &&& ~~~ (BitVec.ofNat 256 (2 ^ n)) else m) (BitVec.allOnes 256)

/-- The region entry record of a group whose one split is x and goes on at pcc. -/
def regionOf (g : Grp) (x : Split) (pcc : Cap) (kept : Word) : Region :=
  { idx := x.idx, rows := g.g.v.filter fun e => kept.getLsbD (e.1 / 8), qt := g.g.qtags.filter fun e => kept.getLsbD (e.1 / 2),
    s := x.s, act := x.act, c := x.c, pcc := pcc, lcc := x.lcc, k := g.g.k, b := g.g.b, status := g.g.status, tce := g.tceTicket,
    ce := g.ceTicket, nbr := g.g.nbrSeq, kept := kept, dead := g.g.dead }

/-- The kept registers at a discard: the current value, or that of the entry where a last-use mark has ended it since. -/
def keptRows (g : Grp) (r : Region) : AList Row :=
  (keptRegs r.kept).foldl (fun v n => aset zeroRow v n (if vDead g.g n then aget zeroRow r.rows n else vGet g.g n)) []
def keptTags (g : Grp) (r : Region) : AList LaneMask :=
  ((below 64).filter fun q => r.kept.getLsbD (q / 2)).foldl (fun t q =>
    aset 0 t q (if (upto (4 * q) 4).any (vDead g.g) then aget 0 r.qt q else aget 0 g.g.qtags q)) []

/-- b registers to be translated again (R206, R425). -/
def staleB (b : AList BReg) : AList BReg := b.map fun e => (e.1, { e.2 with stale := true })

/-- A group that a discard restarts from its entry record (R430). -/
def restartGrp (g : Grp) (r : Region) : Grp :=
  let x : Split := { idx := r.idx, s := r.s, act := r.act, withheld := 0, c := r.c, pcc := r.pcc, lcc := r.lcc, st := .ready, age := 0,
                     issued := 0, noWatch := false }
  { g with
    g := { splits := [x], k := r.k, v := keptRows g r, dead := keptDead r.kept r.dead, qtags := keptTags g r, b := staleB r.b,
           status := r.status, laneQ := [], compact := none, nbrSeq := r.nbr, nbrPosted := false },
    wins := [], rbStart := 0, rbRun := 0, rbNext := 0, solo := none, tceTicket := r.tce, ceTicket := r.ce, frec := [], recTag := false,
    frame := none, watch := [], dormant := none }

/-- Whether a gang is discarded rather than saved (R430). -/
def mayDiscard (s : State) (x : Gang) : Bool :=
  let gs := s.grps.filter fun g => g.gang = x.uid && !g.task
  let live (u : Nat) : Bool :=
    (s.tces.any fun o => o.group = u && (o.st = .queued || o.st = .running || o.st = .stopped)) ||
    (s.ces.any fun l => l.group = u && (l.st = .queued || l.st = .running || l.st = .stopped)) || mcastBusy s u
  (match lnchBy s x.launch with | some l => !l.kd.accs && l.kd.scratch = 0 | none => false) &&
  gs.all fun g => (g.ended || g.region.isSome) && g.frame.isNone && !live g.uid

/-! Save (R421 to R423). -/

/-- A chain run that has begun starts again (R59, R423). -/
def restartRun (b : LaneBlock) : LaneBlock :=
  match runOf b.words b.next with | some (lo, _) => if lo = b.next then b else { b with next := lo, todo := none, pre := none } | none => b

/-- The group and its q registers as they stood before the chain run that its lane queue's head has begun (R59). -/
def undoRun (s : State) (uid : Nat) : State :=
  match grpOf s uid with
  | none => s
  | some g => match g.g.laneQ.head?.bind (·.pre) with
    | none => s
    | some p =>
      let s1 := p.q.foldl (fun t e => modMat t g.wg (matPos t g) fun c => { c with bank := aset zeroRow c.bank e.1 e.2 }) s
      modGrp s1 uid fun h => { h with g := p.back h.g }

/-- A group stops for a save: its windows roll back and its runs restart (R423). -/
def stopGrp (s : State) (uid : Nat) : State :=
  modGrp (undoRun (dropAns (rollGrp s uid 0) uid) uid) uid fun g => if g.ended then g else
    { g with g := { g.g with laneQ := g.g.laneQ.map restartRun, b := staleB g.g.b }, saved := true }

/-- The mapping slots of a workgroup go to its image and are unmapped; its die proxies are discarded (R227, R423). -/
def saveMaps (s : State) (wg : Nat) : State :=
  let ms := s.ram.maps.filter fun m => m.wg = wg
  let s1 := unmapWg (modWg s wg fun w => { w with mapSave := ms }) wg
  { s1 with proxies := s1.proxies.filter fun p => p.wg != wg }

/-- Slots of the save pool for the workgroups that have none, or none where the pool is exhausted (R422). -/
def takeSlots (s : State) : List Nat → Option State
  | [] => some s
  | w :: ws =>
    match wgBy s w with
    | none => takeSlots s ws
    | some x =>
      if x.ended || x.slot.isSome then takeSlots s ws
      else match saveSlot s with
        | none => none
        | some k => takeSlots (modWg { s with saveUsed := k :: s.saveUsed } w fun y => { y with slot := some k }) ws

/-- The save of a placed gang begins (R423): discarded where R430 allows, else stopped and saved; without room in the pool
nothing happens but an event (R422). -/
def saveGang (s : State) (uid : Nat) : State :=
  match gangBy s uid with
  | none => s
  | some x =>
    if x.st != .placed || (s.grps.any fun g => g.gang = uid && g.saved) then s
    else match takeSlots s x.wgs with
      | none =>
        let die := match wgBy s (x.wgs.headD 0) with | some w => w.core0 / 72 | none => 0
        raiseEvent (modGang s uid fun y => { y with request := false }) 8 die 0 []
      | some s1 =>
        let gs := s1.grps.filter fun g => g.gang = uid && !g.task && !g.ended
        let s2 := if mayDiscard s1 x then
            gs.foldl (fun t g => modGrp (dropAns t g.uid) g.uid fun h => match h.region with
              | some r => { restartGrp h r with saved := true }
              | none => h) s1
          else gs.foldl (fun t g => stopGrp t g.uid) s1
        modGang (x.wgs.foldl saveMaps s2) uid fun y => { y with st := .saving, request := false }

/-- PSLACK_EXPIRY: PSLACK µs have passed since the request of a gang (R421). -/
def execPslackExpiry (gang : Nat) (s : State) : Host.Outcome State Fault Refusal :=
  .next <| match gangBy s gang with
    | some x => if x.request then saveGang s gang else s
    | none => s

/-- GANG_SAVE_COMPLETE: every image is written, and the cores of the gang are free (R423). -/
def execGangSaveComplete (gang : Nat) (s : State) : Host.Outcome State Fault Refusal :=
  .next <| match gangBy s gang with
    | some x => if x.st = .saving then modGang (x.wgs.foldl writeImage s) gang fun y => { y with st := .saved } else s
    | none => s

/-! Restore (R427). -/

/-- The recorded slots are mapped again (R227). -/
def restoreMaps (s : State) (wg : Nat) : State :=
  match wgBy s wg with
  | none => s
  | some w => modWg (w.mapSave.foldl mapOne s) wg fun y => { y with mapSave := [] }

/-- GANG_RESTORE_COMPLETE: the images are read back and the groups of a gang that has been placed again go on; a group restored during an epoch has been
swept (R193, R427). -/
def execGangRestoreComplete (gang : Nat) (s : State) : Host.Outcome State Fault Refusal :=
  .next <| match gangBy s gang with
    | none => s
    | some x =>
      if x.st != .placed then s
      else
        let s := x.wgs.foldl readImage s
        let f (g : Grp) : Grp := if s.rev.sweepDone then g else sweepGrp s (fun pc c => barrier s pc c) g
        { s with grps := updWhere (fun g => g.gang = gang && !g.task && g.saved) (fun g => { f g with saved := false }) s.grps }

end Sys2Proof.Machine
end

