-- ==== Sys2Proof/Machine/Dispatcher.lean ====
section
/-! DEFINITION. The dispatcher: what waits, where it is placed, pre-emption for a waiting unit, task pops, moves of clusters
between domains (spec/14_queue_commands.md R397 to R399; spec/03_scalar_stream.md R80; spec/10_synchronisation.md R300;
spec/15_traps_contexts.md R421, R427; spec/16_protection_links.md R458, R459). -/

namespace Sys2Proof.Machine

/-! What the cores have in use. -/

/-- Whether a workgroup's cores are taken: placed, or saving; an ended one keeps its scratchpad while engine operations of
its gang live (R395, R423). -/
def wgThere (s : State) (w : Wg) : Bool :=
  !w.ended && (match gangBy s w.gang with | some x => x.st = .placed || x.st = .saving | none => false)
def wgPadThere (s : State) (w : Wg) : Bool :=
  wgThere s w || (w.ended && ((s.tces.any fun o => o.gang = w.gang && (o.st = .queued || o.st = .running)) ||
    s.ces.any fun l => l.gang = w.gang && (l.st = .queued || l.st = .running)))

/-- The groups of a workgroup in its launch (R21). -/
def wgGroups (w : Wg) : Nat := w.perCore.foldl (· + ·) 0

/-- The scratchpad bytes that a workgroup holds on a core, and whether its run holds the core. -/
def wgPadOn (w : Wg) (core : Nat) : Nat :=
  if w.core0 ≤ core && core < w.core0 + w.perCore.length then padShare w.scratch (wgGroups w) (w.perCore.getD (core - w.core0) 0) else 0
def wgOn (w : Wg) (core : Nat) : Bool := w.core0 ≤ core && core < w.core0 + w.perCore.length

/-- What a core has in use. -/
def useOf (s : State) (core : Nat) : CoreUse :=
  let hs := holders s core false
  { groups := (hs.map (·.slot)).eraseDups.length,
    regs := (hs.map fun g => regBytes g.regs).foldl (· + ·) 0,
    pad := ((s.wgs.filter (wgPadThere s)).map fun w => wgPadOn w core).foldl (· + ·) 0,
    ctxs := (s.wgs.filter fun w => wgThere s w && wgOn w core &&
      (match lnchBy s w.launch with | some l => l.kd.accs | none => false)).length }

/-! What waits (R397). -/

/-- A waiting unit: a saved gang, or the next gang of a launch. -/
inductive Unit_ where
  | saved (launch gang : Nat)
  | fresh (launch : Nat)
  deriving DecidableEq, Repr, Inhabited

def Unit_.launch : Unit_ → Nat
  | .saved l _ => l
  | .fresh l => l

/-- The first waiting unit of a launch. -/
def waitingOf (s : State) (l : Lnch) : Option Unit_ :=
  match s.gangs.find? fun x => x.launch = l.uid && x.st = .saved with
  | some x => some (.saved l.uid x.uid)
  | none => if !l.kd.task && l.next < l.count then some (.fresh l.uid) else none

/-- The head unit of a queue: its launches go in acceptance order. -/
def headOf (s : State) (q : Nat) : Option Unit_ :=
  (s.launches.filter fun l => l.queue = q && !l.complete).findSome? (waitingOf s)

/-- The priority of a unit's launch. -/
def prioOf (s : State) (u : Unit_) : Nat := match lnchBy s u.launch with | some l => l.prio | none => 3

/-- The head units in the order in which they are served: by priority, then round-robin from the queue after the one last
served. -/
def heads (s : State) : List (Nat × Unit_) :=
  let all := (below 64).filterMap fun i => let q := (s.chip.lastQueue + 1 + i) % 64; (headOf s q).map fun u => (q, u)
  (below 4).flatMap fun p => all.filter fun e => prioOf s e.2 = p

/-! Placement (R398). -/

/-- The workgroups of a gang that have not ended. -/
def gangWgs (s : State) (uid : Nat) : List Wg :=
  match gangBy s uid with | some x => (x.wgs.filterMap (wgBy s)).filter fun w => !w.ended | none => []

/-- The demand of a saved workgroup: its groups that have not ended, on each core of its run (R427). -/
def savedDemand (s : State) (w : Wg) : Demand :=
  (below w.perCore.length).map fun i =>
    (((grpsOfWg s w.uid).filter fun g => g.core = w.core0 + i).length, padShare w.scratch (wgGroups w) (w.perCore.getD i 0))

/-- The demands of a unit. -/
def demandsOf (s : State) (u : Unit_) (l : Lnch) : Option (List Demand) :=
  match u with
  | .saved _ g => some ((gangWgs s g).map (savedDemand s))
  | .fresh _ => gangDemand l.kd

/-- Where a unit would be placed with a use of the cores. -/
def planUnit (s : State) (u : Unit_) (use : Nat → CoreUse) : Option (List Nat) :=
  match lnchBy s u.launch with
  | none => none
  | some l => match demandsOf s u l with
    | none => none
    | some ds => planGo l.kd (fun cl => coreOpen s l.pcid (8 * cl)) use none ds

/-- The lowest free slots of a core. -/
def freeSlots (s : State) (core : Nat) : List Nat :=
  let hs := (holders s core false).map (·.slot)
  (below 16).filter fun k => !hs.contains k

/-- The scalar registers of a group at its start: argument words by the argument map (R80). -/
def startRegs (l : Lnch) : AList Word :=
  (below 8).foldl (fun r i => let d := l.kd.argMap.getD i 0; if d = 0 then r else aset 0 r d (l.args.getD i 0)) []

/-- The stack capability of a group (R388). -/
def stackCap (l : Lnch) (wgid gidx : Nat) : Cap :=
  if l.stack = 0 then capNull
  else
    let a := l.stack + l.stackSize * (wgid * l.kd.groups + gidx)
    (narrow l.root a l.stackSize stackPerms (a + l.stackSize)).getD capNull

/-- The capability registers of a group at its start (R80, R388). -/
def startCaps (l : Lnch) (wgIx wgid gidx : Nat) : AList Cap :=
  let ps := (below 8).foldl (fun r i => aset capNull r i (padParamAt (l.params.getD i capNull) wgIx)) []
  aset capNull ps 31 (stackCap l wgid gidx)

/-- One split that holds every lane. -/
def startSplit (s : AList Word) (c : AList Cap) (pcc lcc : Cap) : Split :=
  { idx := 0, s := s, act := allLanes, withheld := 0, c := c, pcc := pcc, lcc := lcc, st := .ready, age := 0, issued := 0, noWatch := false }

/-- The state of a group at its start (R80, R48). -/
def startCore (x : Split) : GCore :=
  { splits := [x], k := [], v := [], dead := BitVec.allOnes 256, qtags := [], b := [], status := 0, laneQ := [], compact := none,
    nbrSeq := 0, nbrPosted := false }

/-- A group with no name, place or launch yet. -/
def blankGrp (g : GCore) (regs : Nat) : Grp :=
  { uid := 0, launch := 0, gang := 0, wg := 0, task := false, shelf := 0, core := 0, slot := 0, gidx := 0, regs := (regs + 7) / 8 * 8,
    g := g, wins := [], rbcount := 0, rbStart := 0, rbRun := 0, integ := none, rbNext := 0, solo := none, tceTicket := 0, ceTicket := 0, posts := [],
    frec := [], recTag := false, frame := none, watch := [], region := none, dormant := none, ySlot := none, saved := false, ended := false }

/-- A group of a fresh workgroup in a slot; an `.idem` kernel starts in a region (R80, R429). -/
def placeGrp (s : State) (l : Lnch) (gang wg wgIx wgid core slot gidx : Nat) : State :=
  let x := startSplit (startRegs l) (startCaps l wgIx wgid gidx) l.pcc l.lcc
  let g := { blankGrp (startCore x) l.kd.regs with
    uid := s.uid, launch := l.uid, gang := gang, wg := wg, core := core, slot := slot, gidx := gidx }
  { s with grps := s.grps ++ [{ g with region := if l.kd.idem then some (regionOf g x l.pcc 0) else none }], uid := s.uid + 1 }

/-- The groups of one core of a fresh workgroup's run, from a GROUPIDX on. -/
def placeCore (s : State) (l : Lnch) (gang wg wgIx wgid core first n : Nat) : State :=
  (((freeSlots s core).take n).zipIdx).foldl (fun t e => placeGrp t l gang wg wgIx wgid core e.1 (first + e.2)) s

/-- The matrix contexts of a fresh workgroup: on each core, the group with the lowest GROUPIDX holds it (R302). -/
def startCtxs (s : State) (wg : Nat) (run : List Nat) : AList MatCtx :=
  (run.zipIdx).foldl (fun c e => aset matNone c e.2
    { matNone with holder := ((grpsOfWg s wg).find? fun g => g.core = e.1).map (·.uid) }) []

/-- A fresh workgroup on the run from a core (R21, R29, R278). -/
def placeWg (s : State) (l : Lnch) (gang wg wgIx wgid core0 : Nat) (counts : List Nat) : State :=
  let w : Wg := { uid := wg, launch := l.uid, gang := gang, wgid := wgid, core0 := core0, perCore := counts, scratch := l.kd.scratch,
                  ctxs := [], slot := none, mapSave := [], ended := false }
  let s1 := { s with wgs := s.wgs ++ [w], ram := { s.ram with pads := aset padNone s.ram.pads wg { padNone with size := l.kd.scratch } } }
  let s2 := ((counts.zipIdx).foldl (fun (e : State × Nat) c =>
    (placeCore e.1 l gang wg wgIx wgid (core0 + c.2) e.2 c.1, e.2 + c.1)) (s1, 0)).1
  if l.kd.accs then modWg s2 wg fun w => { w with ctxs := startCtxs s2 wg ((below counts.length).map (core0 + ·)) } else s2

/-- A fresh gang of a launch on its runs (R31, R398). -/
def placeGang (s : State) (l : Lnch) (starts : List Nat) : State :=
  let n := starts.length
  let gang := s.uid
  let wgs := upto (s.uid + 1) n
  let counts := (shapeOf l.kd).getD []
  let x : Gang := { uid := gang, launch := l.uid, gangid := l.next / n, wgs := wgs, st := .placed, request := false, stamp := gang, prio := l.prio }
  let s1 := modLnch { s with uid := s.uid + 1 + n, gangs := s.gangs ++ [x] } l.uid fun y => { y with next := y.next + n }
  (starts.zipIdx).foldl (fun t e => placeWg t l gang (gang + 1 + e.2) e.2 (l.next + e.2) e.1 counts) s1

/-- The groups of a restored workgroup take the lowest free slots of the cores of its new run (R427). -/
def moveWg (s : State) (w : Wg) (core0 : Nat) : State :=
  let gs := grpsOfWg s w.uid
  let s1 := (below w.perCore.length).foldl (fun t i =>
    let slots := freeSlots t (core0 + i)
    ((gs.filter fun g => g.core = w.core0 + i).zipIdx).foldl (fun t e =>
      modGrp t e.1.uid fun g => { g with core := core0 + i, slot := slots.getD e.2 0 }) t) s
  modWg s1 w.uid fun y => { y with core0 := core0 }

/-- A saved gang is placed again: it goes on once its images have been copied back (R427). -/
def restoreGang (s : State) (gang : Nat) (starts : List Nat) : State :=
  let ws := gangWgs s gang
  let s1 := (ws.zip starts).foldl (fun t e => moveWg t e.1 e.2) s
  let s2 := ws.foldl (fun t w => restoreMaps t w.uid) s1
  modGang { s2 with uid := s2.uid + 1 } gang fun x => { x with st := .placed, stamp := s2.uid }

/-- A unit is placed on its runs. -/
def placeUnit (s : State) (u : Unit_) (starts : List Nat) : State :=
  match u with
  | .saved _ g => restoreGang s g starts
  | .fresh l => match lnchBy s l with | some y => placeGang s y starts | none => s

/-- The first head unit that fits, with its queue and its runs. -/
def nextUnit (s : State) : Option (Nat × Unit_ × List Nat) :=
  (heads s).findSome? fun e => (planUnit s e.2 (useOf s)).map fun p => (e.1, e.2, p)

/-- Whether the dispatcher places units: not once P3 has been requested (R468). -/
def placing (s : State) : Bool := s.power = .run && s.arm.req != 3

/-- DISPATCH_PLACE (R397, R398). -/
def execDispatchPlace (s : State) : Host.Outcome State Fault Refusal :=
  .next <| if !placing s then s else
    match nextUnit s with
    | none => s
    | some (q, u, p) => let s1 := placeUnit s u p; { s1 with chip := { s1.chip with lastQueue := q } }

/-! Pre-emption for a waiting unit (R399, R421). -/

/-- The state as it would be without these gangs. -/
def withoutGangs (s : State) (gs : List Nat) : State :=
  { s with gangs := s.gangs.map fun x => if gs.contains x.uid then { x with st := .saved } else x }

/-- Whether one gang goes before another: the lower priority, then the later placement. -/
def before (x y : Gang) : Bool := x.prio > y.prio || (x.prio = y.prio && x.stamp > y.stamp)

/-- The gangs in the order in which they are taken. -/
def takeOrder : List Gang → List Gang
  | [] => []
  | x :: l => let r := takeOrder l; (r.filter fun y => before y x) ++ x :: (r.filter fun y => !before y x)

/-- The shortest run of gangs in that order after whose departure a unit fits. -/
def takeUntil (s : State) (u : Unit_) (gone : List Nat) : List Gang → Option (List Nat)
  | [] => if (planUnit s u (useOf (withoutGangs s gone))).isSome then some gone else none
  | x :: l => if (planUnit s u (useOf (withoutGangs s gone))).isSome then some gone else takeUntil s u (x.uid :: gone) l

/-- The gangs that a waiting unit pre-empts: those already leaving count as gone. -/
def victims (s : State) (u : Unit_) : Option (List Nat) :=
  let leaving := (s.gangs.filter fun x => x.st = .saving || (x.st = .placed && x.request)).map (·.uid)
  takeUntil s u leaving (takeOrder (s.gangs.filter fun x => x.st = .placed && !x.request && x.prio > prioOf s u))

/-- PGRACE_EXPIRY: the first head unit that does not fit and would after pre-emption requests the gangs it needs (R399). -/
def execPgraceExpiry (s : State) : Host.Outcome State Fault Refusal :=
  .next <|
    match (heads s).findSome? fun e => if (planUnit s e.2 (useOf s)).isSome then none else victims s e.2 with
    | none => s
    | some gs => { s with gangs := updWhere (fun x => gs.contains x.uid && x.st = .placed) (fun x => { x with request := true }) s.gangs }

/-! Tasks (R300, R398). -/

/-- Whether a unit waits that a slot of a core could serve. -/
def unitWaits (s : State) (core : Nat) : Bool :=
  (heads s).any fun e => match lnchBy s e.2.launch with | some l => coreOpen s l.pcid core | none => false

/-- Whether a dormant group of a core could be reactivated there (R288). -/
def dormantDue (s : State) (core : Nat) : Bool :=
  s.grps.any fun g => !g.task && g.core = core && !g.saved && !g.ended &&
    (match g.dormant with
     | none => false
     | some d => (pendingStop s g).isSome || (barFree s g.uid d.obj && (waitRes s (core / 72) d.obj d.p).isSome))

/-- The shelf from which a task-mode slot pops, in turn from the one after the last (R300). -/
def popShelf (s : State) (core slot : Nat) : Option (Nat × TaskRec) :=
  let last := aget 0 s.chip.lastPop (core * 16 + slot)
  (below 8).findSome? fun i =>
    let k := 8 * (core / 72) + (last + i) % 8
    let x := shelfOf s k
    match x.recs with
    | [] => none
    | r :: _ =>
      let hs := holders s core true
      let room : Bool := (hs.map fun g => regBytes g.regs).foldl (· + ·) (regBytes (recRegs r)) ≤ regFile
      if x.flags.getLsbD 0 && room && coreOpen s x.pcid.toNat core then some (k, r) else none

/-- The gang whose scratchpads a task's scratchpad capabilities name: gang 0 of its launch, if that is placed or saved (R168, R300; log 74). -/
def taskGang (s : State) (launch : Nat) : Nat :=
  match s.gangs.find? fun x => x.launch = launch && x.gangid = 0 && x.st != .discarded with | some x => x.uid | none => 0

/-- The group that runs a record (R300). -/
def taskGrp (s : State) (r : TaskRec) (shelf core slot : Nat) : Grp :=
  let code := withOtype (r.q.getD 0 capNull) 0
  let regs := aset 0 (aset 0 [] 1 (recArg r)) 2 (recJoin r)
  let caps := aset capNull (aset capNull [] 0 (r.q.getD 1 capNull)) 1 (r.q.getD 2 capNull)
  let lcc := withAddr code (capBase code + recLane r)
  { blankGrp (startCore (startSplit regs caps code lcc)) (recRegs r) with
    uid := s.uid, launch := r.launch, gang := taskGang s r.launch, task := true, shelf := shelf, core := core, slot := slot }

/-- TASK_POP: a slot in task mode pops a record and starts it (R300, R398). -/
def execTaskPop (core slot : Nat) (s : State) : Host.Outcome State Fault Refusal :=
  .next <|
    let hs := holders s core true
    if !placing s || core ≥ 144 || slot ≥ 16 || (hs.any fun g => g.slot = slot) || dormantDue s core || unitWaits s core
      || (hs.filter (·.task)).length ≥ s.chip.taskSlots.toNat then s
    else match popShelf s core slot with
      | none => s
      | some (k, r) =>
        let s1 := dropHead s k
        { s1 with grps := s1.grps ++ [taskGrp s1 r k core slot], uid := s1.uid + 1,
                  chip := { s1.chip with lastPop := aset 0 s1.chip.lastPop (core * 16 + slot) (k % 8 + 1) } }

/-! Clusters and domains (R458, R459). -/

/-- Whether a cluster holds a placed group or an engine thread. -/
def clusterBusy (s : State) (cl : Nat) : Bool :=
  (upto (8 * cl) 8).any fun c => !(holders s c false).isEmpty
    || s.tces.any fun o => o.core = c && (o.st = .queued || o.st = .running || o.st = .stopped)

/-- The clear sequence on a cluster of a domain (R458): the code caches of its cores and the domain's pins; the lines of a domain
that leaves its last cluster are written back. The registers, scratchpads, matrix contexts and tensor copy queues of a cluster
that is not busy are those of no unit. -/
def clearCluster (s : State) (cl : Nat) : State :=
  let dom := aget 0 s.domains cl
  let lo := codeKey (8 * cl) 0 0
  let hi := codeKey (8 * cl + 8) 0 0
  let last : Bool := dom != 0 && (below 18).all fun c => c = cl || aget 0 s.domains c != dom
  { s with
    codeCache := s.codeCache.filter fun e => e.1 < lo || hi ≤ e.1,
    pins := s.pins.filter fun p => domOf s p.pcid != dom,
    dirty := if last then s.dirty.filter fun e => !(e.1 < 2 ^ 60 && regionDom s (e.1 * 128) = dom.toNat) else s.dirty,
    clearing := aset false s.clearing cl true }

/-- Whether the slot of a domain allows a cluster (R458). -/
def maskHas (s : State) (dom : BitVec 6) (cl : Nat) : Bool :=
  dom = 0 || ((slotOf s dom.toNat).st = .sealed && (slotOf s dom.toNat).mask.getLsbD cl)

/-- CLUSTER_DOMAIN_MOVE: an idle cluster moves so that a waiting unit can be placed on it (R458). -/
def execClusterDomainMove (cluster : Nat) (dom : BitVec 6) (s : State) : Host.Outcome State Fault Refusal :=
  .next <|
    if s.power != .run || cluster ≥ 18 || clusterBusy s cluster || aget false s.clearing cluster || aget 0 s.domains cluster = dom
      || !maskHas s dom cluster
      || !((heads s).any fun e => match lnchBy s e.2.launch with | some l => domOf s l.pcid = dom | none => false) then s
    else
      let s1 := clearCluster s cluster
      { s1 with domains := aset 0 s1.domains cluster dom }

/-- CLEAR_SEQUENCE_COMPLETE: after 18 µs the cluster may be used again (R458, R459). -/
def execClearSequenceComplete (cluster : Nat) (s : State) : Host.Outcome State Fault Refusal :=
  .next { s with clearing := aset false s.clearing cluster false }

end Sys2Proof.Machine
end

