-- ==== Sys2Proof/Machine/Engine.lean ====
section
/-! DEFINITION. Accesses of the engines: their checks, places, reads, writes and counts, and window addresses
(spec/06_capabilities.md R176, R177, R194; spec/12_tensor_copy.md R341, R344; spec/13_collective_engines.md R357 to R359;
spec/09_atomics_reductions.md R265, R266). -/

namespace Sys2Proof.Machine

/-! Window addresses. -/

/-- An empty window table entry. -/
def winNone : Win :=
  { d := { kind := 0, fmt := 0, acc := false, gen := 0, members := [], range := 0, len := 0, notify := 0, contributors := 0, pcid := 0 },
    broken := false, held := [], merged := [], rounds := 0, sparse := [] }

/-- Window id of this node's table. -/
def winOf (s : State) (id : Nat) : Win := aget winNone s.fab.wins id
def setWin (s : State) (id : Nat) (w : Win) : State := { s with fab := { s.fab with wins := aset winNone s.fab.wins id w } }

/-- The sum or sparse window in whose range an aperture byte lies (R265). -/
def windowAt (s : State) (va : Nat) : Option (Nat × Win) :=
  s.fab.wins.find? fun e => (e.2.d.kind = 1 || e.2.d.kind = 3) && e.2.d.range ≤ va && va < e.2.d.range + e.2.d.len

/-- The format of a window as a type (R265). -/
def fmtTy (f : Nat) : Ty := if f = 0 then .f32 else if f = 1 then .bf16 else .s32

/-- Whether a type agrees with a window's format (R266). -/
def agrees (f : Nat) (t : Ty) : Bool := t = fmtTy f || (f = 2 && t = .z32)

/-- A packet of a protected domain that would leave through an unsealed port is not sent (R442). -/
def unsealed (s : State) (pcid va access : Nat) (x : Cap) : Option TrapInfo :=
  if sealedOk s pcid (va % 2 ^ 47) then none else some { xlFault kScope 8 access va false with cap := x }

/-- The checks of a contribution that follow the one of its type (R266, R442). -/
def contribCheck (s : State) (pcid who : Nat) (w : Win) (va access : Nat) (x : Cap) : Option TrapInfo :=
  if !(w.d.members.contains s.fab.node.toNat) then some { xlFault kScope 6 access va false with cap := x }
  else if !w.d.contributors.getLsbD who then some (capFault x 14 va access)
  else if w.broken then some { kind := kPeerlost, detail := 3, access := access, addr := va, cap := x }
  else if nbits va 47 9 != s.fab.node.toNat then unsealed s pcid va access x
  else none

/-- One contribution to the element at an address of a window. -/
def contribOf (s : State) (id : Nat) (w : Win) (who va : Nat) (v : Word) : Contribution :=
  { win := id, gen := w.d.gen, rank := w.d.members.idxOf s.fab.node.toNat, contributor := who, off := (va - w.d.range) / 4, value := v, tag := 0 }

/-! Accesses. -/

/-- The scratchpad sizes that an engine of a gang may reach. A detached list reaches none once every workgroup of the gang has
ended (R353); the other engine threads of a discarded gang keep theirs (R395). -/
def engPad (s : State) (ag : Agt) (i : Nat) : Option Nat :=
  let detached : Bool := s.ces.any fun l => (l.uid = ag.uid || l.cmds.any fun c => c.uid = ag.uid) && l.owner.isNone
  let ended : Bool := match gangBy s ag.gang with
    | some x => x.wgs.all fun w => match wgBy s w with | some y => y.ended | none => true
    | none => true
  if detached && ended then none else gangPad s ag.gang i

/-- The places of n bytes through a capability, piece by piece within pages. -/
def engPages (s : State) (ag : Agt) (x : Cap) (va kind : Nat) : Nat → Nat → Got (List (Tgt × Nat))
  | 0, _ => .ok s []
  | fuel + 1, n =>
    if n = 0 then .ok s []
    else
      let k := if cSP x then n else min n (4096 - va % 4096)
      (target s ag x va kind 0 (gangWg s ag.gang)).bind fun s1 p =>
        (engPages s1 ag x (va + k) kind fuel (n - k)).bind fun s2 l => .ok s2 ((p, k) :: l)

/-- The checks of R177 on an engine operand, and the alignment that its use asks directly after them (R260). -/
def engCheck (s : State) (ag : Agt) (x : Cap) (need : List Nat) (va : Int) (n align : Nat) : Option TrapInfo :=
  match checkUse x need va n accEngine false none (engPad s ag) with
  | .error t => some t
  | .ok () => if va % align != 0 then some (capFault x 13 va accEngine) else none

/-- An engine's access to n bytes at va of the given kind: the checks of R177 with the bounds, then translation; `host`
says whether host pages may be used (R407). The record of a failure names an engine operand (R411). -/
def engPlaces (s : State) (ag : Agt) (host : Bool) (x : Cap) (need : List Nat) (va : Int) (n kind : Nat) : Got (List (Tgt × Nat)) :=
  match engCheck s ag x need va n 1 with
  | some t => .fault s t
  | none => match engPages s { ag with host := host } x va.toNat kind (n / 4096 + 2) n with
    | .fault s1 t => .fault s1 { t with access := accEngine, addr := modPow va 64, cap := x }
    | r => r

/-- A fault of the access itself, as the engine's record holds it. -/
def engFault {α : Type} (x : Cap) (va : Int) : Got α → Got α
  | .fault s t => .fault s { t with access := accEngine, addr := modPow va 64, cap := x }
  | r => r

/-- An engine's requests carry the capability of its operand (R176). -/
def engAuth (x : Cap) : Auth := { cap := x, stated := 0 }

/-- Bytes read by an engine. -/
def engRead (s : State) (ag : Agt) (host : Bool) (x : Cap) (va : Int) (n : Nat) : Got (List Byte) :=
  (engPlaces s ag host x [pLOAD, pCOPY] va n accRead).bind fun s1 l => engFault x va (piecesRead s1 (engAuth x) ag accEngine l)

/-- A failure that does not stop an engine's operation but ends it with an error: unverified or damaged data and a lost peer (R344,
R365, R410). -/
def endsOp (t : TrapInfo) : Bool := t.kind = kIntegrity || t.kind = kPeerlost || t.kind = kSpoiled

/-- A granule read with its tag, which the load barrier and the source capability filter (R176, R191). -/
def engReadCap (s : State) (ag : Agt) (host : Bool) (x : Cap) (va : Int) : Got Cap :=
  (engPlaces s ag host x [pLOAD, pCOPY] va 16 accRead).bind fun s1 l =>
    match l with
    | [(.here p _, _)] =>
      match blocked s1 ag.uid false (linesOf s1.ram p 16), spoilAt s1 p 16 with
      | some s2, _ => .wait s2
      | none, some d => engFault x va (.fault s1 { kind := kSpoiled, detail := d })
      | none, none =>
        let v := ramReadCap s1.ram p
        .ok s1 (barrier s1 ag.pcid { v with tag := v.tag && p.sp != .host })
    | [(.there node off, _)] =>
      match ask s1 (engAuth x) ag.uid ag.pcid node off .capRead with
      | (s2, none) => .wait s2
      | (s2, some (.fault k d m)) => engFault x va (.fault s2 (ansFault k d m accEngine va.toNat))
      | (s2, some (.data d t)) => .ok s2 (barrier s2 ag.pcid { bits := BitVec.ofNat 128 (leNat d), tag := t })
      | (s2, some _) => .ok s2 capNull
    | _ => .ok s1 capNull

/-- Whether a granule at this place may hold a tagged scratchpad capability that a copy brings (R176). -/
def gangPlace (s : State) (gang : Nat) (p : Tgt) : Bool :=
  match p with
  | .here q _ => match (resolve s.ram q).sp with
    | .pad w => (match gangBy s gang with | some x => x.wgs | none => []).contains w
    | _ => false
  | .there _ _ => false

/-- A whole granule written through x with the tag that R176 leaves it; it passes the load barrier while an epoch runs (R194). -/
def engPutCap (s : State) (ag : Agt) (x : Cap) (p : Tgt) (span : BitVec 3) (v : Cap) : Got Unit :=
  let w := epochBar s ag.pcid (if cSP v && !gangPlace s ag.gang p then { v with tag := false } else v)
  match p with
  | .here q _ =>
    let s1 := putMem s ag.uid q span (leBytes 16 w.bits.toNat)
    .ok (if w.tag then putTagEv s1 ag.uid q (q.sp != .host) else s1) ()
  | .there node off => match ask s (engAuth x) ag.uid ag.pcid node off (.capWrite w) with
    | (s1, none) => .wait s1
    | (s1, some (.fault k d m)) => .fault s1 (ansFault k d m accEngine (2 ^ 56 + node * 2 ^ 47 + off))
    | (s1, some _) => .ok s1 ()

/-- Places ready to be written: held lines and remote homes are waited for. -/
def engReady (s : State) (ag : Agt) (host : Bool) (x : Cap) (need : List Nat) (va : Int) (n : Nat) : Got (List (Tgt × Nat)) :=
  (engPlaces s ag host x need va n accWrite).bind fun s1 l =>
    (engFault x va (piecesCheck s1 (engAuth x) ag accEngine .write l)).bind fun s2 _ => .ok s2 l

/-- Bytes written by an engine through x at places made ready. -/
def engPut (s : State) (ag : Agt) (x : Cap) (span : BitVec 3) (l : List (Tgt × Nat)) (b : List Byte) : Got Unit :=
  piecesPut s (engAuth x) ag span accEngine l b

/-- One read-modify-write by an engine of a unit of 2, 4 or 8 bytes. -/
def engRmw (s : State) (ag : Agt) (host : Bool) (x : Cap) (va : Int) (n : Nat) (k : ApKind) (f : Nat → Nat) : Got Unit :=
  (engPlaces s ag host x [pLOAD, pSTORE, pATOMIC, pCOPY] va n accAtomic).bind fun s1 l =>
    match l with
    | [(.there node off, _)] =>
      match ask s1 (engAuth x) ag.uid ag.pcid node off k with
      | (s2, none) => .wait s2
      | (s2, some (.fault c d m)) => engFault x va (.fault s2 (ansFault c d m accEngine va.toNat))
      | (s2, some _) => .ok s2 ()
    | _ => (piecesRead s1 (engAuth x) ag accEngine l).bind fun s2 b =>
        (piecesCheck s2 (engAuth x) ag accEngine .atomic l).bind fun s3 _ => engPut s3 ag x 0 l (leBytes n (f (leNat b)))

/-- One floating-point or integer element of an engine's reduction, n bytes wide (R260, R340). -/
def engCombine (op : AtomOp) (t : Ty) (n old v : Nat) : Nat :=
  if n = 2 then (match t with | .f16 => atomF fmt16 op old v | _ => atomF fmtB16 op old v) else atomNew op t old v

/-- Adds landed bytes to a barrier object as one count, once its line is free (R242, R279, R342). -/
def engCount (s : State) (by_ die : Nat) (l : Loc) (n : Nat) : Got Unit :=
  match blocked s by_ true (linesOf s.ram l 16) with
  | some s1 => .wait s1
  | none => .ok (if n = 0 then s else barIssue s by_ die l (.count n)) ()

/-- The bytes of the next single-copy atomic unit of n bytes at an address, i of them done (R216, R341): the whole where it is one aligned
element of at most 16 bytes, else up to the next multiple of 4. -/
def unit216 (a : Int) (n i : Nat) : Nat :=
  if i = 0 && n ≤ 16 && a % n = 0 then n else min (n - i) (4 - ((a + i) % 4).toNat)

/-- The swizzle of R311 for a span code, and its span in bytes. -/
def spanOf (c : BitVec 3) : Nat := 16 * 2 ^ c.toNat
def swz (x : Nat) (c : BitVec 3) : Nat := x ^^^ (x / spanOf c % (spanOf c / 16) * 16)

/-- The failing condition of R304 with the lowest number, at a scalar instruction's issue. -/
def partialAt (g : Grp) (x : Split) : Option Nat :=
  if g.g.splits.length != 1 then some 1
  else if x.act != allLanes then some 2
  else if g.g.compact.isSome || (g.g.splits.any fun y => match y.st with | .partner _ => true | _ => false) then some 3
  else none

end Sys2Proof.Machine
end

