-- ==== Sys2Proof/Machine/Trans.lean ====
section
/-! DEFINITION. The transcendental lane instructions (R155): special cases, and a fixed result that the manual leaves
open within its bound. `Config` supplies the candidate; it stands when it lies within the bound of the exact value,
which is enclosed by fixed-point arithmetic to 2^-100, and otherwise the correctly rounded value stands (log 13). -/

namespace Sys2Proof.Machine

/-- Fixed point: 160 fraction bits. -/
def fxP : Nat := 160
def fxOne : Int := 2 ^ fxP
/-- ln 2 with 160 fraction bits and π with 320. -/
def fxLn2 : Int := 0xb17217f7d1cf79abc9e3b39803f2f6af40f34326
def fxPi : Int := 0x3243f6a8885a308d313198a2e03707344a4093822299f31d0082efa98ec4e6c89452821e638d01377

def fxMul (a b : Int) : Int := a * b / fxOne

/-- Σ x^k / k! from term k, with n terms left. -/
def fxExpGo (x : Int) (k : Nat) (term acc : Int) : Nat → Int
  | 0 => acc
  | n + 1 => let t := fxMul term x / (k : Int); fxExpGo x (k + 1) t (acc + t) n

/-- e^x for 0 ≤ x < 1. -/
def fxExp (x : Int) : Int := fxExpGo x 1 fxOne fxOne 40

/-- Σ ± x^(k+2j) / (k+2j)! from term k, with n terms left: the tails of sine and cosine. -/
def fxTrigGo (x2 : Int) (k : Nat) (term acc : Int) : Nat → Int
  | 0 => acc
  | n + 1 =>
    let t := -(fxMul term x2) / (((k + 1) * (k + 2) : Nat) : Int)
    fxTrigGo x2 (k + 2) t (acc + t) n

def fxSin (x : Int) : Int := fxTrigGo (fxMul x x) 1 x x 30
def fxCos (x : Int) : Int := fxTrigGo (fxMul x x) 0 fxOne fxOne 30

/-- 2 × artanh z as a sum, with n terms left. -/
def fxAtanhGo (z2 : Int) (k : Nat) (p acc : Int) : Nat → Int
  | 0 => acc
  | n + 1 => fxAtanhGo z2 (k + 2) (fxMul p z2) (acc + 2 * p / (k : Int)) n

/-- ln m for 1 ≤ m < 2. -/
def fxLn (m : Int) : Int :=
  let z := (m - fxOne) * fxOne / (m + fxOne)
  fxAtanhGo (fxMul z z) 1 z 0 60

/-- m × 2^e with a sign as fixed point with p fraction bits, truncated towards −∞. -/
def fxOf (p : Nat) (neg : Bool) (m : Nat) (e : Int) : Int :=
  let s := e + p
  let x : Int := if s ≥ 0 then (m * 2 ^ s.toNat : Nat) else (m / 2 ^ (-s).toNat : Nat)
  if neg then -x else x

/-- A fixed-point number as an exact value. -/
def fxV (x : Int) : FV := .fin (x < 0) x.natAbs (-(fxP : Int)) false

/-- 2^x. -/
def exactExp2 (neg : Bool) (m : Nat) (e : Int) : FV :=
  let x := fxOf fxP neg m e
  let n := x / fxOne
  let f := x - n * fxOne
  .fin false (fxExp (fxMul f fxLn2)).natAbs (n - fxP) false

/-- log2 of m × 2^e. -/
def exactLog2 (m : Nat) (e : Int) : FV :=
  let l := Nat.log2 m
  let y := fxLn (fxOf fxP false m (-(l : Int)))
  fxV (((l : Int) + e) * fxOne + y * fxOne / fxLn2)

/-- x mod π/2 and the quadrant, reduced with 320 fraction bits. -/
def trigReduce (neg : Bool) (m : Nat) (e : Int) : Nat × Int :=
  let x := fxOf 320 neg m e
  let half := fxPi / 2
  let k := x / half
  ((k % 4).toNat, (x - k * half) / 2 ^ 160)

def exactSin (neg : Bool) (m : Nat) (e : Int) : FV :=
  match trigReduce neg m e with
  | (0, r) => fxV (fxSin r) | (1, r) => fxV (fxCos r) | (2, r) => fxV (-(fxSin r)) | (_, r) => fxV (-(fxCos r))

def exactCos (neg : Bool) (m : Nat) (e : Int) : FV :=
  match trigReduce neg m e with
  | (0, r) => fxV (fxCos r) | (1, r) => fxV (-(fxSin r)) | (2, r) => fxV (-(fxCos r)) | (_, r) => fxV (fxSin r)

/-- tanh x: x itself below 2^-40 (its relative difference is below 2^-80), ±1 from 64 on. -/
def exactTanh (neg : Bool) (m : Nat) (e : Int) : FV :=
  let lead : Int := (Nat.log2 m : Int) + e
  if lead < -40 then .fin neg m e false
  else if lead ≥ 6 then .fin neg 1 0 false
  else
    -- tanh |x| = (1 − t) / (1 + t) with t = 2^(−2 |x| / ln 2)
    let x := fxOf fxP false m (e + 1)
    let y := -(x * fxOne / fxLn2)
    let n := y / fxOne
    let t := fxExp (fxMul (y - n * fxOne) fxLn2) / 2 ^ (-n).toNat
    let r := (fxOne - t) * fxOne / (fxOne + t)
    fxV (if neg then -r else r)

/-- |a − b| ≤ m × 2^e, for finite values. -/
def within (a b : FV) (m : Nat) (e : Int) : Bool :=
  match addV .rne a (negV b) with
  | .fin _ d f _ => !gtMag d f m e
  | _ => false

/-- The exponent of a unit in the last place of an exact value rounded to .f32 (R155). -/
def ulpExp (v : FV) : Int :=
  match v with
  | .fin _ m e s =>
    let r := (roundFin fmt32 .rne false m e s)
    if m = 0 then -149 else if r.pat < 2 ^ 23 then -149 else (fExp fmt32 r.pat : Int) - 150
  | _ => -149

/-- The candidate when it lies within the bound of the exact value, else the rounded value. -/
def pickWithin (exact : FV) (cand : Nat) (bm : Nat) (be : Int) : Nat :=
  let c := fVal fmt32 cand
  if (match c with | .fin _ _ _ _ => true | _ => false) && within c exact bm be then cand
  else (roundF fmt32 .rne exact).1

/-- The flags of a transcendental result (R142, R155): OVERFLOW, or UNDERFLOW for a tiny result that differs. -/
def transFlags (exact : FV) (isExact : Bool) (res : Nat) : Flags :=
  match exact with
  | .fin neg m e s =>
    if m = 0 then 0
    else
      let r := roundFin fmt32 .rne neg m e s
      if r.ovf then flOverflow
      else if (r.flags &&& flUnderflow != 0 || res % 2 ^ 31 < 2 ^ 23) && !isExact then flUnderflow else 0
  | _ => 0

/-- A result under `.ftz`: a flush sets UNDERFLOW alone (R155). -/
def transOut (ftz : Bool) (res : Nat) (fl : Flags) : Nat × Flags :=
  if ftz && isSub fmt32 res then ((res / 2 ^ 31) * 2 ^ 31, flUnderflow) else (res, fl)

/-- The transcendental instructions. -/
inductive Trans where
  | rcp | rsq | exp2 | log2 | sin | cos | tanh
  deriving DecidableEq, Repr

/-- One transcendental of a finite non-special value: the exact value, the bound m × 2^e, and the candidate. -/
def transOf (t : Trans) (x : Word) (neg : Bool) (m : Nat) (e : Int) : FV × (Nat × Int) × Nat :=
  match t with
  | .rcp => let v := divV 150 (.fin false 1 0 false) (.fin neg m e false); (v, (1, ulpExp v), (Config.frcp x).toNat)
  | .rsq => let v := sqrtV 150 (divV 300 (.fin false 1 0 false) (.fin false m e false))
            (v, (2, ulpExp v), (Config.frsq x).toNat)
  | .exp2 => let v := exactExp2 neg m e; (v, (2, ulpExp v), (Config.fexp2 x).toNat)
  | .log2 => let v := exactLog2 m e
             let inside : Bool := (Nat.log2 m : Int) + e = 0 || (Nat.log2 m : Int) + e = -1
             (v, if inside then (1, -22) else (2, ulpExp v), (Config.flog2 x).toNat)
  | .sin => (exactSin neg m e, (1, -22), (Config.fsin x).toNat)
  | .cos => (exactCos neg m e, (1, -22), (Config.fcos x).toNat)
  | .tanh => let v := exactTanh neg m e; (v, (2, ulpExp v), (Config.ftanh x).toNat)

/-- A finite value as an integer, if it is one. -/
def asInt (neg : Bool) (m : Nat) (e : Int) : Option Int :=
  let v : Int := if neg then -1 else 1
  if m = 0 then some 0
  else if e ≥ 0 then (if e > 40 then none else some (v * (m * 2 ^ e.toNat : Nat)))
  else if (-e).toNat > 200 then none
  else if m % 2 ^ (-e).toNat = 0 then some (v * (m / 2 ^ (-e).toNat : Nat)) else none

/-- A transcendental instruction on one lane (R141, R143, R155). -/
def trans (t : Trans) (ftz nanp : Bool) (x : Word) : Nat × Flags :=
  let b := x.toNat
  if isNan fmt32 b then (nanResult fmt32 nanp [b], if isSnan fmt32 b then flInvalid else 0)
  else
    let invalid := (canonNan fmt32, flInvalid)
    let sgnZero (neg : Bool) : Nat := if neg then 0x80000000 else 0
    match fIn fmt32 ftz b with
    | .nan => invalid
    | .inf neg => match t with
      | .rcp => (sgnZero neg, 0)
      | .rsq => if neg then invalid else (0, 0)
      | .exp2 => if neg then (0, 0) else (0x7F800000, 0)
      | .log2 => if neg then invalid else (0x7F800000, 0)
      | .sin | .cos => invalid
      | .tanh => (if neg then 0xBF800000 else 0x3F800000, 0)
    | .fin neg m e _ =>
      if m = 0 then match t with
        | .rcp | .rsq => (infPat fmt32 neg, flDivZero)
        | .exp2 | .cos => (0x3F800000, 0)
        | .log2 => (0xFF800000, flDivZero)
        | .sin | .tanh => (sgnZero neg, 0)
      else match t with
        | .rsq | .log2 => if neg then invalid
            else if t = .log2 && asInt neg m e = some 1 then (0, 0) else go m e neg b
        | .exp2 =>
          match asInt neg m e with
          | some k =>
            if k ≥ 128 then (0x7F800000, flOverflow)
            else if k ≤ -150 then (0, flUnderflow)
            else transOut ftz (roundF fmt32 .rne (.fin false 1 k false)).1 0
          | none => if !neg && (Nat.log2 m : Int) + e ≥ 7 then (0x7F800000, flOverflow)
                    else if neg && (Nat.log2 m : Int) + e ≥ 9 then (0, flUnderflow) else go m e neg b
        | _ => go m e neg b
where
  /-- The general case. -/
  go (m : Nat) (e : Int) (neg : Bool) (_b : Nat) : Nat × Flags :=
    let (v, (bm, be), cand) := transOf t x neg m e
    let res := pickWithin v cand bm be
    let isExact : Bool := t = .rcp && mulV (fVal fmt32 res) (.fin neg m e false) = .fin false 1 0 false
    let prodOne : Bool := t = .rcp && (match mulV (fVal fmt32 res) (.fin neg m e false) with
      | .fin false k f _ => k = 2 ^ (-f).toNat && f ≤ 0 | _ => false)
    transOut ftz res (transFlags v (isExact || prodOne) res)

end Sys2Proof.Machine
end

