-- ==== Sys2Proof/Machine/LaneFloat.lean ====
section
/-! DEFINITION. Lane floating-point instructions, conversions and block quantisation (spec/05_lane_float.md R140 to R164). -/

namespace Sys2Proof.Machine

/-! Sources and results. -/

/-- The slot width of a type and the bits of a slot that carry the value (R137). -/
def tyWidth (t : Ty) : Nat :=
  match t with
  | .s8 | .z8 | .e4m3 | .e5m2 | .e3m2 | .e2m3 => 8
  | .s16 | .z16 | .f16 | .bf16 => 16
  | .e2m1 => 4
  | .s64 | .z64 | .b64 | .f64 => 64
  | .b128 => 128
  | _ => 32
def tyBits (t : Ty) : Nat := match t with | .e3m2 | .e2m3 => 6 | _ => tyWidth t

/-- Slot j of a word under a type. -/
def slotGet (t : Ty) (w : Word) (j : Nat) : Nat := nbits w.toNat (tyWidth t * j) (tyBits t)

/-- A word with slot j replaced. -/
def slotSet (t : Ty) (w : Word) (j v : Nat) : Word :=
  let k := tyWidth t
  let mask : Word := BitVec.ofNat 32 ((2 ^ k - 1) * 2 ^ (k * j))
  (w &&& ~~~mask) ||| (BitVec.ofNat 32 (v % 2 ^ k * 2 ^ (k * j)) &&& mask)

/-- A 64-bit source in every lane (R146). The special operands have the same 64-bit forms for .s64 and .z64 as for .f64: DESIGN CHOICE
(log 76). -/
def LX.src64 (x : LX) (c : Src) : List Nat × Bool :=
  match c with
  | .special n =>
    if 64 ≤ n.toNat && n.toNat < 128 then (List.replicate 96 (modPow ((n.toNat : Int) - 96) 64), false)
    else if 128 ≤ n.toNat && n.toNat < 192 then (List.replicate 96 (const64 n.toNat), false)
    else let a := x.srcK c 0; let b := x.srcK c 1; ((below 96).map fun l => pair64 (rl a.1 l) (rl b.1 l), false)
  | _ => let a := x.srcK c 0; let b := x.srcK c 1; ((below 96).map fun l => pair64 (rl a.1 l) (rl b.1 l), a.2 || b.2)

/-- A packed source: a constant is rounded to the format and placed in both slots (R146). -/
def LX.srcPk (x : LX) (F : Fmt) (pos : Nat) (c : Src) : Row × Bool :=
  match c with
  | .special n => if isConst c then (rowOf (constPk F n.toNat), false) else x.src pos c
  | _ => x.src pos c

/-- The results of the lanes of ACTIVE with the OR of their flags (R142). -/
def LX.lanesF (x : LX) (f : Nat → Nat × Flags) : List Nat × Flags :=
  let rs := (below 96).map fun l => if lane x.act l then f l else (0, 0)
  (rs.map (·.1), rs.foldl (fun a r => a ||| r.2) 0)

/-- One 32-bit result per lane with its flags. -/
def LX.outF (x : LX) (h : LaneHdr) (dead : List Bool) (f : Nat → Nat × Flags) : LFin :=
  let r := x.lanesF f
  x.out h (r.1.map (BitVec.ofNat 32)) (poisonBits dead ||| fpStatus r.2)

/-- One 64-bit result per lane with its flags. -/
def LX.outF64 (x : LX) (h : LaneHdr) (dead : List Bool) (f : Nat → Nat × Flags) : LFin :=
  let r := x.lanesF f
  x.outPair h (r.1.map lo32) (r.1.map hi32) (poisonBits dead ||| fpStatus r.2)

/-- `.nanp` (R148): bit 5 of the extra modifiers. -/
def nanpOf (m : AMods) : Bool := m.x.getLsbD 5

/-- .f32 operations of one, two and three sources. -/
def LX.f1 (x : LX) (h : LaneHdr) (f : Nat → Nat × Flags) : LFin :=
  let a := x.src 0 h.a
  x.outF h [a.2] fun l => f (rl a.1 l).toNat
def LX.f2 (x : LX) (h : LaneHdr) (f : Nat → Nat → Nat × Flags) : LFin :=
  let a := x.src 0 h.a
  let b := x.src 1 h.b
  x.outF h [a.2, b.2] fun l => f (rl a.1 l).toNat (rl b.1 l).toNat
def LX.f3 (x : LX) (h : LaneHdr) (f : Nat → Nat → Nat → Nat × Flags) : LFin :=
  let a := x.src 0 h.a
  let b := x.src 1 h.b
  let c := x.src 2 h.c
  x.outF h [a.2, b.2, c.2] fun l => f (rl a.1 l).toNat (rl b.1 l).toNat (rl c.1 l).toNat

/-- Arithmetic of a format under an instruction's modifiers. -/
def arithM (F : Fmt) (m : AMods) (srcs : List Nat) (op : List FV → FV × Flags) : Nat × Flags :=
  arith F m.rnd m.ftz m.sat (nanpOf m) srcs op

/-! Arithmetic (R149 to R156). -/

/-- FADD, FSUB, FMUL, FFMA. -/
def execFadd (h : LaneHdr) (m : AMods) (s : State) : Host.Outcome State Fault Refusal :=
  laneStep s fun x => x.f2 h fun a b => arithM fmt32 m [a, b] (opAdd m.rnd)
def execFsub (h : LaneHdr) (m : AMods) (s : State) : Host.Outcome State Fault Refusal :=
  laneStep s fun x => x.f2 h fun a b => arithM fmt32 m [a, b] (opSub m.rnd)
def execFmul (h : LaneHdr) (m : AMods) (s : State) : Host.Outcome State Fault Refusal :=
  laneStep s fun x => x.f2 h fun a b => arithM fmt32 m [a, b] opMul
def execFfma (h : LaneHdr) (m : AMods) (s : State) : Host.Outcome State Fault Refusal :=
  laneStep s fun x => x.f3 h fun a b c => arithM fmt32 m [a, b, c] (opFma m.rnd)

/-- FMIN, FMAX: bit 0 of the extra modifiers is `.nan`. -/
def execFmin (h : LaneHdr) (m : AMods) (s : State) : Host.Outcome State Fault Refusal :=
  laneStep s fun x => x.f2 h (fMinMax fmt32 false (m.x.getLsbD 0) m.ftz (nanpOf m))
def execFmax (h : LaneHdr) (m : AMods) (s : State) : Host.Outcome State Fault Refusal :=
  laneStep s fun x => x.f2 h (fMinMax fmt32 true (m.x.getLsbD 0) m.ftz (nanpOf m))

/-- FCMP (R152). -/
def execFcmp (h : LaneHdr) (m : AMods) (s : State) : Host.Outcome State Fault Refusal :=
  laneStep s fun x =>
    let cond := mfld m.x.toNat 0 3
    let fin (dead : List Bool) (f : Nat → Bool × Flags) : LFin :=
      let r := x.lanesF fun l => ((f l).1.toNat, (f l).2)
      x.outBool h (fun l => r.1.getD l 0 = 1) (poisonBits dead ||| fpStatus r.2)
    if m.ty = .f64 then
      let a := x.src64 h.a
      let b := x.src64 h.b
      fin [a.2, b.2] fun l => fCmp fmt64 m.ftz cond (a.1.getD l 0) (b.1.getD l 0)
    else
      let a := x.src 0 h.a
      let b := x.src 1 h.b
      fin [a.2, b.2] fun l => fCmp fmt32 m.ftz cond (rl a.1 l).toNat (rl b.1 l).toNat

/-- FCLASS (R153). -/
def execFclass (h : LaneHdr) (m : AMods) (s : State) : Host.Outcome State Fault Refusal :=
  laneStep s fun x =>
    if m.ty = .f64 then
      let a := x.src64 h.a
      x.outF h [a.2] fun l => (fClass fmt64 (a.1.getD l 0), 0)
    else x.f1 h fun a => (fClass fmt32 a, 0)

/-- FDIV, FSQRT (R154). -/
def execFdiv (h : LaneHdr) (m : AMods) (s : State) : Host.Outcome State Fault Refusal :=
  laneStep s fun x => x.f2 h fun a b => arithM fmt32 m [a, b] opDiv
def execFsqrt (h : LaneHdr) (m : AMods) (s : State) : Host.Outcome State Fault Refusal :=
  laneStep s fun x => x.f1 h fun a => arithM fmt32 m [a] opSqrt

/-- A transcendental instruction (R155). -/
def transLane (t : Trans) (h : LaneHdr) (m : AMods) (s : State) : Host.Outcome State Fault Refusal :=
  laneStep s fun x => x.f1 h fun a => trans t m.ftz (nanpOf m) (BitVec.ofNat 32 a)

/-- FRCP. -/
def execFrcp (h : LaneHdr) (m : AMods) (s : State) : Host.Outcome State Fault Refusal := transLane .rcp h m s
/-- FRSQ. -/
def execFrsq (h : LaneHdr) (m : AMods) (s : State) : Host.Outcome State Fault Refusal := transLane .rsq h m s
/-- FEXP2. -/
def execFexp2 (h : LaneHdr) (m : AMods) (s : State) : Host.Outcome State Fault Refusal := transLane .exp2 h m s
/-- FLOG2. -/
def execFlog2 (h : LaneHdr) (m : AMods) (s : State) : Host.Outcome State Fault Refusal := transLane .log2 h m s
/-- FSIN. -/
def execFsin (h : LaneHdr) (m : AMods) (s : State) : Host.Outcome State Fault Refusal := transLane .sin h m s
/-- FCOS. -/
def execFcos (h : LaneHdr) (m : AMods) (s : State) : Host.Outcome State Fault Refusal := transLane .cos h m s
/-- FTANH. -/
def execFtanh (h : LaneHdr) (m : AMods) (s : State) : Host.Outcome State Fault Refusal := transLane .tanh h m s

/-- FRND (R156). -/
def execFrnd (h : LaneHdr) (m : AMods) (s : State) : Host.Outcome State Fault Refusal :=
  laneStep s fun x => x.f1 h (fRnd fmt32 m.rnd m.ftz (nanpOf m))

/-- FSCALE (R156). -/
def execFscale (h : LaneHdr) (m : AMods) (s : State) : Host.Outcome State Fault Refusal :=
  laneStep s fun x => x.f2 h fun a b => fScale fmt32 m.rnd m.ftz (nanpOf m) a (sgn 32 b)

/-! Packed halves (R157) and pairs (R158). -/

/-- The format of a packed instruction: .f16 by default. -/
def pkFmt (m : AMods) : Fmt := if m.ty = .bf16 then fmtB16 else fmt16

/-- An operation applied to both slots of the sources. -/
def pkOp (m : AMods) (srcs : List Word) (op : List FV → FV × Flags) : Nat × Flags :=
  let one (j : Nat) : Nat × Flags := arithM (pkFmt m) m (srcs.map fun w => nbits w.toNat (16 * j) 16) op
  ((one 0).1 + (one 1).1 * 2 ^ 16, (one 0).2 ||| (one 1).2)

/-- A packed instruction of two sources. -/
def pk2 (h : LaneHdr) (m : AMods) (op : List FV → FV × Flags) (s : State) : Host.Outcome State Fault Refusal :=
  laneStep s fun x =>
    let a := x.srcPk (pkFmt m) 0 h.a
    let b := x.srcPk (pkFmt m) 1 h.b
    x.outF h [a.2, b.2] fun l => pkOp m [rl a.1 l, rl b.1 l] op

/-- PKADD, PKMUL, PKFMA. -/
def execPkadd (h : LaneHdr) (m : AMods) (s : State) : Host.Outcome State Fault Refusal := pk2 h m (opAdd m.rnd) s
def execPkmul (h : LaneHdr) (m : AMods) (s : State) : Host.Outcome State Fault Refusal := pk2 h m opMul s
def execPkfma (h : LaneHdr) (m : AMods) (s : State) : Host.Outcome State Fault Refusal :=
  laneStep s fun x =>
    let a := x.srcPk (pkFmt m) 0 h.a
    let b := x.srcPk (pkFmt m) 1 h.b
    let c := x.srcPk (pkFmt m) 2 h.c
    x.outF h [a.2, b.2, c.2] fun l => pkOp m [rl a.1 l, rl b.1 l, rl c.1 l] (opFma m.rnd)

/-- A .f64 instruction of two sources. -/
def d2 (h : LaneHdr) (m : AMods) (op : List FV → FV × Flags) (s : State) : Host.Outcome State Fault Refusal :=
  laneStep s fun x =>
    let a := x.src64 h.a
    let b := x.src64 h.b
    x.outF64 h [a.2, b.2] fun l => arithM fmt64 m [a.1.getD l 0, b.1.getD l 0] op

/-- DADD, DMUL, DFMA. -/
def execDadd (h : LaneHdr) (m : AMods) (s : State) : Host.Outcome State Fault Refusal := d2 h m (opAdd m.rnd) s
def execDmul (h : LaneHdr) (m : AMods) (s : State) : Host.Outcome State Fault Refusal := d2 h m opMul s
def execDfma (h : LaneHdr) (m : AMods) (s : State) : Host.Outcome State Fault Refusal :=
  laneStep s fun x =>
    let a := x.src64 h.a
    let b := x.src64 h.b
    let c := x.src64 h.c
    x.outF64 h [a.2, b.2, c.2] fun l => arithM fmt64 m [a.1.getD l 0, b.1.getD l 0, c.1.getD l 0] (opFma m.rnd)

/-! Conversions (R159 to R162). -/

/-- Whether an integer type is unsigned. -/
def tyUns (t : Ty) : Bool := match t with | .z8 | .z16 | .z32 | .z64 => true | _ => false

/-- The range of an integer type. -/
def tyLo (t : Ty) : Int := if tyUns t then 0 else -(2 ^ (tyWidth t - 1))
def tyHi (t : Ty) : Int := if tyUns t then 2 ^ tyWidth t - 1 else 2 ^ (tyWidth t - 1) - 1

/-- The value of an integer pattern. -/
def tyInt (t : Ty) (v : Nat) : Int := if tyUns t then (v : Int) else sgn (tyWidth t) v

/-- CVT of one pattern: the result pattern in the bits of its type, and flags (R159, R161). -/
def cvtV (src dst : Ty) (mode : Rnd) (ftz sat nanp : Bool) (v : Nat) : Nat × Flags :=
  match fmtOf src, fmtOf dst with
  | some S, some D => convFF S D mode ftz sat nanp v
  | some S, none => let r := convFI S (tyLo dst) (tyHi dst) mode ftz v; (modPow r.1 (tyWidth dst), r.2)
  | none, some D => convV D mode ftz sat (intV (tyInt src v))
  | none, none => (modPow (if sat then clampI (tyLo dst) (tyHi dst) (tyInt src v) else tyInt src v) (tyWidth dst), 0)

/-- A narrow result in slot 0 of a register: .s8 and .s16 are sign-extended (R159). -/
def placeNarrow (t : Ty) (v : Nat) : Nat := match t with | .s8 => (sext 8 v).toNat | .s16 => (sext 16 v).toNat | _ => v

/-- CVT: the source type is in bits 4..0 of the extra modifiers. -/
def execCvt (h : LaneHdr) (m : AMods) (s : State) : Host.Outcome State Fault Refusal :=
  laneStep s fun x =>
    let src := (Ty.ofCode (mfld m.x.toNat 0 5)).getD .f32
    let a : List Nat × Bool :=
      if tyWidth src = 64 then x.src64 h.a
      else let r := x.src 0 h.a; (r.1.map fun w => slotGet src w 0, r.2)
    let f (l : Nat) : Nat × Flags := cvtV src m.ty m.rnd m.ftz m.sat (nanpOf m) (a.1.getD l 0)
    if tyWidth m.ty = 64 then x.outF64 h [a.2] f
    else x.outF h [a.2] fun l => let r := f l; (placeNarrow m.ty r.1, r.2)

/-- PACK: the slot is in bits 3..0 of the extra modifiers (R162). -/
def execPack (h : LaneHdr) (m : AMods) (s : State) : Host.Outcome State Fault Refusal :=
  laneStep s fun x =>
    let j := mfld m.x.toNat 0 4
    x.f3 h fun a b c =>
      let p := cvtV .f32 m.ty m.rnd m.ftz m.sat (nanpOf m) a
      let q := cvtV .f32 m.ty m.rnd m.ftz m.sat (nanpOf m) b
      ((slotSet m.ty (slotSet m.ty (BitVec.ofNat 32 c) j p.1) (j + 1) q.1).toNat, p.2 ||| q.2)

/-- UNPACK (R162). -/
def execUnpack (h : LaneHdr) (m : AMods) (s : State) : Host.Outcome State Fault Refusal :=
  laneStep s fun x =>
    x.f1 h fun a => cvtV m.ty .f32 .rne m.ftz false (nanpOf m) (slotGet m.ty (BitVec.ofNat 32 a) (mfld m.x.toNat 0 4))

/-! Block quantisation (R163, R164). -/

/-- EMAX of an element type as m × 2^e (R163). -/
def emaxOf (t : Ty) : Nat × Int := match fmtOf t with | some F => maxMag F | none => (127, 0)

/-- The NaN scale code. -/
def nanScale (ws : Bool) : Nat := if ws then 0x3FC else 0xFF

/-- The scale code of a block of values. -/
def blockScale (ws : Bool) (t : Ty) (vs : List FV) : Nat :=
  if vs.any fun v => match v with | .fin _ _ _ _ => false | _ => true then nanScale ws
  else
    let top := vs.foldl (fun (a : Nat × Int) v => match v with | .fin _ m e _ => if gtMag m e a.1 a.2 then (m, e) else a | _ => a) (0, 0)
    scaleCode ws (emaxOf t).1 (emaxOf t).2 top.1 top.2

/-- One element of QBLK: the code of round(a / s), with its flags. -/
def quantElem (t : Ty) (mode : Rnd) (ftz ws : Bool) (sc : Nat) (v : FV) : Nat × Flags :=
  match scaleOf ws sc with
  | none => (0, flInvalid)
  | some (q, e) =>
    let r := match v with | .fin n m k _ => if m = 0 then v else divV 150 (.fin n m k false) (.fin false q e false) | _ => v
    match fmtOf t with
    | some F => convV F mode ftz false r
    | none => let i := toIntV mode r; (modPow i.1 8, if i.2 then flInexact else 0)

/-- QBLK: bit 4 of the extra modifiers is `.ws`. -/
def execQblk (h : LaneHdr) (m : AMods) (s : State) : Host.Outcome State Fault Refusal :=
  laneStep s fun x => x.groupWide <|
    let ws := m.x.getLsbD 4
    let a := x.src 0 h.a
    let v (l : Nat) : FV := fIn fmt32 m.ftz (rl a.1 l).toNat
    let scs := (below 3).map fun b => blockScale ws m.ty ((upto (32 * b) 32).map v)
    x.outF h [a.2] fun l =>
      let sc := scs.getD (l / 32) 0
      let q := quantElem m.ty m.rnd m.ftz ws sc (v l)
      (sc * 2 ^ 16 + q.1, q.2)

/-- One element of DQBLK. -/
def dequantElem (t : Ty) (mode : Rnd) (ftz ws : Bool) (e sc : Nat) : Nat × Flags :=
  let sn : Flags := match fmtOf t with | some F => if isSnan F e then flInvalid else 0 | none => 0
  let el : FV := match fmtOf t with | some F => fIn F ftz e | none => intV (tyInt t e)
  match el, scaleV ws sc with
  | .nan, _ => (canonNan fmt32, sn)
  | _, .nan => (canonNan fmt32, sn)
  | v, k => ftzOut fmt32 ftz (roundF fmt32 mode (mulV v k))

/-- DQBLK. -/
def execDqblk (h : LaneHdr) (m : AMods) (s : State) : Host.Outcome State Fault Refusal :=
  laneStep s fun x =>
    let ws := m.x.getLsbD 4
    x.f2 h fun a b =>
      dequantElem m.ty m.rnd m.ftz ws (slotGet m.ty (BitVec.ofNat 32 a) (mfld m.x.toNat 0 4)) (nbits b 16 (if ws then 10 else 8))

end Sys2Proof.Machine
end

