-- ==== Sys2Proof/Machine/LaneCap.lean ====
section
/-! DEFINITION. Lane capability instructions (spec/06_capabilities.md R186, R187). -/

namespace Sys2Proof.Machine

/-- The v register that a source or a destination quad starts at. -/
def srcV : Src → Nat
  | .vreg n _ _ => n.toNat
  | _ => 0
def dstV : Dst → Nat
  | .vreg n => n.toNat
  | _ => 0

/-- A quad source: its capability in each lane, and whether a register of it is dead. -/
def LX.quad (x : LX) (c : Src) : (Nat → Cap) × Bool :=
  (fun l => quadCap x.g.g (srcV c) l, (below 4).any fun k => vDead x.g.g (srcV c + k))

/-- Quads derived lane by lane: lanes whose checks fail write nothing, and give one CAPFAULT (R178, R187). -/
def LX.outQuad (x : LX) (h : LaneHdr) (dead : List Bool) (src : Nat → Cap) (f : Nat → Except Nat Cap) : LFin :=
  let rs := (below 96).map f
  let get (l : Nat) : Cap := match rs.getD l (.error 0) with | .ok c => c | .error _ => capNull
  let bad := (lanesOf x.act).filter fun l => match rs.getD l (.error 0) with | .ok _ => false | .error _ => true
  let fail := maskOf bad.contains
  let o : LOut := { m := x.act &&& ~~~fail, cap := some (dstV h.dst, get), stick := poisonBits dead }
  match bad with
  | [] => .ret x.s o
  | l :: _ =>
    let d := match rs.getD l (.error 0) with | .error d => d | .ok _ => 0
    .trap x.s o { capFault (src l) d with mask := fail, undone := fail }

/-- VCGET (R181). -/
def execVcget (h : LaneHdr) (m : BitVec 16) (s : State) : Host.Outcome State Fault Refusal :=
  laneStep s fun x =>
    let a := x.quad h.a
    x.out h (rowFn fun l => capField (a.1 l) (mfld m.toNat 0 5)) (poisonBits [a.2])

/-- VCSETA (R180). -/
def execVcseta (h : LaneHdr) (m : BitVec 16) (s : State) : Host.Outcome State Fault Refusal :=
  laneStep s fun x =>
    let a := x.quad h.a
    let b := x.src64 h.b
    x.outQuad h [a.2, b.2] a.1 fun l => addrForm (a.1 l) (b.1.getD l 0) (m.getLsbD 0)

/-- VCINC. -/
def execVcinc (h : LaneHdr) (m : BitVec 16) (s : State) : Host.Outcome State Fault Refusal :=
  laneStep s fun x =>
    let a := x.quad h.a
    let b := x.src 1 h.b
    x.outQuad h [a.2, b.2] a.1 fun l => addrForm (a.1 l) (cAddr (a.1 l) + sI (rl b.1 l)) (m.getLsbD 0)

/-- VCSETB. -/
def execVcsetb (h : LaneHdr) (m : BitVec 16) (s : State) : Host.Outcome State Fault Refusal :=
  laneStep s fun x =>
    let a := x.quad h.a
    let b := x.src 1 h.b
    x.outQuad h [a.2, b.2] a.1 fun l => boundsForm (a.1 l) (cAddr (a.1 l)) (uI (rl b.1 l)) (m.getLsbD 0)

/-- VCANDP (R182). -/
def execVcandp (h : LaneHdr) (_m : BitVec 16) (s : State) : Host.Outcome State Fault Refusal :=
  laneStep s fun x =>
    let a := x.quad h.a
    let b := x.src 1 h.b
    x.outQuad h [a.2, b.2] a.1 fun l => capAndp (a.1 l) (rl b.1 l)

/-- VCTEST (R184). -/
def execVctest (h : LaneHdr) (m : BitVec 16) (s : State) : Host.Outcome State Fault Refusal :=
  laneStep s fun x =>
    let f := mfld m.toNat 0 3
    let a := x.quad h.a
    let b := if f = 3 then x.quad h.b else (fun _ => capNull, false)
    x.outBool h (fun l => capTest (a.1 l) (b.1 l) f) (poisonBits [a.2, b.2])

/-- VCMOV. -/
def execVcmov (h : LaneHdr) (_m : BitVec 16) (s : State) : Host.Outcome State Fault Refusal :=
  laneStep s fun x =>
    let a := x.quad h.a
    x.outQuad h [a.2] a.1 fun l => .ok (a.1 l)

/-- VCCLR, and VCCLR.tag, which keeps the lane's bits: a dead register reads as poison here without a status bit. -/
def execVcclr (h : LaneHdr) (m : BitVec 16) (s : State) : Host.Outcome State Fault Refusal :=
  laneStep s fun x =>
    let old (l : Nat) : Cap := quadCap x.g.g (dstV h.dst) l
    x.outQuad h [] old fun l => .ok (if m.getLsbD 0 then { old l with tag := false } else capNull)

/-- VCDERIVE: the c register as it stands at the block's EXEC (R187). -/
def execVcderive (h : LaneHdr) (m : BitVec 16) (s : State) : Host.Outcome State Fault Refusal :=
  laneStep s fun x =>
    let c := aget capNull x.b.c (mfld m.toNat 11 5)
    let exact := m.getLsbD 0
    let a := x.src 0 h.a
    let b := if m.getLsbD 1 then (zeroRow, false) else x.src 1 h.b
    x.outQuad h [a.2, b.2] (fun _ => c) fun l =>
      let p : Int := cAddr c + sI (rl a.1 l)
      if m.getLsbD 1 then addrForm c p exact else boundsForm c p (uI (rl b.1 l)) exact

end Sys2Proof.Machine
end

