-- ==== Sys2Proof/Machine/LaneMem.lean ====
section
/-! DEFINITION. Lane loads and stores (spec/07_memory_access.md R205, R209, R212 to R217). -/

namespace Sys2Proof.Machine

/-- The scope field as a number (R46). -/
def scopeNum : Scope → Nat
  | .dflt => 0 | .core => 1 | .die => 2 | .chip => 3 | .pod => 4 | .sys => 5

/-- The bytes of a memory type; .b32 by default (R214). -/
def memSize (t : Ty) : Nat := match t with | .dflt => 4 | _ => tyWidth t / 8

/-- The b register that bits 9..7 name. -/
def bOf (m : MMods) : Nat := mfld m.x.toNat 0 3

/-- An instruction with its b register translated again where it is stale (R207). -/
def LX.fresh (x : LX) (n : Nat) : LX := let r := freshB x.s x.g n; { x with s := r.1, g := r.2 }

/-- The accesses of the lanes of ACTIVE through a b register at offsets (R209). -/
def LX.accsB (x : LX) (n : Nat) (off : Row) (size : Nat) : List Acc :=
  let b := bGet x.g.g n
  (lanesOf x.act).map fun l =>
    { l := l, x := b.cap, va := cAddr b.cap + uI (rl off l), n := size, b := if cSP b.cap then none else some (b, (rl off l).toNat) }

/-- The accesses through per-lane capabilities at signed offsets (R215). -/
def LX.accsX (x : LX) (quad : Nat → Cap) (off : Row) (size : Nat) : List Acc :=
  (lanesOf x.act).map fun l => { l := l, x := quad l, va := cAddr (quad l) + sI (rl off l), n := size, b := none }

/-- A scope field other than 0 on a scratchpad access through a lane's capability (R205). -/
def scopeOnPad (m : MMods) (accs : List Acc) : Bool := m.scope != .dflt && accs.any fun a => cSP a.x

/-- The value that a load of a type writes: its words, low first (R214). -/
def loadWords (t : Ty) (v : Nat) : List Word :=
  match t with
  | .s8 => [sext 8 v] | .s16 => [sext 16 v]
  | .b64 => [lo32 v, hi32 v]
  | .b128 => (below 4).map fun k => BitVec.ofNat 32 (v / 2 ^ (32 * k))
  | _ => [BitVec.ofNat 32 v]

/-- The rows of a load from the passing lanes. -/
def loadRows (t : Ty) (vals : List (Nat × Nat)) : List Row :=
  let words := (below 96).map fun l => match vals.find? fun p => p.1 = l with | some p => loadWords t p.2 | none => []
  (below (loadWords t 0).length).map fun k => words.map fun w => w.getD k 0

/-- The atomicity of a memory instruction in bytes (R216). -/
def atomUnit (m : MMods) : Nat := match m.atom with | .a8 => 8 | .a16 => 16 | .none => 4

/-- The mask of the passing lanes. -/
def okMask (ok : List (Acc × List Piece)) : LaneMask := maskOf ((ok.map (·.1.l)).contains ·)

/-- A load into registers. -/
def LX.load (x : LX) (h : LaneHdr) (m : MMods) (sp : Option Bool) (accs : List Acc) (dead : List Bool) : LFin :=
  laneMem x { need := [pLOAD], access := accRead, sp := sp, stated := scopeNum m.scope, atom := atomUnit m } accs noCheck fun s g md p ok =>
    let v := viewOf s g md p.got
    (s, outRows h.dst none false (okMask ok) (loadRows m.ty (ok.map fun p => (p.1.l, v.nat p.2))) (poisonBits dead))

/-- The data of a store in every lane, as bytes (R214). -/
def LX.storeData (x : LX) (pos : Nat) (c : Src) (t : Ty) : (Nat → List Byte) × Bool :=
  match t with
  | .b64 => let a := x.srcK c 0; let b := x.srcK c 1; (fun l => wordsBytes [rl a.1 l, rl b.1 l], a.2 || b.2)
  | .b128 =>
    let rs := (below 4).map (x.srcK c)
    (fun l => wordsBytes (rs.map fun r => rl r.1 l), rs.any (·.2))
  | _ => let a := x.src pos c; (fun l => (leBytes 4 (rl a.1 l).toNat).take (memSize t), a.2)

/-- A store of registers, in ascending lane order (R233). -/
def LX.store (x : LX) (m : MMods) (sp : Option Bool) (accs : List Acc) (data : (Nat → List Byte) × Bool) (dead : List Bool) : LFin :=
  laneMem x { need := [pSTORE], access := accWrite, sp := sp, stated := scopeNum m.scope, use := .store, atom := atomUnit m } accs noCheck
    fun s g md part ok =>
      (ok.foldl (fun t p => emitBytes t g.uid md p.2 ((data.1 p.1.l).drop part.done)) s, { m := okMask ok, stick := poisonBits (data.2 :: dead) })

/-- LD. -/
def execLd (h : LaneHdr) (m : MMods) (s : State) : Host.Outcome State Fault Refusal :=
  laneStep s fun x0 =>
    let x := x0.fresh (bOf m)
    let a := x.src 0 h.a
    x.load h m (some false) (x.accsB (bOf m) a.1 (memSize m.ty)) [a.2]

/-- LDS. -/
def execLds (h : LaneHdr) (m : MMods) (s : State) : Host.Outcome State Fault Refusal :=
  laneStep s fun x0 =>
    let x := x0.fresh (bOf m)
    let a := x.src 0 h.a
    x.load h m (some true) (x.accsB (bOf m) a.1 (memSize m.ty)) [a.2]

/-- LDX. -/
def execLdx (h : LaneHdr) (m : MMods) (s : State) : Host.Outcome State Fault Refusal :=
  laneStep s fun x =>
    let q := x.quad h.a
    let b := x.src 1 h.b
    let accs := x.accsX q.1 b.1 (memSize m.ty)
    if scopeOnPad m accs then x.illegal 2 else x.load h m none accs [q.2, b.2]

/-- ST. -/
def execSt (h : LaneHdr) (m : MMods) (s : State) : Host.Outcome State Fault Refusal :=
  laneStep s fun x0 =>
    let x := x0.fresh (bOf m)
    let a := x.src 0 h.a
    x.store m (some false) (x.accsB (bOf m) a.1 (memSize m.ty)) (x.storeData 1 h.b m.ty) [a.2]

/-- STS. -/
def execSts (h : LaneHdr) (m : MMods) (s : State) : Host.Outcome State Fault Refusal :=
  laneStep s fun x0 =>
    let x := x0.fresh (bOf m)
    let a := x.src 0 h.a
    x.store m (some true) (x.accsB (bOf m) a.1 (memSize m.ty)) (x.storeData 1 h.b m.ty) [a.2]

/-- STX. -/
def execStx (h : LaneHdr) (m : MMods) (s : State) : Host.Outcome State Fault Refusal :=
  laneStep s fun x =>
    let q := x.quad h.a
    let b := x.src 1 h.b
    let accs := x.accsX q.1 b.1 (memSize m.ty)
    if scopeOnPad m accs then x.illegal 2 else x.store m none accs (x.storeData 2 h.c m.ty) [q.2, b.2]

/-! Capabilities (R174, R175, R215). -/

/-- A capability load into a quad. -/
def LX.loadCap (x : LX) (h : LaneHdr) (m : MMods) (sp : Option Bool) (accs : List Acc) (dead : List Bool) : LFin :=
  laneMem x { need := [pLOAD], access := accRead, cap16 := true, sp := sp, stated := scopeNum m.scope } accs noCheck
    fun s g md p ok =>
      let v := viewOf s g md p.got
      let vals := ok.map fun p => (p.1.l, v.cap p.1.x p.2)
      (vals.foldl (fun t p => noteGran t g.uid md p.2) s,
       { m := okMask ok, stick := poisonBits dead,
         cap := some (dstV h.dst, fun l => match vals.find? fun p => p.1 = l with | some p => p.2 | none => capNull) })

/-- A capability store from a quad. -/
def LX.storeCap (x : LX) (m : MMods) (sp : Option Bool) (accs : List Acc) (data : (Nat → Cap) × Bool) (dead : List Bool) : LFin :=
  laneMem x { need := [pSTORE], access := accWrite, cap16 := true, sp := sp, stated := scopeNum m.scope, use := .store } accs
    (fun s g a ps => storeCapCheck s g a.x (data.1 a.l) a.va ps) fun s g md _ ok =>
      (ok.foldl (fun t p => emitCap t g.uid md p.2 (data.1 p.1.l)) s, { m := okMask ok, stick := poisonBits (data.2 :: dead) })

/-- LDC. -/
def execLdc (h : LaneHdr) (m : MMods) (s : State) : Host.Outcome State Fault Refusal :=
  laneStep s fun x0 =>
    let x := x0.fresh (bOf m)
    let a := x.src 0 h.a
    x.loadCap h m (some false) (x.accsB (bOf m) a.1 16) [a.2]

/-- LDC.x. -/
def execLdcX (h : LaneHdr) (m : MMods) (s : State) : Host.Outcome State Fault Refusal :=
  laneStep s fun x =>
    let q := x.quad h.a
    let b := x.src 1 h.b
    let accs := x.accsX q.1 b.1 16
    if scopeOnPad m accs then x.illegal 2 else x.loadCap h m none accs [q.2, b.2]

/-- STC. -/
def execStc (h : LaneHdr) (m : MMods) (s : State) : Host.Outcome State Fault Refusal :=
  laneStep s fun x0 =>
    let x := x0.fresh (bOf m)
    let a := x.src 0 h.a
    x.storeCap m (some false) (x.accsB (bOf m) a.1 16) (x.quad h.b) [a.2]

/-- STC.x. -/
def execStcX (h : LaneHdr) (m : MMods) (s : State) : Host.Outcome State Fault Refusal :=
  laneStep s fun x =>
    let q := x.quad h.a
    let b := x.src 1 h.b
    let accs := x.accsX q.1 b.1 16
    if scopeOnPad m accs then x.illegal 2 else x.storeCap m none accs (x.quad h.c) [q.2, b.2]

end Sys2Proof.Machine
end

