-- ==== Sys2Proof/Machine/Atomics.lean ====
section
/-! DEFINITION. Atomics, aggregation, reduction windows, tile stores, gather-sum loads, multicast stores and sparse merge
(spec/09_atomics_reductions.md R258 to R275). -/

namespace Sys2Proof.Machine

/-! Operands (R258, R259). -/

/-- The operation that bits 12..10 name. -/
def atomOpOf (m : MMods) : AtomOp :=
  match mfld m.x.toNat 3 3 with
  | 0 => .add | 1 => .min | 2 => .max | 3 => .and | 4 => .or | 5 => .xor | 6 => .exch | _ => .cas

/-- The type of an atomic instruction: .s32 for the arithmetic operations and .b32 for the others by default. -/
def atomTyOf (m : MMods) : Ty :=
  if m.ty != .dflt then m.ty
  else match atomOpOf m with | .add | .min | .max => .s32 | _ => .b32

/-- An operand of a unit in every lane: a word, or a pair (R259). -/
def LX.srcUnit (x : LX) (pos : Nat) (c : Src) (t : Ty) : (Nat → Nat) × Bool :=
  if unitOf t = 8 then let a := x.srcK c 0; let b := x.srcK c 1; (fun l => pair64 (rl a.1 l) (rl b.1 l), a.2 || b.2)
  else let a := x.src pos c; (fun l => (rl a.1 l).toNat, a.2)

/-- The rows of old values of a unit. -/
def unitRows (t : Ty) (vals : List (Nat × Nat)) : List Row :=
  let v (l : Nat) : Nat := match vals.find? fun p => p.1 = l with | some p => p.2 | none => 0
  rowFn (fun l => lo32 (v l)) :: if unitOf t = 8 then [rowFn fun l => hi32 (v l)] else []

/-! ATOM and ATOMS (R260, R261). -/

/-- The first lane whose event is performed, with its value, and the lanes that fail before it. -/
def firstEvent (one : State → Acc → Got Nat) : State → List Acc → List Resolved → Got (List Resolved × Option (Nat × Nat))
  | s, [], bad => .ok s (bad, none)
  | s, a :: l, bad =>
    match one s a with
    | .wait s1 => .wait s1
    | .fault s1 t => firstEvent one s1 l (bad ++ [(a, .error t)])
    | .ok s1 v => .ok s1 (bad, some (a.l, v))

/-- An instruction whose lanes are events of their own, one after another in ascending order (R231, R233): each turn performs one, writes its
result and leaves the others to do; then the failing lanes give one trap. -/
def LX.perLane (x : LX) (access : Nat) (accs : List Acc) (one : State → Acc → Got Nat) (out : List (Nat × Nat) → LOut) : LFin :=
  match watchTrap x.g x.b.noWatch access x.act accs with
  | some t => .trap x.s noOut t
  | none =>
    match firstEvent one x.s accs [] with
    | .wait s => .again s
    | .fault s t => .trap s noOut t
    | .ok s (bad, none) => match laneTrap bad with
      | some t => .trap (dropAns s x.g.uid) noOut t
      | none => .ret s (out [])
    | .ok s (_, some v) =>
      let rest := x.act &&& ~~~(maskOf (· = v.1))
      let s1 := dropAns s x.g.uid
      if rest = 0 then .ret s1 (out [v]) else .more s1 (out [v]) rest

/-- One event of ATOM or ATOMS: the old value. It is performed where the current value lies and moves no ownership (R262). -/
def atomLane (g : Grp) (sp : AccSpec) (op : AtomOp) (t : Ty) (b c : Nat → Nat) (s : State) (a : Acc) : Got Nat :=
  (resolveAcc s g sp a).bind fun s1 ps =>
    match ps with
    | [] => .ok s1 0
    | p :: _ =>
      match p.loc.sp with
      | .remote node =>
        match ask s1 p.au g.uid (pcidOf s1 g.launch) node p.loc.a (.atomic op t (BitVec.ofNat 64 (b a.l)) (BitVec.ofNat 64 (if op = .cas then c a.l else 0))) with
        | (s2, none) => .wait s2
        | (s2, some (.fault k d m)) => .fault s2 { ansFault k d m accAtomic a.va.toNat with cap := a.x }
        | (s2, some (.data d _)) => .ok s2 (leNat (d.take (unitOf t)))
        | (s2, some _) => .ok s2 0
      | _ => match blocked s1 g.uid true (linesOf s1.ram p.loc p.n) with
        | some s2 => .wait s2
        | none =>
          let old := ramNat s1.ram p.loc (unitOf t)
          if op = .cas && old != c a.l then .ok s1 old
          else .ok (putMem s1 g.uid p.loc 0 (leBytes (unitOf t) (atomNew op t old (b a.l)))) old

/-- ATOM and ATOMS. -/
def atomInstr (h : LaneHdr) (m : MMods) (pad : Bool) (s : State) : Host.Outcome State Fault Refusal :=
  laneStep s fun x => x.irrevocable fun x0 =>
    let x := x0.fresh (bOf m)
    let t := atomTyOf m
    let op := atomOpOf m
    let a := x.src 0 h.a
    let b := x.srcUnit 1 h.b t
    let c := if op = .cas then x.srcUnit 2 h.c t else (fun _ => 0, false)
    let sp : AccSpec := { need := [pLOAD, pSTORE, pATOMIC], access := accAtomic, align := unitOf t, sp := some pad,
                          stated := scopeNum m.scope, use := .atomic }
    x.perLane accAtomic (x.accsB (bOf m) a.1 (unitOf t)) (atomLane x.g sp op t b.1 c.1) fun vals =>
      outRows h.dst none false (maskOf ((vals.map (·.1)).contains ·)) (unitRows t vals) (poisonBits [a.2, b.2, c.2])

/-- ATOM. -/
def execAtom (h : LaneHdr) (m : MMods) (s : State) : Host.Outcome State Fault Refusal := atomInstr h m false s
/-- ATOMS. -/
def execAtoms (h : LaneHdr) (m : MMods) (s : State) : Host.Outcome State Fault Refusal := atomInstr h m true s

/-! RED (R260, R261, R266). -/

/-- Refused by a stated scope narrower than .pod, the scope of a window (R205, R269). -/
def scopeBelowPod (stated : Nat) : Bool := stated != 0 && stated < 4

/-- The checks of a contribution to a window: R177 with ATOMIC and REMOTE, its check 7, alignment to the unit, then R266 with R205. A type or
an operation that disagrees comes before the stated scope: DESIGN CHOICE (log 76). -/
def contribRes (s : State) (g : Grp) (a : Acc) (w : Win) (agree : Bool) (stated align : Nat) : Got (List Piece) :=
  match checkUse a.x [pLOAD, pSTORE, pATOMIC, pREMOTE] a.va a.n accAtomic false (some false) (gangPad s g.gang) with
  | .error t => .fault s t
  | .ok () => match check7 s (pcidOf s g.launch) a.x a.va.toNat accAtomic with
    | some t => .fault s { t with cap := a.x }
    | none =>
      if a.va % align != 0 then .fault s (capFault a.x 13 a.va accAtomic)
      else if !agree then .fault s { xlFault kScope 5 accAtomic a.va.toNat false with cap := a.x }
      else if scopeBelowPod stated then .fault s { xlFault kScope 2 accAtomic a.va.toNat false with cap := a.x }
      else match contribCheck s (pcidOf s g.launch) g.core w a.va.toNat accAtomic a.x with
        | some t => .fault s t
        | none => .ok s []

/-- The window at a lane's address. -/
def winAtInt (s : State) (va : Int) : Option (Nat × Win) := if 0 ≤ va then windowAt s va.toNat else none

/-- RED. -/
def execRed (h : LaneHdr) (m : MMods) (s : State) : Host.Outcome State Fault Refusal :=
  laneStep s fun x0 =>
    let x := x0.fresh (bOf m)
    let t := atomTyOf m
    let op := atomOpOf m
    let a := x.src 0 h.a
    let b := x.srcUnit 1 h.b t
    let sp : AccSpec := { need := [pLOAD, pSTORE, pATOMIC], access := accAtomic, align := unitOf t, sp := some false,
                          stated := scopeNum m.scope, use := .red }
    laneMemBy x accAtomic 0 false (x.accsB (bOf m) a.1 (unitOf t)) (fun _ s c =>
        match winAtInt s c.va with
        | some (_, w) => contribRes s x.g c w (op = .add && agrees w.d.fmt t) (scopeNum m.scope) (unitOf t)
        | none => resolveAcc s x.g sp c)
      fun s g md _ ok =>
        let s1 := ok.foldl (fun r (p : Acc × List Piece) =>
          let v : DWord := BitVec.ofNat 64 (b.1 p.1.l)
          match winAtInt r p.1.va, p.2 with
          | some (id, w), _ => emit r g.uid md (.contrib (contribOf r id w g.core p.1.va.toNat (BitVec.ofNat 32 (b.1 p.1.l))))
          | none, q :: _ => emit r g.uid md (match q.loc.sp with
            | .remote node => .remote node q.loc.a (unitOf t) q.au (.atomic op t v 0)
            | _ => .red q.loc op t v)
          | none, [] => r) s
        (s1, { m := okMask ok, stick := poisonBits [a.2, b.2] })

/-! MATCH (R264). -/

/-- MATCH. -/
def execMatchL (h : LaneHdr) (m : MMods) (s : State) : Host.Outcome State Fault Refusal :=
  laneStep s fun x => x.groupWide <|
    let a : (Nat → Nat) × Bool :=
      if m.ty = .b64 then let p := x.srcK h.a 0; let q := x.srcK h.a 1; (fun l => pair64 (rl p.1 l) (rl q.1 l), p.2 || q.2)
      else let p := x.src 0 h.a; (fun l => (rl p.1 l).toNat, p.2)
    let e := lanesOf x.act
    let same (l : Nat) : List Nat := e.filter fun j => a.1 j = a.1 l
    match mfld m.x.toNat 0 2 with
    | 0 => x.outBool h (fun l => (same l).head? = some l) (poisonBits [a.2])
    | 1 => x.out h (rowFn fun l => BitVec.ofNat 32 (same l).length) (poisonBits [a.2])
    | _ => x.out h (rowFn fun l => BitVec.ofNat 32 ((same l).headD 0)) (poisonBits [a.2])

/-! The combining tree (R268). -/

/-- add of R268 on 4-byte units of a format: .bf16 values stand widened, as two .f32 values. -/
def treeAdd (fmt : Nat) (a b : List Nat) : List Nat :=
  if fmt = 2 then [(a.headD 0 + b.headD 0) % 2 ^ 32]
  else (a.zip b).map fun p => (arith fmt32 .rne false false false [p.1, p.2] (opAdd .rne)).1

/-- wide(x) and fin of R268. -/
def treeWide (fmt : Nat) (x : Nat) : List Nat :=
  if fmt = 1 then [(convFF fmtB16 fmt32 .rne false false false (x % 2 ^ 16)).1, (convFF fmtB16 fmt32 .rne false false false (x / 2 ^ 16 % 2 ^ 16)).1]
  else [x % 2 ^ 32]
def treeFin (fmt : Nat) (v : List Nat) : Nat :=
  if fmt = 1 then (convFF fmt32 fmtB16 .rne false false false (v.getD 0 0)).1 + (convFF fmt32 fmtB16 .rne false false false (v.getD 1 0)).1 * 2 ^ 16
  else v.headD 0

/-- One level of the tree: neighbours are added, an odd last entry is carried. -/
def treeLevel (fmt : Nat) : List (List Nat) → List (List Nat)
  | a :: b :: l => treeAdd fmt a b :: treeLevel fmt l
  | l => l

/-- The tree down to one entry. -/
def treeSum (fmt : Nat) : Nat → List (List Nat) → List Nat
  | 0, l => l.headD []
  | n + 1, l => match l with | [] => [] | [x] => x | _ => treeSum fmt n (treeLevel fmt l)

/-! LDSUM (R272). -/

/-- The replica window of this node at an offset. -/
def replicaAt (s : State) (off : Nat) : Option (Nat × Win) :=
  s.fab.wins.find? fun e => e.2.d.kind = 2 && e.2.d.range % 2 ^ 47 ≤ off && off < e.2.d.range % 2 ^ 47 + e.2.d.len
    && e.2.d.members.contains s.fab.node.toNat

/-- The format of LDSUM's type. -/
def sumFmt (t : Ty) : Nat := match t with | .bf16 => 1 | .s32 => 2 | _ => 0

/-- A read hold on the sub-page of an offset at one member (R243, R272), kept as an answer until LDSUM drops its answers. -/
def gatherHold (s : State) (g : Grp) (a : Acc) (stated off node : Nat) : Got Unit :=
  let au : Auth := { cap := a.x, stated := stated }
  if node = s.fab.node.toNat then
    if s.fab.answers.any fun e => e.group = g.uid && e.node = node && e.off = off && e.kind = .hold then .ok s ()
    else match translate s (agtOf s g) true off accRead 0 with
      | .fault s1 t => .fault s1 { t with addr := a.va.toNat, cap := a.x, home := true }
      | .wait s1 => .wait s1
      | .ok s1 (l, _) => match blocked s1 g.uid false (linesOf s1.ram l 4) with
        | some s2 => .wait s2
        | none =>
          let k := (behind s1.ram l).a / 4096
          .ok { s1 with fab := { s1.fab with
                holds := s1.fab.holds ++ [{ node := node, sub := k, off := off / 4096, write := false }],
                answers := s1.fab.answers ++ [{ node := node, group := g.uid, off := off, kind := .hold, auth := au, ans := .data (leBytes 8 k) false }] } } ()
  else match ask s au g.uid (pcidOf s g.launch) node off .hold with
    | (s1, none) => .wait s1
    | (s1, some (.fault k d m)) => .fault s1 { ansFault k d m accRead a.va.toNat with cap := a.x }
    | (s1, some _) => .ok s1 ()

/-- The value at one member: its own memory here, an answer elsewhere. -/
def gatherOne (s : State) (g : Grp) (a : Acc) (stated off id : Nat) (w : Win) (node : Nat) : Got Nat :=
  if node = s.fab.node.toNat then
    match translate s (agtOf s g) true off accRead 0 with
    | .fault s1 t => .fault s1 { t with addr := a.va.toNat, cap := a.x, home := true }
    | .wait s1 => .wait s1
    | .ok s1 (l, _) => match spoilAt s1 l 4 with
      | some d => .fault s1 { kind := kSpoiled, detail := d, access := accRead, addr := modPow a.va 64, cap := a.x }
      | none => .ok s1 (ramNat s1.ram l 4)
  else match ask s { cap := a.x, stated := stated } g.uid (pcidOf s g.launch) node off (.gather id (w.d.members.idxOf node) w.d.fmt w.d.gen) with
    | (s1, none) => .wait s1
    | (s1, some (.fault k d m)) => .fault s1 { ansFault k d m accRead a.va.toNat with cap := a.x }
    | (s1, some (.data d _)) => .ok s1 (leNat (d.take 4))
    | (s1, some _) => .ok s1 0

/-- The numbers of a list in ascending order. -/
def ascending (l : List Nat) : List Nat := l.foldr (fun x r => r.takeWhile (· < x) ++ x :: r.dropWhile (· < x)) []

/-- The values of all members in rank order, once the read holds are taken in ascending node order (R272). While they are held nothing
writes there, so the values are those of one event. -/
def gatherAll (g : Grp) (a : Acc) (stated off id : Nat) (w : Win) (s : State) : Got (List Nat) :=
  ((ascending w.d.members).foldl (fun (r : Got Unit) n => r.bind fun t _ => gatherHold t g a stated off n) (.ok s ())).bind fun s1 _ =>
    w.d.members.foldl (fun (r : Got (List Nat)) n => r.bind fun t vs => (gatherOne t g a stated off id w n).bind fun u v => .ok u (vs ++ [v])) (.ok s1 [])

/-- One event of LDSUM. A failing lane gives its holds back. -/
def sumLane (g : Grp) (fmt : Nat) (stated : Nat) (s : State) (a : Acc) : Got Nat :=
  match checkUse a.x [pLOAD, pREMOTE] a.va 4 accRead false (some false) (gangPad s g.gang) with
  | .error t => .fault s t
  | .ok () => match check7 s (pcidOf s g.launch) a.x a.va.toNat accRead with
    | some t => .fault s { t with cap := a.x }
    | none =>
    if a.va % 4 != 0 then .fault s (capFault a.x 13 a.va accRead)
    else
      let va := a.va.toNat
      let bad : TrapInfo := { xlFault kScope 5 accRead va false with cap := a.x }
      if !isAperture a.va || nbits va 47 9 != s.fab.node.toNat then .fault s bad
      else match replicaAt s (va % 2 ^ 47) with
        | none => .fault s bad
        | some (id, w) =>
          if scopeBelowPod stated then .fault s { xlFault kScope 2 accRead va false with cap := a.x }
          else match gatherAll g a stated (va % 2 ^ 47) id w s with
            | .ok s1 vs => .ok s1 (treeFin fmt (treeSum fmt vs.length (vs.map (treeWide fmt))))
            | .fault s1 t => .fault (dropAns s1 g.uid) t
            | .wait s1 => .wait s1

/-- LDSUM. -/
def execLdsum (h : LaneHdr) (m : MMods) (s : State) : Host.Outcome State Fault Refusal :=
  laneStep s fun x => x.irrevocable fun x0 =>
    let x := x0.fresh (bOf m)
    let a := x.src 0 h.a
    x.perLane accRead (x.accsB (bOf m) a.1 4) (sumLane x.g (sumFmt m.ty) (scopeNum m.scope)) fun vals =>
      outRows h.dst none false (maskOf ((vals.map (·.1)).contains ·)) (unitRows .b32 vals) (poisonBits [a.2])

/-! STM (R273). -/

/-- The checks of one lane of STM. Its address names a group, so no home is asked here: each member makes its own checks (R273). -/
def stmRes (s : State) (g : Grp) (a : Acc) : Got (List Piece) :=
  match checkUse a.x [pSTORE, pREMOTE] a.va a.n accWrite false (some false) (gangPad s g.gang) with
  | .error t => .fault s t
  | .ok () =>
    if isAperture a.va then (match unsealed s (pcidOf s g.launch) a.va.toNat accWrite a.x with | some t => .fault s t | none => .ok s [])
    else .fault s { xlFault kScope 5 accWrite a.va.toNat false with cap := a.x }

/-- STM. -/
def execStm (h : LaneHdr) (m : MMods) (s : State) : Host.Outcome State Fault Refusal :=
  laneStep s fun x0 =>
    let x := x0.fresh (bOf m)
    let a := x.src 0 h.a
    let d := x.storeData 1 h.b m.ty
    laneMemBy x accWrite 0 false (x.accsB (bOf m) a.1 (memSize m.ty)) (fun _ s c => stmRes s x.g c) fun s g md _ ok =>
      (ok.foldl (fun t p => emit t g.uid md
          (.mcast (nbits p.1.va.toNat 47 9) (p.1.va.toNat % 2 ^ 47) (d.1 p.1.l) { cap := p.1.x, stated := scopeNum m.scope })) s,
       { m := okMask ok, stick := poisonBits [a.2, d.2] })

/-! REDSP (R275). -/

/-- The checks of one lane of REDSP; the base is the b register's address. -/
def redspRes (s : State) (g : Grp) (base : Nat) (t : Ty) (a : Acc) : Got (List Piece) :=
  match checkUse a.x [pLOAD, pSTORE, pATOMIC, pREMOTE] a.va 4 accAtomic false (some false) (gangPad s g.gang) with
  | .error e => .fault s e
  | .ok () => match check7 s (pcidOf s g.launch) a.x a.va.toNat accAtomic with
    | some e => .fault s { e with cap := a.x }
    | none =>
    let bad : TrapInfo := { xlFault kScope 5 accAtomic a.va.toNat false with cap := a.x }
    match windowAt s base with
    | none => .fault s bad
    | some (_, w) =>
      if w.d.kind != 3 || w.d.range != base || !agrees w.d.fmt t then .fault s bad
      else if a.va ≥ (w.d.range + w.d.len : Nat) then .fault s (capFault a.x 4 a.va accAtomic)
      else match contribCheck s (pcidOf s g.launch) g.core w a.va.toNat accAtomic a.x with
        | some e => .fault s e
        | none => .ok s []

/-- REDSP. -/
def execRedsp (h : LaneHdr) (m : MMods) (s : State) : Host.Outcome State Fault Refusal :=
  laneStep s fun x0 =>
    let x := x0.fresh (bOf m)
    let c := (bGet x.g.g (bOf m)).cap
    let t := if m.ty = .s32 then Ty.s32 else .f32
    let a := x.src 0 h.a
    let b := x.src 1 h.b
    let accs : List Acc := (lanesOf x.act).map fun l => { l := l, x := c, va := cAddr c + 4 * uI (rl a.1 l), n := 4, b := none }
    laneMemBy x accAtomic 0 false accs (fun _ s q => redspRes s x.g (cAddr c) t q) fun s g md _ ok =>
      (ok.foldl (fun r p => match windowAt r (cAddr c) with
        | some (id, w) => emit r g.uid md (.sparse id w.d.gen (rl a.1 p.1.l) (rl b.1 p.1.l))
        | none => r) s, { m := okMask ok, stick := poisonBits [a.2, b.2] })

/-! STT (R271). -/

/-- The type, the rounding, `.ftz` and the scope of STT, from bits 22..7. -/
def sttTy (m : BitVec 16) : Ty := match (Ty.ofCode (mfld m.toNat 11 5)).getD .dflt with | .bf16 => .bf16 | .f16 => .f16 | _ => .f32
def sttRnd (m : BitVec 16) : Rnd := (Rnd.ofCode (mfld m.toNat 3 3)).getD .rne

/-- The first failing 4-byte unit of a row decides its fault. -/
def rowRes (unit : Acc → State → Got (List Piece)) (a : Acc) (s : State) (whole : Got (List Piece)) : Got (List Piece) :=
  match whole with
  | .fault s1 t =>
    let us := (below (a.n / 4)).filterMap fun (k : Nat) =>
      match unit { a with va := a.va + ((4 * k : Nat) : Int), n := 4, b := a.b.map fun p => (p.1, p.2 + 4 * k) } s with | .fault _ e => some e | _ => none
    .fault s1 (us.headD t)
  | r => r

/-- The checks of one row of STT. An offset above 2^32 − 1 fails check 4 of R177. A unit at a window address with a type that disagrees takes
SCOPEFAULT 5, as a RED does: DESIGN CHOICE (log 76). -/
def sttRes (g : Grp) (sp : AccSpec) (t : Ty) (s : State) (a : Acc) : Got (List Piece) :=
  let need (c : Acc) : List Nat :=
    (if (winAtInt s c.va).isSome then [pLOAD, pSTORE, pATOMIC] else [pSTORE]) ++ if isAperture c.va then [pREMOTE] else []
  let far (c : Acc) : Bool := c.va - cAddr c.x + c.n > 2 ^ 32
  let unit (c : Acc) (s : State) : Got (List Piece) :=
    match if far c then checkPerms c.x (need c) c.va accWrite else .ok () with
    | .error e => .fault s e
    | .ok () =>
      if far c then .fault s (capFault c.x 4 c.va accWrite)
      else match winAtInt s c.va with
        | some (_, w) => contribRes s g c w (agrees w.d.fmt t) sp.stated 4
        | none => resolveAcc s g sp c
  let wins : Bool := (below (a.n / 4)).any fun (k : Nat) => (winAtInt s (a.va + 4 * k)).isSome
  let whole : Got (List Piece) :=
    if wins || far a then
      (below (a.n / 4)).foldl (fun r (k : Nat) => r.bind fun s1 ps =>
        (unit { a with va := a.va + 4 * k, n := 4, b := a.b.map fun p => (p.1, p.2 + 4 * k) } s1).bind fun s2 qs => .ok s2 (ps ++ qs)) (.ok s [])
    else resolveAcc s g sp a
  rowRes unit a s whole

/-- The 4-byte units of a row stored or contributed, at ascending addresses; pieces serve the units outside windows. -/
def sttEmit (uid core : Nat) (md : MemMode) : Nat → Int → List Piece → List Byte → State → State
  | 0, _, _, _, s => s
  | n + 1, va, ps, b, s =>
    match winAtInt s va with
    | some (id, w) => sttEmit uid core md n (va + 4) ps (b.drop 4) (emit s uid md (.contrib (contribOf s id w core va.toNat (BitVec.ofNat 32 (leNat (b.take 4))))))
    | none => match ps with
      | [] => s
      | p :: rest =>
        let s1 := emitBytes s uid md [{ p with n := 4 }] (b.take 4)
        if p.n ≤ 4 then sttEmit uid core md n (va + 4) rest (b.drop 4) s1
        else sttEmit uid core md n (va + 4) ({ p with loc := { p.loc with a := p.loc.a + 4 }, n := p.n - 4 } :: rest) (b.drop 4) s1

/-- STT. -/
def execStt (h : LaneHdr) (m : BitVec 16) (s : State) : Host.Outcome State Fault Refusal :=
  laneStep s fun y => y.groupWide <|
    let x := y.fresh (mfld m.toNat 0 3)
    let b := bGet x.g.g (mfld m.toNat 0 3)
    let t := sttTy m
    let w := if t = .f32 then 4 else 2
    let base := match h.a with | .qreg n => n.toNat | _ => 0
    let stride := (rl (x.src 1 h.b).1 0).toNat
    let scope := mfld m.toNat 8 3
    if scope != 0 && cSP b.cap then x.illegal 2
    else if stride % 4 != 0 then x.trapAll (capFault b.cap 13 (cAddr b.cap) accWrite)
    else
      let F := match t with | .bf16 => fmtB16 | .f16 => fmt16 | _ => fmt32
      let conv (l j : Nat) : Nat × Flags :=
        convFF fmt32 F (sttRnd m) (mbit m.toNat 6) false false (rl (qGet x.s x.g (base + j)) l).toNat
      let accs : List Acc := (lanesOf x.act).map fun l =>
        { l := l, x := b.cap, va := cAddr b.cap + (l * stride : Nat), n := 128 * w, b := if cSP b.cap then none else some (b, l * stride) }
      let sp : AccSpec := { need := [pSTORE], access := accWrite, align := 4, stated := scope, use := .store }
      laneMemBy x accWrite 4 false accs (fun _ => sttRes x.g sp t) fun s g md part ok =>
          let fl := ok.foldl (fun f p => (below 128).foldl (fun f j => f ||| (conv p.1.l j).2) f) (0 : Flags)
          let s1 := ok.foldl (fun r p =>
            sttEmit g.uid g.core md (p.1.n / 4) p.1.va p.2 (((below 128).flatMap fun j => leBytes w (conv p.1.l j).1).drop part.done) r) s
          (s1, { m := okMask ok, stick := fpStatus fl })

end Sys2Proof.Machine
end

