-- ==== Sys2Proof/Machine/Matrix.lean ====
section
/-! DEFINITION. Matrix instructions, the sequencer and the array of a core (spec/11_matrix.md R302 to R330). -/

namespace Sys2Proof.Machine

/-! Issue (R303, R304, R306). -/

/-- The condition of R304 that fails, if any, against the state at the block's EXEC. -/
def matPartial (b : LaneBlock) : Option Nat :=
  if b.splits != 1 then some 1 else if b.mask != allLanes then some 2 else if b.compacting then some 3 else none

/-- A matrix instruction: PARTIAL where a condition of R304 fails. -/
def LX.matGate (x : LX) (k : LFin) : LFin :=
  match matPartial x.b with
  | some d => x.trapAll { kind := kPartial, detail := d }
  | none => k

/-- A matrix operation is forked, or buffered where its group has an uncommitted window. A group's operation waits while an
operation of its context is still to enter the four places of the sequencer queue (R306). -/
def LX.matFork (x : LX) (o : MatOp) : LFin :=
  let c := matOf x.s x.g
  if c.queue.length > 4 then
    match c.stopped, c.pending, c.run with
    | true, some r, some p => .stop x.s r p
    | _, _, _ => .again x.s
  else .ret (emit { x.s with uid := x.s.uid + 1 } x.g.uid (if x.g.wins.isEmpty then .direct else .window) (.mat o)) noOut

/-- An operation with the fields that every kind shares. -/
def LX.matOp (x : LX) (k : MatKind) : MatOp :=
  { uid := x.s.uid, kind := k, word := x.w, group := x.g.uid, tile := 0, areg := 0, b := bNone, off := 0, inc := 0, count := 0, stride := 0,
    span := 0, ty := .dflt, reuse := false, rowStride := 0 }

/-- The q register that a tile operand names, and the v register of a source. -/
def tileDst : Dst → Nat
  | .qreg n => n.toNat
  | _ => 0
def tileSrc : Src → Nat
  | .qreg n => n.toNat
  | _ => 0
def vSrc : Src → Nat
  | .vreg n _ _ => n.toNat
  | _ => 0

/-- A uniform source: the same value in every lane. -/
def LX.uni (x : LX) (pos : Nat) (c : Src) : Word := rl (x.src pos c).1 0

/-- What the collector and the settings will be when an operation issued now starts (R316). -/
def matPlan (s : State) (g : Grp) : MatView :=
  ((matOf s g).queue ++ matBuffered g).foldl viewStep (ctxView (matOf s g))

/-- Whether an operation of steps is out of range at issue (R315, R316). -/
def loopBad (s : State) (g : Grp) (o : MatOp) : Bool :=
  let v := matPlan s g
  let t := stepTy o.ty
  let full : Bool := match v.held with | some (ht, h) => o.reuse && (o.count > h || t != ht) | none => o.reuse && o.count > 16
  let regs : Bool := !fromColl v o && o.count != 0 &&
    (o.areg + (o.count - 1) * o.stride + 7 ≥ g.regs || (scales v.scale t && v.sreg + o.count - 1 ≥ g.regs))
  full || regs

/-- The issue of an operation of steps. -/
def LX.loop (x : LX) (o : MatOp) : LFin := if loopBad x.s x.g o then x.illegal 9 else x.matFork o

/-- The fields of MLOOP and MSTEP that their modifiers hold. -/
def LX.stepOp (x : LX) (h : LaneHdr) (m : BitVec 16) : MatOp :=
  { x.matOp .steps with tile := tileDst h.dst, areg := vSrc h.a, b := bGet x.g.g (mfld m.toNat 8 3),
                        ty := (Ty.ofCode (mfld m.toNat 11 5)).getD .dflt, reuse := mbit m.toNat 7 }

/-- MLOOP (R314, R315). -/
def execMloop (h : LaneHdr) (m : BitVec 16) (s : State) : Host.Outcome State Fault Refusal :=
  laneStep s fun x => x.matGate <|
    let n := match h.b with | .special n => n.toNat | _ => 0
    let d := (blockS x.b (n + 2)).toNat
    if nbits d 27 5 != 0 then x.illegal 9
    else x.loop { x.stepOp h m with
      off := blockS x.b n, inc := blockS x.b (n + 1), count := nbits d 0 16, stride := nbits d 16 8, span := BitVec.ofNat 3 (nbits d 24 3) }

/-- MSTEP: a loop of one step (R314). -/
def execMstep (h : LaneHdr) (m : BitVec 16) (s : State) : Host.Outcome State Fault Refusal :=
  laneStep s fun x => x.matGate <|
    x.loop { x.stepOp h m with off := x.uni 1 h.b, count := 1, span := BitVec.ofNat 3 (mfld m.toNat 4 3) }

/-- MZERO (R320). -/
def execMzero (h : LaneHdr) (_m : BitVec 16) (s : State) : Host.Outcome State Fault Refusal :=
  laneStep s fun x => x.matGate <| x.matFork { x.matOp .zero with tile := tileDst h.dst }

/-- MLDA (R321). -/
def execMlda (h : LaneHdr) (m : BitVec 16) (s : State) : Host.Outcome State Fault Refusal :=
  laneStep s fun x => x.matGate <| x.matFork { x.matOp .load with
    tile := tileDst h.dst, b := bGet x.g.g (mfld m.toNat 8 3), off := x.uni 1 h.b, rowStride := x.uni 2 h.c,
    ty := (Ty.ofCode (mfld m.toNat 11 5)).getD .dflt }

/-- MSCALE (R322). -/
def execMscale (h : LaneHdr) (m : BitVec 16) (s : State) : Host.Outcome State Fault Refusal :=
  laneStep s fun x => x.matGate <| x.matFork (x.matOp (.scale (mfld m.toNat 0 2) (vSrc h.a)))

/-- MCHK (R328). -/
def execMchk (_h : LaneHdr) (m : BitVec 16) (s : State) : Host.Outcome State Fault Refusal :=
  laneStep s fun x => x.matGate <| x.matFork (x.matOp (.check (mfld m.toNat 0 9) (mbit m.toNat 9) (mbit m.toNat 10)))

/-! Joins and ownership (R307, R326, R327). -/

/-- An instruction that joins every operation of the context first. -/
def LX.joinAll (x : LX) (k : LFin) : LFin :=
  match joinMat x.s x.g none with
  | .wait t => .again t
  | .stop r o => .stop x.s r o
  | .free => k

/-- MJOIN (R326). -/
def execMjoin (_h : LaneHdr) (_m : BitVec 16) (s : State) : Host.Outcome State Fault Refusal :=
  laneStep s fun x => x.matGate <| x.joinAll (.ret x.s noOut)

/-- MJOIN.drop (R326): buffered operations fork first. -/
def execMjoinDrop (_h : LaneHdr) (_m : BitVec 16) (s : State) : Host.Outcome State Fault Refusal :=
  laneStep s fun x => x.matGate <|
    if !(matBuffered x.g).isEmpty then .again (setGrp x.s { x.g with wins := closeWins x.g.wins })
    else .ret (modMat x.s x.g.wg (matPos x.s x.g) matDrop) noOut

/-- MCTX: as COMMIT first; `f` is the effect on the group after it. -/
def LX.mctx (x : LX) (f : LX → LFin) : LFin :=
  match commitAll x.s x.g.uid with
  | (s1, .done) =>
    if mcastBusy s1 x.g.uid then .again s1
    else match grpOf s1 x.g.uid with
      | some g1 =>
        let y := { x with s := s1, g := g1 }
        if (matOf s1 g1).holder = some g1.uid then y.joinAll (f y) else f y
      | none => .again s1
  | (s1, _) => .again s1

/-- MCTX.acq (R327): a context that no group holds is taken; otherwise the group waits in the list of R327. -/
def execMctxAcq (_h : LaneHdr) (_m : BitVec 16) (s : State) : Host.Outcome State Fault Refusal :=
  laneStep s fun x => x.matGate <| x.mctx fun x =>
    let c := matOf x.s x.g
    match c.holder with
    | some u =>
      if u = x.g.uid then .ret x.s noOut
      else if c.waiters.contains x.g.uid then .again x.s
      else .again (modMat x.s x.g.wg (matPos x.s x.g) fun c => { c with waiters := c.waiters ++ [x.g.uid] })
    | none =>
      .ret (modMat x.s x.g.wg (matPos x.s x.g) fun c => { c with holder := some x.g.uid, waiters := c.waiters.filter (· != x.g.uid) }) noOut

/-- MCTX.rel (R327). -/
def execMctxRel (_h : LaneHdr) (_m : BitVec 16) (s : State) : Host.Outcome State Fault Refusal :=
  laneStep s fun x => x.matGate <| x.mctx fun x =>
    .ret (if (matOf x.s x.g).holder = some x.g.uid then matRelease x.s x.g else x.s) noOut

/-! MEPI and MSTA (R323, R324). -/

/-- The element type of MEPI and MSTA: .f32 by default. -/
def epiTy (m : Nat) : Ty := let t := (Ty.ofCode (mfld m 11 5)).getD .dflt; if t = .dflt then .f32 else t

/-- One converted element: the exact product with the scale, `.relu`, one rounding. -/
def epiElem (t : Ty) (mode : Rnd) (relu sat : Bool) (q sc : Nat) : Nat × Flags :=
  let a := fVal fmt32 q
  let b := fVal fmt32 sc
  let bad : Bool := isSnan fmt32 q || isSnan fmt32 sc || (isInfV a && isZeroV b) || (isZeroV a && isInfV b)
  let x := mulV a b
  let y : FV := match x with
    | .fin n m e st => if relu && n then .fin false 0 0 false else .fin n m e st
    | .inf n => if relu && n then .fin false 0 0 false else .inf n
    | .nan => .nan
  let r := match fmtOf t with | some F => convV F mode false sat y | none => (0, 0)
  (r.1, r.2 ||| (if bad then flInvalid else 0))

/-- Element j of lane l of the tile that a MEPI or MSTA names, with its flags. -/
def LX.epi (x : LX) (h : LaneHdr) (m : BitVec 16) (l j : Nat) : Nat × Flags :=
  let sc := rl (x.src 2 h.c).1 l
  epiElem (epiTy m.toNat) ((Rnd.ofCode (mfld m.toNat 8 3)).getD .rne) (mbit m.toNat 7) (mbit m.toNat 6)
    (rl (qGet x.s x.g (tileSrc h.a + j)) l).toNat sc.toNat

/-- The words of a lane's converted row, the first columns in the low slots, with the flags. -/
def LX.epiRow (x : LX) (h : LaneHdr) (m : BitVec 16) (l : Nat) : List Word × Flags :=
  let t := epiTy m.toNat
  let e := 32 / tyWidth t
  let es := (below 128).map (x.epi h m l)
  ((below (128 / e)).map fun k => (below e).foldl (fun w i => slotSet t w i (es.getD (e * k + i) (0, 0)).1) (0 : Word),
   es.foldl (fun f r => f ||| r.2) 0)

/-- MEPI. -/
def execMepi (h : LaneHdr) (m : BitVec 16) (s : State) : Host.Outcome State Fault Refusal :=
  laneStep s fun x => x.matGate <| x.joinAll <|
    let rows := (below 96).map (x.epiRow h m)
    let n := 128 * tyWidth (epiTy m.toNat) / 32
    let d := match h.dst with | .vreg n => n.toNat | _ => 0
    match takeCkpt x.s x.g (upto d n) [] with
    | none => .again (setGrp x.s { x.g with wins := closeWins x.g.wins })
    | some g1 =>
      .ret (setGrp x.s g1)
        { m := x.act, stick := fpStatus (rows.foldl (fun f r => f ||| r.2) 0),
          v := (below n).map fun k => (d + k, rows.map fun r => r.1.getD k 0) }

/-- The aligned 16-byte units, or parts of them at the ends, of n bytes at an address (R311). -/
def swzParts : Nat → Nat → Nat → List (Nat × Nat)
  | 0, _, _ => []
  | fuel + 1, a, n =>
    if n = 0 then []
    else let k := min (16 - a % 16) n; (a, k) :: swzParts fuel (a + k) (n - k)

/-- The checks of a lane's row at the places to which its bytes go; the lowest failing part decides the fault. -/
def mstaRes (g : Grp) (b : BReg) (sp : AccSpec) (span : BitVec 3) (s : State) (a : Acc) : Got (List Piece) :=
  (swzParts 64 a.va.toNat a.n).foldl (fun r p => r.bind fun s1 ps =>
    let va := swz p.1 span
    let off : Int := (va : Int) - cAddr b.cap
    let c : Acc := { a with va := va, n := p.2, b := if !cSP b.cap && 0 ≤ off && off < 2 ^ 32 then some (b, off.toNat) else none }
    (resolveAcc s1 g sp c).bind fun s2 qs => .ok s2 (ps ++ qs)) (.ok s [])

/-- Stores a row at its pieces with the span code. A write to another node carries no span: the row that its home maps takes record 0 (log 70). -/
def mstaPut (uid : Nat) (md : MemMode) (span : BitVec 3) : List Piece → List Byte → State → State
  | [], _, s => s
  | p :: ps, b, s =>
    let o : BufOp := match p.loc.sp with
      | .remote node => .remote node p.loc.a p.n p.au (.write (b.take p.n))
      | _ => .write p.loc (b.take p.n) span
    mstaPut uid md span ps (b.drop p.n) (emit s uid md o)

/-- MSTA. -/
def execMsta (h : LaneHdr) (m : BitVec 16) (s : State) : Host.Outcome State Fault Refusal :=
  laneStep s fun y => y.matGate <| y.joinAll <|
    let x := y.fresh (mfld m.toNat 0 3)
    let b := bGet x.g.g (mfld m.toNat 0 3)
    let span : BitVec 3 := BitVec.ofNat 3 (mfld m.toNat 3 3)
    let stride := (x.uni 1 h.b).toNat
    if cAddr b.cap % 4 != 0 || stride % 4 != 0 then x.trapAll (capFault b.cap 13 (cAddr b.cap) accWrite)
    else
      let n := 16 * tyWidth (epiTy m.toNat)
      let accs : List Acc := (lanesOf x.act).map fun l => { l := l, x := b.cap, va := cAddr b.cap + (l * stride : Nat), n := n, b := none }
      let sp : AccSpec := { need := [pSTORE], access := accWrite, align := 1, use := .store }
      laneMemBy x accWrite 4 false accs (fun _ => mstaRes x.g b sp span) fun s g md part ok =>
        let rows := ok.map fun p => (p, x.epiRow h m p.1.l)
        (rows.foldl (fun t r => mstaPut g.uid md span r.1.2 ((wordsBytes r.2.1).drop part.done) t) s,
         { m := okMask ok, stick := fpStatus (rows.foldl (fun f r => f ||| r.2.2) 0) })

/-! The step (R309 to R313). -/

/-- The K elements of a step, and the bits of a slot (R309). -/
def stepK (t : Ty) : Nat := 256 / tyWidth t

/-- The value of an element of a step's floating-point type. -/
def stepVal (t : Ty) (v : Nat) : FV := match fmtOf t with | some F => fVal F v | none => intV (sgn 8 v)

/-- The elements of 32 bytes held as eight words (R310, R311). -/
def stepElems (t : Ty) (ws : List Word) : List Nat :=
  let e := 32 / tyWidth t
  (below (stepK t)).map fun kk => slotGet t (ws.getD (kk / e) 0) (kk % e)

/-- The exact sum of finite values: −0 only when every one is −0. -/
def sumV : List FV → FV
  | [] => .fin true 0 0 false
  | v :: vs => addV .rne v (sumV vs)

/-- One accumulator element after a step of a floating-point type. -/
def stepF (acc : Word) (ps : List FV) : Word :=
  let a := fVal fmt32 acc.toNat
  let all := a :: ps
  let inf (n : Bool) : Bool := all.contains (.inf n)
  if all.contains .nan || (inf false && inf true) then 0x7FC00000
  else if inf false then 0x7F800000
  else if inf true then 0xFF800000
  else BitVec.ofNat 32 (roundF fmt32 .rne (addV .rne a (sumV ps))).1

/-- One accumulator element after a step (R313): A and B elements, and their block scales where scales apply. -/
def stepElem (t : Ty) (acc : Word) (as_ bs : List Nat) (sa sb : Nat → FV) : Word :=
  let kks := below (stepK t)
  if t = .s8 then wrapI (sI acc + (kks.map fun k => sgn 8 (as_.getD k 0) * sgn 8 (bs.getD k 0)).foldl (· + ·) 0)
  else stepF acc (kks.map fun k => mulV (mulV (stepVal t (as_.getD k 0)) (sa (k / 32))) (mulV (stepVal t (bs.getD k 0)) (sb (k / 32))))

/-- The value 1, where no scale applies. -/
def oneV : FV := .fin false 1 0 false

/-- Blocks per step (R309). -/
def blocksOf (t : Ty) : Nat := if t = .e2m1 then 2 else 1

/-- A step on a tile: `a` the eight A registers, `as_` the A scale register, `img` the block's bytes as they stand at p. -/
def stepTile (t : Ty) (scl : Nat) (span : BitVec 3) (p : Nat) (img : List Byte) (a : List Row) (sreg : Row) (bank : Nat → Row) : List Row :=
  let on := scales scl t
  let ws : Bool := scl = 2
  let byteAt (x : Nat) : Byte := img.getD x 0
  let wordAt (o : Nat) : Word := let y := swz (p + o) span - p; BitVec.ofNat 32 (leNat ((below 4).map fun i => byteAt (y + i)))
  let rows := (below 96).map fun l => stepElems t (a.map fun r => rl r l)
  let cols := (below 128).map fun j => stepElems t ((below 8).map fun i => wordAt (32 * j + 4 * i))
  let sa (l h : Nat) : FV := if on then scaleV ws (nbits (rl sreg l).toNat (16 * h) 16 % (if ws then 1024 else 256)) else oneV
  let sb (j h : Nat) : FV :=
    if on then scaleV ws (leNat [byteAt (4096 + 2 * (blocksOf t * j + h)), byteAt (4097 + 2 * (blocksOf t * j + h))] % (if ws then 1024 else 256)) else oneV
  (below 128).map fun j => rowFn fun l => stepElem t (rl (bank j) l) (rows.getD l []) (cols.getD j []) (sa l) (sb j)

/-! Reads of the operand fetcher (R315, R318, R321). -/

/-- The group of an operation as the requester of its reads. -/
def matAgent (g : Grp) (o : MatOp) : Grp := { g with uid := o.uid, integ := none }

/-- One access of the fetcher. -/
def matAcc (o : MatOp) (va : Int) (n : Nat) : Acc :=
  let off : Int := va - cAddr o.b.cap
  { l := 0, x := o.b.cap, va := va, n := n, b := if !cSP o.b.cap && 0 ≤ off && off < 2 ^ 32 then some (o.b, off.toNat) else none }

def matSpecAcc : AccSpec := { need := [pLOAD], access := accRead, use := .loadDirect }

/-- The places of a range within one page; a failure is that of its lowest failing unit of u bytes. -/
def matPlace (g : Grp) (o : MatOp) (u : Nat) (s : State) (va : Int) (n : Nat) : Got (List Piece) :=
  match resolveAcc s g matSpecAcc (matAcc o va n) with
  | .fault s1 t =>
    let us := (below (n / u)).filterMap fun (k : Nat) =>
      match resolveAcc s g matSpecAcc (matAcc o (va + ((u * k : Nat) : Int)) u) with | .fault _ e => some e | _ => none
    .fault s1 { us.headD t with access := accEngine, cap := o.b.cap }
  | r => r

/-- The places of n bytes at an address, page by page. -/
def matPlaces (g : Grp) (o : MatOp) (u : Nat) : Nat → State → Int → Nat → Got (List Piece)
  | 0, s, _, _ => .ok s []
  | fuel + 1, s, va, n =>
    if n = 0 then .ok s []
    else
      let k := if cSP o.b.cap then n else min n (4096 - (va % 4096).toNat)
      (matPlace g o u s va k).bind fun s1 l => (matPlaces g o u fuel s1 (va + k) (n - k)).bind fun s2 r => .ok s2 (l ++ r)

/-- The bytes at these places, once no store of the lines waits to drain. -/
def matRead (g : Grp) (s : State) (ps : List Piece) : Got (List Byte) :=
  match blocked s g.uid false (ps.flatMap (pieceLines s)) with
  | some s1 => .wait s1
  | none => .ok s (ps.flatMap (View.bytes { s := s, g := g, r := s.ram, direct := true, got := [] }))

/-- The rows of scratchpad that a block's places touch, those of live mappings among them (R225): the offset of the part in the block and the place
of the row. -/
def matRows (s : State) : Nat → List Piece → List (Nat × Loc)
  | _, [] => []
  | o, p :: ps =>
    let here := match (resolve s.ram p.loc).sp with
      | .pad _ => (below (p.n / 128)).map fun k => (o + 128 * k, resolve s.ram { p.loc with a := p.loc.a + 128 * k })
      | _ => []
    here ++ matRows s (o + p.n) ps

/-- The span record that fails (R312). -/
def matSpan (s : State) (o : MatOp) (p : Int) (ps : List Piece) : Option TrapInfo :=
  let bad := (matRows s 0 ps).find? fun e => spanAt s.ram e.2 != (if e.1 < 4096 then o.span else 0)
  bad.map fun e =>
    let want : BitVec 3 := if e.1 < 4096 then o.span else 0
    { kind := kSwizzle, detail := 0, access := accEngine, addr := modPow (p + e.1) 64, cap := o.b.cap,
      w18 := BitVec.ofNat 32 (e.2.a / 128 * 128 % 2 ^ 21 + (spanAt s.ram e.2).toNat * 2 ^ 24 + want.toNat * 2 ^ 28) }

/-- The B block of step i (R311, R315). -/
def matBlock (g : Grp) (o : MatOp) (nb : Nat) (i : Nat) (s : State) : Got (Nat × List Byte) :=
  let p : Int := cAddr o.b.cap + uI o.off + i * sI o.inc
  if p % (max 128 (spanOf o.span)) != 0 then .fault s (capFault o.b.cap 13 p accEngine)
  else
    (matPlaces g o 4 6 s p (4096 + 256 * nb)).bind fun s1 ps =>
      match matSpan s1 o p ps with
      | some t => .fault s1 t
      | none => (matRead g s1 ps).bind fun s2 b => .ok s2 (p.toNat, b)

/-- The tile that MLDA reads, one row of values per lane (R321). -/
def matTileRows (g : Grp) (o : MatOp) (w : Nat) : Nat → Nat → State → Got (List (List Nat))
  | 0, _, s => .ok s []
  | n + 1, l, s =>
    let va : Int := cAddr o.b.cap + uI o.off + (l * o.rowStride.toNat : Nat)
    (matPlaces g o w 3 s va (128 * w)).bind fun s1 ps => (matRead g s1 ps).bind fun s2 b =>
      (matTileRows g o w n (l + 1) s2).bind fun s3 r => .ok s3 (((below 128).map fun j => leNat ((b.drop (w * j)).take w)) :: r)

/-- An element of MLDA widened. -/
def widen (t : Ty) (v : Nat) : Nat := match t with | .bf16 => (convFF fmtB16 fmt32 .rne false false false v).1 | .f16 => (convFF fmt16 fmt32 .rne false false false v).1 | _ => v

/-! The sequencer (R306, R316, R328). -/

/-- Context i of a core: the placed workgroups with matrix contexts whose run holds the core, in the order of their names. -/
def ctxAt (s : State) (core i : Nat) : Option (Wg × Nat) :=
  let ws := s.wgs.filter fun w => !w.ended && w.core0 ≤ core && core < w.core0 + w.perCore.length &&
    (match gangBy s w.gang with | some x => x.st = .placed | none => false) && (match lnchBy s w.launch with | some l => l.kd.accs | none => false)
  (ws[i]?).map fun w => (w, core - w.core0)

/-- The end of the running operation. -/
def matDone (c : MatCtx) : MatCtx := { c with run := none, step := 0 }

/-- A context after it starts an operation (R316): the operations that use neither the array nor memory take effect at once. -/
def matStart (c : MatCtx) (o : MatOp) : MatCtx :=
  match o.kind with
  | .zero => { c with bank := (below 128).foldl (fun b j => aset zeroRow b (o.tile + j) zeroRow) c.bank }
  | .scale st r => { c with scale := st, sreg := r }
  | .check rate tr clr => { c with rate := rate, trapOn := tr, count := if clr then 0 else c.count, col := if clr then 0 else c.col, colStep := if clr then 0 else c.colStep }
  | .load => { c with run := some o, step := 0 }
  | .steps =>
    let c1 := if o.reuse then c else { c with coll := none }
    if o.count = 0 then c1 else { c1 with run := some o, step := 0 }

/-- MATRIX_OPERATION_START (R306). -/
def execMatrixOperationStart (core ctx : Nat) (s : State) : Host.Outcome State Fault Refusal :=
  .next <| if s.power != .run then s else
    match ctxAt s core ctx with
    | none => s
    | some (w, pos) => modMat s w.uid pos fun c =>
        match c.run, c.queue with
        | none, o :: rest => matStart { c with queue := rest } o
        | _, _ => c

/-- A context stops at a failed check (R318). -/
def matStop (c : MatCtx) (t : TrapInfo) (step : Nat) : MatCtx :=
  { c with stopped := true, pending := some { missing := t.missing, kind := t.kind, detail := t.detail, access := t.access, home := t.home, addr := t.addr,
                                              cap := t.cap, w16 := BitVec.ofNat 32 step, w17 := t.w17, w18 := t.w18 } }

/-- The b copy of the running operation translated again where it is stale (R206, R315). -/
def matFresh (s : State) (g : Grp) (o : MatOp) : State × MatOp :=
  if o.b.stale then let r := xlateReg s g o.b.cap; (r.1, { o with b := r.2 }) else (s, o)

/-- Whether a context's next step is checked (R328). -/
def matChecked (c : MatCtx) : Bool := c.rate != 0 && c.stepCtr.toNat % c.rate = 0

/-- The replay check of a step that has just been performed (R328): the array and the check column compute the same function, so only a
hardware error, which is an input, makes their results differ (log 16). -/
def matCheck (s : State) (c : MatCtx) (i : Nat) : State × MatCtx × Bool :=
  let c1 := { c with stepCtr := c.stepCtr + 1 }
  if !matChecked c then (s, c1, false)
  else
    let c2 := { c1 with checkCtr := c.checkCtr + 1, damaged := false }
    if !c.damaged then (s, c2, false)
    else
      (lifeInc s 0, { c2 with count := if c.count = BitVec.allOnes 16 then c.count else c.count + 1, col := BitVec.ofNat 7 c.checkCtr.toNat,
                               colStep := BitVec.ofNat 16 i }, true)

/-- The stop of a step that would read a damaged A register, scale register or accumulator (R410). -/
def matSpoil (s : State) (g : Grp) (pos wg tile : Nat) (reads : List Nat) : Option TrapInfo :=
  let at_ (d : Damage) : Option Nat := match d with
    | .vreg u n _ x => if u = g.uid && reads.contains n then some x else none
    | .qreg w p n _ x => if w = wg && p = pos && tile ≤ n && n < tile + 128 then some x else none
    | _ => none
  (s.bad.findSome? at_).map fun d => { kind := kSpoiled, detail := d, access := accEngine }

/-- A tile written whole holds good values again (R410). -/
def mendTile (s : State) (wg pos tile : Nat) : State :=
  if s.bad.isEmpty then s
  else { s with bad := s.bad.filter fun d => match d with | .qreg w p n _ _ => !(w = wg && p = pos && tile ≤ n && n < tile + 128) | _ => true }

/-- One step of the running operation (R313, R315, R316). A read of a dead register sets POISONSEEN (R51). -/
def matStep (s0 : State) (g0 : Grp) (w : Wg) (pos : Nat) (o0 : MatOp) : State :=
  let g := matAgent g0 o0
  let (s, o) := matFresh s0 g o0
  let c := aget matNone w.ctxs pos
  let put (t : State) (f : MatCtx → MatCtx) : State := modMat (dropAns t o.uid) w.uid pos f
  let i := c.step
  let t := stepTy o.ty
  let on := scales c.scale t
  let held := runFromColl c o
  let reads : List Nat := if held then [] else (below 8).map (fun r => o.areg + i * o.stride + r) ++ if on then [c.sreg + i] else []
  match matSpoil s g0 pos w.uid o.tile reads with
  | some e => put s fun c => matStop { c with run := some o } e i
  | none =>
  match matBlock g o (if on then blocksOf t else 0) i s with
  | .wait s1 => s1
  | .fault s1 e => put s1 fun c => matStop { c with run := some o } e i
  | .ok s1' (p, img) =>
    let s1 := mendTile (if reads.any (vDead g0.g) then modGrp s1' g0.uid fun h => { h with g := h.g.stick stPOISON } else s1') w.uid pos o.tile
    let regs : List Row × Option Row := match held, c.coll with
      | true, some k => k.slices.getD i ([], none)
      | _, _ => ((below 8).map fun r => vGet g0.g (o.areg + i * o.stride + r), if on then some (vGet g0.g (c.sreg + i)) else none)
    -- slices held from steps without scales have no A scales: the spec states no value for them (log 79)
    let (d, s2) := if on && regs.2.isNone then draw s1 else (0, s1)
    let sreg : Row := match regs.2 with | some r => r | none => rowFn fun l => Config.freeWord (96 * d + l)
    let rows0 := stepTile t c.scale o.span p img regs.1 sreg fun j => aget zeroRow c.bank (o.tile + j)
    -- a hardware error leaves the checked column of the array with values that nothing states (log 79)
    let wrong : Bool := c.damaged && matChecked c
    let (e, s2) := if wrong then draw s2 else (0, s2)
    let rows := if wrong then rows0.set (c.checkCtr.toNat % 128) (rowFn fun l => Config.freeWord (96 * e + l)) else rows0
    let bank := (below 128).foldl (fun b j => aset zeroRow b (o.tile + j) (rows.getD j zeroRow)) c.bank
    let coll := if o.reuse && !held then
        some { ty := t, slices := (match c.coll with | some k => k.slices | none => []) ++ [regs] } else c.coll
    let (s3, c1, bad) := matCheck s2 { c with run := some o, bank := bank, coll := coll, step := i + 1 } i
    let c2 := if bad && c1.trapOn then
        matStop c1 { kind := kSdc, detail := 0, w17 := BitVec.ofNat 32 c1.col.toNat } i
      else if i + 1 ≥ o.count then matDone c1 else c1
    put s3 fun _ => c2

/-- MLDA (R321). -/
def matLoad (s0 : State) (g0 : Grp) (w : Wg) (pos : Nat) (o0 : MatOp) : State :=
  let g := matAgent g0 o0
  let (s, o) := matFresh s0 g o0
  let put (t : State) (f : MatCtx → MatCtx) : State := modMat (dropAns t o.uid) w.uid pos f
  let n := if o.ty = .bf16 || o.ty = .f16 then 2 else 4
  let base : Int := cAddr o.b.cap + uI o.off
  if base % 4 != 0 || o.rowStride.toNat % 4 != 0 then put s fun c => matStop { c with run := some o } (capFault o.b.cap 13 base accEngine) 0
  else match matTileRows g o n 96 0 s with
    | .wait s1 => s1
    | .fault s1 e => put s1 fun c => matStop { c with run := some o } e 0
    | .ok s1 vals => put (mendTile s1 w.uid pos o.tile) fun c => matDone { c with
        bank := (below 128).foldl (fun b j => aset zeroRow b (o.tile + j) (rowFn fun l => BitVec.ofNat 32 (widen o.ty ((vals.getD l []).getD j 0)))) c.bank }

/-- MATRIX_STEP: one step of the running operation of a context, or the read of MLDA. A resumed operation whose last step was
checked ends (R318). -/
def execMatrixStep (core ctx : Nat) (s : State) : Host.Outcome State Fault Refusal :=
  .next <| if s.power != .run then s else
    match ctxAt s core ctx with
    | none => s
    | some (w, pos) =>
      let c := aget matNone w.ctxs pos
      match c.stopped, c.run with
      | false, some o =>
        match grpOf s o.group with
        | none => s
        | some g =>
          if o.kind = .load then matLoad s g w pos o
          else if c.step ≥ o.count then modMat s w.uid pos matDone
          else matStep s g w pos o
      | _, _ => s

/-! The registers that SYSRD reads (R319, R329). -/

/-- MSTATE. -/
def matState (c : MatCtx) : Word :=
  BitVec.ofNat 32 (c.step % 2 ^ 16 + c.stopped.toNat * 2 ^ 16 + min 4 c.queue.length * 2 ^ 17 + collLen c % 32 * 2 ^ 20 + c.scale % 4 * 2 ^ 25)

/-- MCHKSTAT, bits 31..0 and 63..32. -/
def matChkLo (c : MatCtx) : Word := BitVec.ofNat 32 (c.rate % 512 + c.trapOn.toNat * 2 ^ 9 + c.count.toNat * 2 ^ 16)
def matChkHi (c : MatCtx) : Word := BitVec.ofNat 32 (c.col.toNat + c.colStep.toNat * 2 ^ 16)

end Sys2Proof.Machine
end

