-- ==== Sys2Proof/Machine/MemInstr.lean ====
section
/-! DEFINITION. Scalar memory instructions, translation registers, mappings and cache maintenance
(spec/07_memory_access.md R208, R220 to R230). -/

namespace Sys2Proof.Machine

/-! SLD, SST, SLDC, SSTC (R220, R221). -/

/-- A scalar load. -/
def sloadSpec : AccSpec := { need := [pLOAD], access := accRead }
/-- A scalar store. -/
def sstoreSpec : AccSpec := { need := [pSTORE], access := accWrite, use := .store }

/-- The access of SLD and SST: 4 bytes at c[ca].address + imm14, sign-extended as R37 gives. -/
def sAcc (x : Split) (ca : CReg) (imm : BitVec 14) : Acc :=
  { l := 0, x := cGet x ca, va := cAddr (cGet x ca) + imm.toInt, n := 4, b := none }

/-- The access of SLDC and SSTC. -/
def scAcc (x : Split) (ca : CReg) (sb : SReg) (f : BitVec 9) : Acc :=
  { l := 0, x := cGet x ca, va := scapAddr x ca sb f, n := 16, b := none }

/-- SLD (R220). -/
def execSld (sd : SReg) (ca : CReg) (imm : BitVec 14) (s : State) : Host.Outcome State Fault Refusal :=
  scalarStep s fun g x => scalarMem s g x sloadSpec (sAcc x ca imm) noPost fun s g m p ps =>
    .set (dropAns s g.uid) sd (BitVec.ofNat 32 ((viewOf s g m p.got).nat ps))

/-- SST (R220). -/
def execSst (sd : SReg) (ca : CReg) (imm : BitVec 14) (s : State) : Host.Outcome State Fault Refusal :=
  scalarStep s fun g x => scalarMem s g x sstoreSpec (sAcc x ca imm) noPost fun s g m p ps =>
    .ok (dropAns (emitBytes s g.uid m ps ((leBytes 4 (sGet x sd).toNat).drop p.done)) g.uid)

/-- SLDC (R221). -/
def execSldc (cd ca : CReg) (sb : SReg) (f : BitVec 9) (s : State) : Host.Outcome State Fault Refusal :=
  scalarStep s fun g x => scalarMem s g x { sloadSpec with cap16 := true } (scAcc x ca sb f) noPost fun s g m p ps =>
    let v := (viewOf s g m p.got).cap (cGet x ca) ps
    let s1 := dropAns (noteGran s g.uid m v) g.uid
    match grpOf s1 g.uid with
    | some h => .ok (setGrp s1 { h with g := h.g.modSplit x.idx fun y => cSet y cd v })
    | none => .again s1

/-- SSTC (R221). -/
def execSstc (cd ca : CReg) (sb : SReg) (f : BitVec 9) (s : State) : Host.Outcome State Fault Refusal :=
  scalarStep s fun g x =>
    let a := scAcc x ca sb f
    scalarMem s g x { sstoreSpec with cap16 := true } a (fun t ps => storeCapCheck t g a.x (cGet x cd) a.va ps) fun s g m _ ps =>
      .ok (dropAns (emitCap s g.uid m ps (cGet x cd)) g.uid)

/-! XLATE and XDROP (R208). -/

/-- Whether a lane word names b register n; a matrix word counts as naming every one. -/
def namesB (w : LaneWord) (n : Nat) : Bool :=
  let r := RawLane.ofWord w
  let o := r.op.toNat
  if o = 0x244 || o = 0x245 || ((o = 0x242 || o = 0x243) && r.mods.getLsbD 5) then false
  else if 0x240 ≤ o && o ≤ 0x24F then mfld r.mods.toNat 0 3 = n
  else 0x2C0 ≤ o && o ≤ 0x2C9

/-- Whether an enqueued lane instruction that names b register n has not issued. -/
def bBusy (g : Grp) (n : Nat) : Bool := g.g.laneQ.any fun b => (b.words.drop b.next).any fun w => namesB w n

/-- A group with a b register written. -/
def putB (s : State) (g : Grp) (n : Nat) (b : BReg) : State := setGrp s { g with g := { g.g with b := aset bNone g.g.b n b } }

/-- XLATE (R208). -/
def execXlate (b : BRegIx) (ca : CReg) (s : State) : Host.Outcome State Fault Refusal :=
  scalarStep s fun g x =>
    let c := cGet x ca
    let a : Int := cAddr c
    if bBusy g b.toNat then .again s
    else if !c.tag then .trap s (capFault c 1)
    else if cOtype c != 0 then .trap s (capFault c 2)
    else if a < capBase c || a > capTop c then .trap s (capFault c 4 a)
    else
      let (s1, r) := xlateReg s g c
      match grpOf s1 g.uid with
      | some h => .ok (putB s1 h b.toNat r)
      | none => .again s1

/-- XLATE.lim (R208). A stale register is translated again first (R207). -/
def execXlateLim (b : BRegIx) (sb : SReg) (s : State) : Host.Outcome State Fault Refusal :=
  scalarStep s fun g _ =>
    let (s1, g1) := freshB s g b.toNat
    let r := bGet g1.g b.toNat
    .set s1 sb (if r.cap.tag then r.limit else 0)

/-- XDROP (R208). -/
def execXdrop (b : BRegIx) (s : State) : Host.Outcome State Fault Refusal :=
  scalarStep s fun g _ => if bBusy g b.toNat then .again s else .ok (putB s g b.toNat bNone)

/-- XDROP.all (R208). -/
def execXdropAll (s : State) : Host.Outcome State Fault Refusal :=
  scalarStep s fun g _ => if (below 8).any (bBusy g) then .again s else .ok (setGrp s { g with g := { g.g with b := [] } })

/-! MAP and UNMAP (R224 to R226). -/

/-- The device-memory pieces of a range of a group, or none when some page cannot be mapped (check 4 of R224). -/
def mapPieces (s : State) (g : Grp) (c : Cap) (va : Nat) : Nat → Nat → Got (Option (List (Nat × Nat)))
  | 0, _ => .ok s (some [])
  | fuel + 1, n =>
    if n = 0 then .ok s (some [])
    else
      let k := min n (4096 - va % 4096)
      match target s (agtOf s g) c va accMap 0 (fun _ => none) with
      | .wait s1 => .wait s1
      | .ok s1 (.here l (some f)) =>
        if l.sp != .hbm || f.uc then .ok s1 none
        else (mapPieces s1 g c (va + k) fuel (n - k)).bind fun s2 r => .ok s2 (r.map fun r => (l.a, k) :: r)
      | .ok s1 _ | .fault s1 _ => .ok s1 none

/-- Mapping entries of consecutive rows. -/
def mapEnts (wg slot : Nat) : Nat → List (Nat × Nat) → List MapEnt
  | _, [] => []
  | off, (pa, n) :: l => { wg := wg, slot := slot, pa := pa, off := off, len := n } :: mapEnts wg slot (off + n) l

/-- MAP (R224). -/
def execMap (cd ca : CReg) (sb : SReg) (slot : BitVec 3) (s : State) : Host.Outcome State Fault Refusal :=
  scalarStep s fun g x => irrevocable s g x fun s g x =>
    let c := cGet x ca
    let p := cGet x cd
    let len := (sGet x sb).toNat
    let scope (s : State) (d : Nat) : Fin := .trap s { kind := kScope, detail := d, access := accMap, cap := c, addr := cAddr c }
    let mine : Bool := isAperture (cAddr c) && nbits (cAddr c) 47 9 = s.fab.node.toNat
    match checkUse c [pMAP, pLOAD, pSTORE] (cAddr c) len accMap false (some false) (gangPad s g.gang) with
    | .error t => .trap s t
    | .ok () =>
      if mine && apertureMarked s (pcidOf s g.launch) c then .trap s { capFault c 7 (cAddr c) accMap with home := true }
      else match checkUse p [pLOAD, pSTORE] (cAddr p) len accMap false (some true) (gangPad s g.gang) with
      | .error t => .trap s t
      | .ok () =>
        if cAddr p / 2 ^ 21 % 16 != wgIndex s g then .trap s (capFault p 4 (cAddr p) accMap)
        else if cAddr c % 128 != 0 || cAddr p % 128 != 0 || len % 128 != 0 || len < 128 || len > 262144 then scope s 3
        else
          match mapPieces s g c (cAddr c) 66 len with
          | .wait s1 => .again s1
          | .fault s1 t => .trap s1 t
          | .ok s1 none => scope s1 3
          | .ok s1 (some ps) =>
            let other := s1.ram.maps.filter fun m => !(m.wg = g.wg && m.slot = slot.toNat)
            if ps.any fun q => other.any fun m => q.1 < m.pa + m.len && m.pa < q.1 + q.2 then scope s1 4
            else
              let s2 := unmapSlot s1 g.wg slot.toNat
              let es := mapEnts g.wg slot.toNat (cAddr p % 2 ^ 21) ps
              let s3 := es.foldl mapOne s2
              .ok (es.foldl (fun t m => (subsOf t.ram (hbmLoc m.pa) m.len).foldl (fun u k => grantOwn u (g.core + 1) (4096 * k)) t) s3)

/-- UNMAP (R226). -/
def execUnmap (slot : BitVec 3) (s : State) : Host.Outcome State Fault Refusal :=
  scalarStep s fun g x => irrevocable s g x fun s g _ => .ok (if g.task then s else unmapSlot s g.wg slot.toNat)

/-- UNMAP.all (R226). -/
def execUnmapAll (s : State) : Host.Outcome State Fault Refusal :=
  scalarStep s fun g x => irrevocable s g x fun s g _ => .ok (if g.task then s else unmapWg s g.wg)

/-! Cache maintenance (R228 to R230). -/

/-- The lines that a piece touches: local lines by place, another node's by offset, each with the first byte of the line that the piece
covers and how many. -/
def tgtParts (p : Tgt × Nat) : List (Loc × Nat × Nat) :=
  let l : Loc := match p.1 with | .here l _ => l | .there node off => { sp := .remote node, a := off }
  if p.2 = 0 then []
  else (upto (l.a / 128) ((l.a + p.2 - 1) / 128 + 1 - l.a / 128)).map fun k =>
    let lo := max l.a (128 * k)
    ({ l with a := 128 * k }, lo - 128 * k, min (l.a + p.2) (128 * k + 128) - lo)

/-- The lines themselves. -/
def tgtLines (p : Tgt × Nat) : List Loc := (tgtParts p).map (·.1)

/-- The access kind of a check. -/
def chkAccess : ChkKind → Nat
  | .read => accRead
  | .write | .storeCap _ _ => accWrite
  | .fetch => accFetch
  | .atomic => accAtomic

/-- The checked and translated range of a cache instruction, as its pieces by page. A length of 0 does nothing. -/
def cacheRange (s : State) (g : Grp) (c : Cap) (len : Nat) (need : List Nat) (kind : ChkKind)
    (k : State → List (Tgt × Nat) → Fin) : Fin :=
  if len = 0 then .ok s
  else match checkUse c need (cAddr c) len (chkAccess kind) false (some false) (fun _ => none) with
    | .error t => .trap s t
    | .ok () =>
      let far (p : Tgt × Nat) : Bool := match p.1 with | .there _ _ => true | .here _ _ => false
      match (pagesOf s (agtOf s g) c (cAddr c) (chkAccess kind) (len / 4096 + 2) len).bind fun s1 ps =>
          (piecesCheck s1 { cap := c, stated := 0 } (agtOf s g) (chkAccess kind) kind (ps.filter far)).bind fun s2 _ => .ok s2 ps with
      | .wait s1 => .again s1
      | .fault s1 t => .trap (dropAns s1 g.uid) { t with cap := c }
      | .ok s1 ps => k s1 ps

/-- Drops guest lines (R228). -/
def dropGuest (s : State) (ls : List Loc) : State :=
  { s with fab := { s.fab with guest := s.fab.guest.filter fun x => !ls.contains { sp := .remote x.node, a := x.line } } }

/-- CFLUSH (R228). -/
def execCflush (ca : CReg) (sb : SReg) (inv : Bool) (s : State) : Host.Outcome State Fault Refusal :=
  scalarStep s fun g x => cacheRange s g (cGet x ca) (sGet x sb).toNat [pLOAD] .read fun s1 ps =>
    let ls := ps.flatMap tgtLines
    let s2 := dropAns s1 g.uid
    .ok (if inv then dropGuest (markClean s2 ls) ls else markClean s2 ls)

/-- Code words of a context that every code cache of the node drops (R67, R228). -/
def dropCode (s : State) (pcid lo hi : Nat) : State :=
  { s with codeCache := s.codeCache.filter fun e => !(e.1 / 2 ^ 58 % 2 ^ 16 = pcid && lo ≤ e.1 % 2 ^ 58 && e.1 % 2 ^ 58 < hi) }

/-- CINV (R228, R67). -/
def execCinv (ca : CReg) (sb : SReg) (s : State) : Host.Outcome State Fault Refusal :=
  scalarStep s fun g x =>
    let c := cGet x ca
    let ld := cHas c pLOAD
    cacheRange s g c (sGet x sb).toNat [if ld then pLOAD else pEXEC] (if ld then .read else .fetch) fun s1 _ =>
      .ok (dropCode (dropAns s1 g.uid) (pcidOf s1 g.launch) (cAddr c / 128 * 128) ((cAddr c + (sGet x sb).toNat + 127) / 128 * 128))

/-- One line takes the contents that its home's memory still holds: the present ones, or, where a copy is dirty, any that
have not been written back since (R229; log 19). Its tags pass the load barrier while an epoch runs (R194). -/
def discardLine (s : State) (by_ pcid : Nat) (l : Loc) : State :=
  match dirtyKey l with
  | none => s
  | some key =>
    let old := aget [] s.dirty key
    let (d, s1) := if old.isEmpty then (0, s) else draw s
    let imgs := lineImg s1.ram l :: old
    let img := imgs.getD ((Config.freeWord d).toNat % imgs.length) default
    let pick := if old.isEmpty then lineImg s1.ram l else img
    let s2 := putMem s1 by_ l 0 pick.data
    let at_ (k : Nat) : Loc := { l with a := l.a + 16 * k }
    let tag (r : Ram) (k : Nat) : Bool := (epochBar s2 pcid { ramReadCap r (at_ k) with tag := pick.tags.getD k false }).tag
    markClean { s2 with ram := (below 8).foldl (fun r k => putTag r (resolve r (at_ k)) (tag r k)) s2.ram } [l]

/-- The runs of lines at other nodes: node, first offset, bytes. -/
def lineRuns : List Loc → List (Nat × Nat × Nat)
  | [] => []
  | l :: ls => match l.sp, lineRuns ls with
    | .remote n, (m, o, k) :: r => if m = n && o = l.a + 128 then (n, l.a, k + 128) :: r else (n, l.a, 128) :: (m, o, k) :: r
    | .remote n, [] => [(n, l.a, 128)]
    | _, r => r

/-- CDISCARD (R229): one write event at each home. -/
def execCdiscard (ca : CReg) (sb : SReg) (s : State) : Host.Outcome State Fault Refusal :=
  scalarStep s fun g x => irrevocable s g x fun s g x =>
    let c := cGet x ca
    let len := (sGet x sb).toNat
    cacheRange s g c len [pSTORE] .write fun s1 ps =>
      -- only the lines that lie wholly inside the range
      let parts := ps.flatMap tgtParts
      let first : Nat := if cAddr c % 128 = 0 then 0 else 1
      let last : Nat := if (cAddr c + len) % 128 = 0 then 0 else 1
      let ls := (parts.map (·.1)).drop first
      let inside := ls.take (ls.length - last)
      let here := inside.filter fun l => match l.sp with | .remote _ => false | _ => true
      let pc := pcidOf s1 g.launch
      match blocked s1 g.uid true (here.flatMap fun l => linesOf s1.ram l 128) with
      | some s2 => .again s2
      | none =>
        let r := (lineRuns inside).foldl (fun (r : Got Unit) q => r.bind fun t _ =>
          match ask t { cap := c, stated := 0 } g.uid pc q.1 q.2.1 (.discard q.2.2) with
          | (t1, none) => .wait t1
          | (t1, some (.fault k d m)) => .fault t1 (ansFault k d m accWrite (2 ^ 56 + q.1 * 2 ^ 47 + q.2.1))
          | (t1, some _) => .ok t1 ()) (.ok s1 ())
        match r with
        | .wait s2 => .again s2
        | .fault s2 t => .trap (dropAns s2 g.uid) { t with cap := c }
        | .ok s2 () => .ok (here.foldl (fun t l => discardLine t g.uid pc l) (dropGuest (dropAns s2 g.uid) inside))

/-- The L2 slice of a line on any die (R24). -/
def sliceOf (l : Loc) : Nat :=
  let a := l.a % 2 ^ 38
  16 * (nbits a 8 2 ^^^ nbits a 22 2) + (nbits a 10 4 ^^^ nbits a 24 4)

/-- A pin, when the slice holds fewer than 512 KiB of pinned lines (R230). -/
def pinLine (s : State) (pcid die : Nat) (l : Loc) : State :=
  let on := (s.pins.filter fun p => p.die = die && sliceOf p.line = sliceOf l).map (·.line)
  if s.pins.any fun p => p.pcid = pcid && p.die = die && p.line = l then s
  else if on.contains l || on.eraseDups.length < 4096 then { s with pins := s.pins ++ [{ pcid := pcid, die := die, line := l }] }
  else s

/-- The lines of another node that are to be present: each is asked for under the authorisation of the range. -/
def fillParts (s : State) (g : Grp) (c : Cap) : List (Loc × Nat × Nat) → Got Unit
  | [] => .ok s ()
  | (l, lo, n) :: ls => match l.sp with
    | .remote node =>
      let au : Auth := { cap := c, stated := 0 }
      if allowed (guestAt s (pcidOf s g.launch) node l.a) au then fillParts s g c ls
      else match ask s au g.uid (pcidOf s g.launch) node l.a (.fill lo n) with
        | (t, none) => .wait t
        | (t, some (.fault k d m)) => .fault t (ansFault k d m accRead (2 ^ 56 + node * 2 ^ 47 + l.a + lo))
        | (t, some _) => fillParts t g c ls
    | _ => fillParts s g c ls

/-- CPIN (R230). -/
def execCpin (ca : CReg) (sb : SReg) (s : State) : Host.Outcome State Fault Refusal :=
  scalarStep s fun g x => cacheRange s g (cGet x ca) (sGet x sb).toNat [pLOAD] .read fun s1 ps =>
    let pc := pcidOf s1 g.launch
    match fillParts s1 g (cGet x ca) (ps.flatMap tgtParts) with
    | .wait s2 => .again s2
    | .fault s2 t => .trap (dropAns s2 g.uid) { t with cap := cGet x ca }
    | .ok s2 () =>
      let ls := ps.flatMap tgtLines
      let s3 := ls.foldl (fun t l => pinLine t pc (g.core / 72) l) (dropAns s2 g.uid)
      let n := (ls.filter fun l => s3.pins.any fun p => p.pcid = pc && p.line = l).length
      .set s3 sb (BitVec.ofNat 32 (128 * n))

/-- CUNPIN (R230). -/
def execCunpin (ca : CReg) (sb : SReg) (s : State) : Host.Outcome State Fault Refusal :=
  scalarStep s fun g x => cacheRange s g (cGet x ca) (sGet x sb).toNat [pLOAD] .read fun s1 ps =>
    let ls := ps.flatMap tgtLines
    .ok { dropAns s1 g.uid with pins := s1.pins.filter fun p => !(p.pcid = pcidOf s1 g.launch && ls.contains p.line) }

/-- The name under which prefetches ask for lines. -/
def prefName : Nat := 91

/-- One page of a prefetch of an instruction: a walk that is not pending joins the scheduler; lines of another node are asked for
(R210, R228). -/
def prefPage (s : State) (g : Grp) (c : Cap) (inst va n : Nat) : State :=
  let pc := pcidOf s g.launch
  let die := g.core / 72
  match checkUse c [] va 1 accNone false (some false) (fun _ => none) with
  | .error _ => s
  | .ok () =>
    if va / 2 ^ 57 != 0 then s
    else if va / 2 ^ 56 = 1 then
      let node := nbits va 47 9
      if node = s.fab.node.toNat then s
      else (tgtParts (.there node (va % 2 ^ 47), n)).foldl (fun t p =>
        if (guestAt t pc node p.1.a).isSome then t else (ask t { cap := c, stated := 0 } prefName pc node p.1.a (.fill p.2.1 p.2.2)).1) s
    else if (tlbFind s pc false va).isSome || (s.walks.any fun w => w.pcid = pc && w.va = va / 4096)
      || (s.walks.filter fun w => w.die = die).length ≥ 64 then s
    else { s with walks := s.walks ++ [{ die := die, pcid := pc, va := va / 4096, inst := inst, starved := false }] }

/-- PREF (R228): it never faults, and covers the first 4 MiB. -/
def execPref (ca : CReg) (sb : SReg) (l1 : Bool) (s : State) : Host.Outcome State Fault Refusal :=
  scalarStep s fun g x =>
    let _ := l1
    let c := cGet x ca
    let len := (sGet x sb).toNat
    let lo := cAddr c / 128 * 128
    let n := min ((cAddr c + len + 127) / 128 * 128 - lo) (2 ^ 22)
    if len = 0 then .ok s
    else .ok ((upto (lo / 4096) ((lo + n - 1) / 4096 + 1 - lo / 4096)).foldl (fun t k =>
      let a := max (cAddr c) (4096 * k)
      prefPage t g c s.uid a (min (4096 * (k + 1)) (min (lo + n) (cAddr c + len)) - a)) { s with uid := s.uid + 1 })

/-! The walk scheduler (R210). -/

/-- Of walks in their order of arrival, the one of the instruction with the fewest of them, the oldest instruction among equals. -/
def fewestWalk (ws : List Walk) : Option Walk :=
  let n (w : Walk) : Nat := (ws.filter fun v => v.inst = w.inst).length
  ws.foldl (fun best w => match best with
    | none => some w
    | some b => if n w < n b || (n w = n b && w.inst < b.inst) then some w else best) none

/-- The walk that a die starts next: a starved one before any other, else as `fewestWalk` says (R210). -/
def nextWalk (s : State) (die : Nat) : Option Walk :=
  match s.walks.find? fun w => w.die = die && w.starved with
  | some w => some w
  | none => fewestWalk (s.walks.filter fun w => w.die = die)

/-- WALK_COMPLETE (R210): the walk of a page fills the TLBs; a page that does not translate leaves them. The miss of an access walks
within its access (log 69). -/
def execWalkComplete (die : Nat) (s : State) : Host.Outcome State Fault Refusal :=
  .next <| match nextWalk s die with
    | none => s
    | some w =>
      let s1 := (leafFor s (ctxOf s w.pcid) w.pcid false (4096 * w.va)).1
      { s1 with walks := s1.walks.erase w }

/-- WALK_STARVATION_TIMEOUT (R210): a walk that has waited 4,096 c is started before any other. -/
def execWalkStarvationTimeout (die i : Nat) (s : State) : Host.Outcome State Fault Refusal :=
  .next <| match (s.walks.filter fun w => w.die = die)[i]? with
    | none => s
    | some w => { s with walks := s.walks.map fun v => if v = w then { v with starved := true } else v }

end Sys2Proof.Machine
end

