-- ==== Sys2Proof/Machine/System.lean ====
section
/-! DEFINITION. System registers, monitors, PCLEAR, SCRUB, ATTEST (spec/15_traps_contexts.md R418, R431 to R436;
spec/16_protection_links.md R445, R455, R457, R459, R465, R466, R468). -/

namespace Sys2Proof.Machine

/-! System registers (R431, R432). -/

/-- Whether a register number is assigned. -/
def sysAssigned (n : Nat) : Bool :=
  n ≤ 0x002 || (0x010 ≤ n && n ≤ 0x012) || n = 0x020 || (0x030 ≤ n && n ≤ 0x033) || (0x040 ≤ n && n ≤ 0x047)
  || (0x050 ≤ n && n ≤ 0x055) || (0x100 ≤ n && n ≤ 0x107) || (0x200 ≤ n && n ≤ 0x223)

/-- REVSTAT (R196). -/
def revStat (s : State) : Word :=
  BitVec.ofNat 32 (s.rev.sweepDone.toNat + s.rev.queued.toNat * 2 + s.rev.marked.toNat * 4 + (clearOk s).toNat * 8)

/-- The byte of a region that waits to be scrubbed (R439). -/
def scrubByte : Byte := 0x80

/-- SCRUBSTAT (R466). -/
def scrubStat (s : State) : Word :=
  BitVec.ofNat 32 (s.arm.scrub.active.toNat + (s.arm.domains.any fun e => e.2 = scrubByte).toNat * 2 + s.arm.scrub.resumed.toNat * 4)

/-- PSTATE (R468). -/
def pState (s : State) : Word := s.arm.cur.zeroExtend 32 ||| (s.arm.req.zeroExtend 32 <<< 2)

/-- The matrix context of the issuing workgroup on the issuing core; an idle one without one (R432). -/
def sysMat (s : State) (g : Grp) : MatCtx := if accsOf s g then matOf s g else matNone

/-- The value of an assigned register (R432). -/
def sysGet (s : State) (g : Grp) (n : Nat) : Word :=
  if n = 0 then revStat s
  else if n = 1 then s.rev.epoch
  else if n = 2 then s.rev.done
  else if n = 0x010 then matState (sysMat s g)
  else if n = 0x011 then matChkLo (sysMat s g)
  else if n = 0x012 then matChkHi (sysMat s g)
  else if n = 0x020 then s.chip.mcdrop
  else if n = 0x030 then s.chip.saveBase.extractLsb' 0 32
  else if n = 0x031 then s.chip.saveBase.extractLsb' 32 32
  else if n = 0x032 then s.chip.saveCount
  else if n = 0x033 then s.chip.pslack
  else if n < 0x048 then aget 0 g.watch (n - 0x040)
  else if n = 0x050 then scrubStat s
  else if n = 0x051 then BitVec.ofNat 32 s.arm.scrub.prog
  else if n = 0x052 then BitVec.ofNat 32 (s.arm.scrub.prog / 2 ^ 32)
  else if n = 0x053 then BitVec.ofNat 32 s.arm.scrub.total
  else if n = 0x054 then BitVec.ofNat 32 (s.arm.scrub.total / 2 ^ 32)
  else if n = 0x055 then pState s
  else if n < 0x108 then aget 0 s.arm.life (n - 0x100)
  else aget 0 s.fab.linkstat (n - 0x200)

/-- Progress of a scrub that is being served, as a read finds it: it rises line by line (R464, R466). -/
def scrubTick (s : State) : State :=
  let c := s.arm.scrub
  if !c.active then s
  else
    let (d, s1) := draw s
    let left := (c.total - c.prog) / 128
    { s1 with arm := { s1.arm with scrub := { c with prog := c.prog + 128 * ((Config.freeWord d).toNat % (left + 1)) } } }

/-- The register after a write under R5: the other registers discard it. -/
def sysPut (s : State) (g : Grp) (n : Nat) (v : Word) : State :=
  let c := s.chip
  let base (b : DWord) : State := if s.saveUsed.isEmpty then { s with chip := { c with saveBase := b } } else s
  if n = 0x020 then { s with chip := { c with mcdrop := v } }
  else if n = 0x030 then base (c.saveBase.extractLsb' 32 32 ++ (v &&& 0xFF800000))
  else if n = 0x031 then base (v ++ c.saveBase.extractLsb' 0 32)
  else if n = 0x032 then (if s.saveUsed.isEmpty then { s with chip := { c with saveCount := if v.toNat > 4096 then 4096 else v } } else s)
  else if n = 0x033 then { s with chip := { c with pslack := if v.toNat > 1000 then 1000 else v } }
  else if 0x040 ≤ n && n < 0x048 then
    modGrp s g.uid fun h => { h with watch := aset 0 h.watch (n - 0x040) (v &&& (if n % 2 = 0 then 0xFFFFFFC7 else 0x01FFFFFF)) }
  else s

/-- SYSRD (R431). -/
def execSysrd (sd : SReg) (n : BitVec 12) (s : State) : Host.Outcome State Fault Refusal :=
  scalarStep s fun g x =>
    if !sysAssigned n.toNat then illegal s 2
    else irrevocable s g x fun s g x =>
      let t := if n = 0x051 || n = 0x052 then scrubTick s else s
      let k := Fin.set t sd (sysGet t g n.toNat)
      if 0x030 ≤ n.toNat && n.toNat ≤ 0x033 then needSys s x k else k

/-- SYSWR (R431). -/
def execSyswr (sa : SReg) (n : BitVec 12) (s : State) : Host.Outcome State Fault Refusal :=
  scalarStep s fun g x =>
    if !sysAssigned n.toNat then illegal s 2
    else irrevocable s g x fun s g x =>
      let k := Fin.ok (sysPut s g n.toNat (sGet x sa))
      if 0x040 ≤ n.toNat && n.toNat ≤ 0x047 then k else needSys s x k

/-! Monitor units (R433 to R435). -/

/-- A unit after a reset. -/
def monNone : Monitor := { cfg := 0, samples := 0, least := BitVec.allOnes 32, most := 0, bins := [] }
def monOf (s : State) (u : Nat) : Monitor := aget monNone s.chip.monitors u
def setMon (s : State) (u : Nat) (m : Monitor) : State := { s with chip := { s.chip with monitors := aset monNone s.chip.monitors u m } }

/-- Fields of a configuration word. -/
def cfgSrc (w : Word) : Nat := nbits w.toNat 0 8
def cfgShift (w : Word) : Nat := nbits w.toNat 8 5
def cfgCore (w : Word) : Nat := nbits w.toNat 20 8

/-- Whether MONCFG refuses a word for a unit number. -/
def cfgBad (u w : Word) : Bool :=
  u.toNat > 127 || nbits w.toNat 13 3 != 0 || nbits w.toNat 28 4 != 0 || cfgSrc w = 0 || cfgSrc w > 14
  || (w.getLsbD 19 && cfgCore w > 143)

/-- MONCFG (R433). -/
def execMoncfg (sd sa sb : SReg) (s : State) : Host.Outcome State Fault Refusal :=
  scalarStep s fun g x => irrevocable s g x fun s _ x => needSys s x <|
    let u := sGet x sa
    let w := sGet x sb
    if cfgBad u w then .set s sd 0
    else .set (setMon s u.toNat { (if w.getLsbD 17 then monNone else monOf s u.toNat) with cfg := w }) sd 1

/-- The fields that MONRD reads. -/
def monField (m : Monitor) (f : Nat) : Word :=
  match f with | 0 => m.samples | 1 => m.least | 2 => m.most | 3 => m.cfg | _ => aget 0 m.bins (f - 4)

/-- MONRD (R433). -/
def execMonrd (sd sa : SReg) (f : BitVec 7) (s : State) : Host.Outcome State Fault Refusal :=
  scalarStep s fun g x => irrevocable s g x fun s _ x => needSys s x <|
    let u := (sGet x sa).toNat
    .set s sd (if u > 127 then 0 else monField (monOf s u) f.toNat)

/-- One sample taken by a unit (R433); the event of R435 is raised at most once per millisecond, which a draw decides. -/
def sampleUnit (s : State) (die u : Nat) (v : Word) : State :=
  let m := monOf s (64 * die + u)
  let bin := min 31 (v.toNat / 2 ^ cfgShift m.cfg)
  let s1 := setMon s (64 * die + u)
    { m with samples := satInc m.samples, least := if v < m.least then v else m.least, most := if m.most < v then v else m.most,
             bins := aset 0 m.bins bin (satInc (aget 0 m.bins bin)) }
  if bin = 31 && m.cfg.getLsbD 18 then
    let (d, s2) := draw s1
    if Config.freeBit d then raiseEvent s2 6 die u (leBytes 4 v.toNat) else s2
  else s1

/-- Whether a unit samples a source of its die for a core. -/
def samples (m : Monitor) (src core : Nat) : Bool :=
  m.cfg.getLsbD 16 && cfgSrc m.cfg = src && (!m.cfg.getLsbD 19 || cfgCore m.cfg = core)

/-- MONITOR_SAMPLE: a source of a die gives a sample (R434). -/
def execMonitorSample (die src core : Nat) (value : Word) (s : State) : Host.Outcome State Fault Refusal :=
  .next <|
    if die > 1 || src = 0 || src > 14 then s
    else ((below 64).filter fun u => samples (monOf s (64 * die + u)) src core).foldl (fun t u => sampleUnit t die u value) s

/-! PCLEAR (R459). -/

/-- PCLEAR. Its cluster stays closed until the sequence ends. -/
def execPclear (sd sa : SReg) (s : State) : Host.Outcome State Fault Refusal :=
  scalarStep s fun g x => irrevocable s g x fun s g x => needSys s x <|
    let cl := (sGet x sa).toNat
    if cl > 17 then .set s sd 4
    else if cl = g.core / 8 then .set s sd 2
    else if clusterBusy s cl then .set s sd 1
    else if aget 0 s.domains cl != 0 then .set s sd 3
    else if aget false s.clearing cl then .again s
    else .set (clearCluster s cl) sd 0

/-! SCRUB (R465). -/

/-- Whether a page is not device memory of this node. -/
def notHbm (p : Tgt × Nat) : Bool := match p.1 with | .here l _ => l.sp != .hbm | .there _ _ => true

/-- The next event of a scrub: one line, i bytes of n done (R231, R465). -/
def scrubLine (s : State) (g : Grp) (x : Split) (c : Cap) (sb : SReg) (i n : Nat) : Fin :=
  match target s (agtOf s g) c (cAddr c + i) accWrite 0 (fun _ => none) with
  | .wait s1 => .again s1
  | .fault s1 t => .trap (setPart s1 g.uid x.idx none) { t with cap := c }
  | .ok s1 (.there _ _) => .trap (setPart s1 g.uid x.idx none) { xlFault kScope 9 accWrite (cAddr c + i) false with cap := c }
  | .ok s1 (.here l _) => match blocked s1 g.uid true (linesOf s1.ram l 128) with
    | some s2 => .again s2
    | none =>
      let s2 := putMem s1 g.uid l 0 (List.replicate 128 0)
      if i + 128 < n then .again (setPart s2 g.uid x.idx (some { lane := 0, got := [], done := i + 128 }))
      else .set (setPart s2 g.uid x.idx none) sb (BitVec.ofNat 32 n)

/-- SCRUB: every check, and then one line after another, each an event in a turn of its own. -/
def execScrub (ca : CReg) (sb : SReg) (s : State) : Host.Outcome State Fault Refusal :=
  scalarStep s fun g x => irrevocable s g x fun s g x => needSys s x <|
    let c := cGet x ca
    let n := (sGet x sb).toNat
    match x.part with
    | some p => scrubLine s g x c sb p.done n
    | none =>
      match checkUse c [pSTORE] (cAddr c) n accWrite false (some false) (gangPad s g.gang) with
      | .error t => .trap s t
      | .ok () =>
        if cAddr c % 4096 != 0 || n % 4096 != 0 then .trap s (capFault c 13 (cAddr c) accWrite)
        else if s.arm.scrub.active then .again s
        else match pagesOf s (agtOf s g) c (cAddr c) accWrite (n / 4096 + 1) n with
          | .wait s1 => .again s1
          | .fault s1 t => .trap s1 { t with cap := c }
          | .ok s1 ps =>
            match ps.findIdx? notHbm with
            | some i => .trap s1 { xlFault kScope 9 accWrite (cAddr c + 4096 * i) false with cap := c }
            | none => if n = 0 then .set s1 sb 0 else scrubLine s1 g x c sb 0 n

/-! ATTEST (R455, R457). -/

/-- The bytes of a number of n bits, n a multiple of 8. -/
def bvBytes {n : Nat} (v : BitVec n) : List Byte := leBytes (n / 8) v.toNat

/-- The first 576 bytes of a quote (R455). -/
def quoteBody (s : State) (pcid : Nat) (nonce user : List Byte) : List Byte :=
  let c := ctxOf s pcid
  let k := slotOf s c.key
  let flags := c.prot.toNat + (c.prot && !k.taint.isEmpty).toNat * 2 + s.arm.unlocked.toNat * 4
  leBytes 4 1 ++ bvBytes s.fab.incarn ++ bvBytes Config.serial ++ leBytes 2 pcid ++ leBytes 1 c.key ++ leBytes 1 flags
    ++ List.replicate 12 0 ++ (nonce ++ List.replicate 48 0).take 48 ++ (user ++ List.replicate 64 0).take 64
    ++ (if c.prot then bvBytes k.mc else List.replicate 48 0) ++ (s.arm.meas.flatMap bvBytes ++ List.replicate 384 0).take 384

/-- A quote (R455). -/
def quoteBytes (s : State) (pcid : Nat) (nonce user : List Byte) : List Byte :=
  let b := quoteBody s pcid nonce user
  b ++ bvBytes (Config.quoteSig s.fab.incarn b)

/-- The checks of ATTEST in their order. -/
def attestCheck (s : State) (g : Grp) (x : Split) (cd ca : CReg) : Option TrapInfo :=
  match checkUse (cGet x ca) [pLOAD] (cAddr (cGet x ca)) 112 accRead false none (gangPad s g.gang) with
  | .error t => some t
  | .ok () => match checkUse (cGet x cd) [pSTORE] (cAddr (cGet x cd)) 672 accWrite false none (gangPad s g.gang) with
    | .error t => some t
    | .ok () => if cAddr (cGet x cd) % 16 != 0 then some (capFault (cGet x cd) 13 (cAddr (cGet x cd)) accWrite) else none

/-- The next 4-byte event of an ATTEST that Armoire has answered (R231, R457): the reads in address order, then the writes of the quote that is
formed once every read is done. -/
def attestUnit (s : State) (g : Grp) (x : Split) (cd ca : CReg) (sb : SReg) (p : Part) : Fin :=
  let src := cGet x ca
  let dst := cGet x cd
  let keep (t : State) (q : Option Part) : State := dropAns (setPart t g.uid x.idx q) g.uid
  let load : Bool := p.done < 112
  let r : Got (List Piece) :=
    if load then resolveAcc s g { need := [pLOAD], access := accRead, use := .loadDirect } { l := 0, x := src, va := cAddr src + p.done, n := 4, b := none }
    else resolveAcc s g { need := [pSTORE], access := accWrite, use := .store } { l := 0, x := dst, va := cAddr dst + (p.done - 112), n := 4, b := none }
  match r with
  | .wait s1 => .again s1
  | .fault s1 t => .trap (keep s1 none) t
  | .ok s1 ps => match blocked s1 g.uid (!load) (ps.flatMap (pieceLines s1)) with
    | some s2 => .again s2
    | none =>
      if load then
        let got := p.got ++ unitRead s1 g false ps
        let b := got.flatMap (·.2.1)
        let all := if p.done + 4 < 112 then got else [(hbmLoc 0, quoteBytes s1 (pcidOf s1 g.launch) (b.take 48) (b.drop 48), false)]
        .again (keep s1 (some { p with got := all, done := p.done + 4 }))
      else
        let q := p.got.flatMap (·.2.1)
        let s2 := emitBytes s1 g.uid .direct ps ((q.drop (p.done - 112)).take 4)
        if p.done + 4 < 784 then .again (keep s2 (some { p with done := p.done + 4 })) else .set (keep s2 none) sb 0

/-- ATTEST (R457): the split waits for Armoire's answer, and performs its events after it. -/
def execAttest (cd ca : CReg) (sb : SReg) (s : State) : Host.Outcome State Fault Refusal :=
  scalarStep s fun g x => irrevocable s g x fun s g x =>
    match x.part with
    | some p => attestUnit s g x cd ca sb p
    | none => match attestCheck s g x cd ca with
      | some t => .trap s t
      | none => .gone (modGrp s g.uid fun h => { h with g := h.g.modSplit x.idx fun y => { y with st := .attest cd ca sb } })

/-- ATTEST_ANSWER: Armoire answers the ATTEST of a slot (R457). -/
def execAttestAnswer (core slot : Nat) (s : State) : Host.Outcome State Fault Refusal :=
  .next <|
    match grpAt s core slot with
    | none => s
    | some g =>
      let f (x : Split) : Split := match x.st with
        | .attest _ _ _ => { x with st := .ready, part := some { lane := 0, got := [], done := 0 } }
        | _ => x
      setGrp s { g with g := { g.g with splits := g.g.splits.map f } }

end Sys2Proof.Machine
end

