-- ==== Sys2Proof/Machine/Contexts.lean ====
section
/-! DEFINITION. Protected contexts: their creation, loading, sealing and end, page-out and page-in, and the scrub
(spec/16_protection_links.md R438, R439, R451 to R454, R458, R460 to R464). -/

namespace Sys2Proof.Machine

/-! Requests of the DOE mailbox (R451). -/

/-- The statuses of a response. -/
def doeDone : Nat := 0
def doeBusy : Nat := 1
def doeMalformed : Nat := 2
def doeRefused : Nat := 3

/-- A response. -/
def respond (s : State) (code status : Nat) (b : List Byte) : State := { s with outbox := s.outbox ++ [.doe code status b] }

/-- A slot whose CTXDESTROY has not been answered: Armoire serves it until then (R451, R463). -/
def destroying (s : State) : Option Nat := (s.arm.slots.find? fun e => e.2.st = .destroying).map (·.1)

/-- A request: busy while another is served, else what `f` gives: the state, the status and the results. -/
def doe (s : State) (code : Nat) (f : State × Nat × List Byte) : Host.Outcome State Fault Refusal :=
  .next (if (destroying s).isSome then respond s code doeBusy [] else respond f.1 code f.2.1 f.2.2)

/-- A request that changes nothing. -/
def refuse (s : State) (status : Nat) : State × Nat × List Byte := (s, status, [])
/-- A request done, with no results. -/
def served (s : State) : State × Nat × List Byte := (s, doeDone, [])

/-! Slots. -/

/-- A free slot. -/
def slotNone : KeySlot := { st := .free, pcid := 0, dom := 0, mask := 0, key := 0, mc := 0, taint := [], vers := [], ctr := 0, pool := [] }
def setSlot (s : State) (k : Nat) (x : KeySlot) : State := { s with arm := { s.arm with slots := aset slotNone s.arm.slots k x } }

/-- Whether a number names a bound slot. -/
def slotBound (s : State) (k : Nat) : Bool := 1 ≤ k && k ≤ 63 && (slotOf s k).st != .free

/-- A measurement extended: M ← SHA-384(M ‖ x) (R454). -/
def extend (m : BitVec 384) (x : List Byte) : BitVec 384 := Config.sha384 (bvBytes m ++ x)

/-- CTXCREATE (R453, R454, R462): the lowest free slot, with a fresh key and its measurement. -/
def ctxCreate (s : State) (pcid : BitVec 16) (mask : BitVec 18) (dom : BitVec 16) : State × Nat × List Byte :=
  if dom = 0 then refuse s doeMalformed
  else if !(s.arm.ideCache && s.arm.ideMem) || (s.arm.slots.any fun e => e.2.st != .free && e.2.pcid = pcid) then refuse s doeRefused
  else match (upto 1 63).find? fun k => (slotOf s k).st = .free with
    | none => refuse s doeRefused
    | some k =>
      let (d, s1) := draw s
      let mc := Config.sha384 (List.replicate 48 0 ++ bvBytes pcid ++ leBytes 4 mask.toNat ++ bvBytes dom)
      (setSlot s1 k { slotNone with st := .loading, pcid := pcid, dom := dom, mask := mask, key := d, mc := mc }, doeDone, leBytes 4 k)

/-- CTXCREATE. -/
def execCtxcreate (pcid : BitVec 16) (mask : BitVec 18) (dom : BitVec 16) (s : State) : Host.Outcome State Fault Refusal :=
  doe s 0x02 (ctxCreate s pcid mask dom)

/-! Regions of 2 MiB, numbered by device physical address (R439). -/

def regionSize : Nat := 2 ^ 21
def regionBase (r : Nat) : Nat := r * regionSize
/-- The regions of a die's 254 GiB. -/
def dieRegions : Nat := carveOut / regionSize
def dieRegion (die i : Nat) : Nat := die * 2 ^ 17 + i
def regionDomain (s : State) (r : Nat) : Byte := aget 0 s.arm.domains r
def setRegion (s : State) (r : Nat) (b : Byte) : State := { s with arm := { s.arm with domains := aset 0 s.arm.domains r b } }

/-- A sparse map without the keys of a range. -/
def cutRange {α : Type} (l : AList α) (lo n : Nat) : AList α := l.filter fun e => e.1 < lo || lo + n ≤ e.1

/-- A sparse map whose range takes other entries, which lie in it. -/
def putRange {α : Type} (l : AList α) (lo n : Nat) (new : AList α) : AList α :=
  let below_ : AList α := l.filter fun e => e.1 < lo
  let above : AList α := l.filter fun e => lo + n ≤ e.1
  below_ ++ new ++ above

/-- The sub-pages of a region whose contents are not all 0, and those of a region that a change of contents touches. -/
def usedSubs (m : Memory) (t : AList Bool) (r : Nat) : List Nat :=
  let a := regionBase r
  let ms : List Nat := (m.filter fun e => a ≤ e.1 && e.1 < a + regionSize).map fun e => e.1 / 4096
  let ts : List Nat := (t.filter fun e => a ≤ 16 * e.1 && 16 * e.1 < a + regionSize).map fun e => e.1 / 256
  (ms ++ ts).eraseDups

/-- The rows of live mappings within a region are written back to it, since Armoire writes the region's memory. -/
def unmapRegion (s : State) (r : Nat) : State :=
  (s.ram.maps.filter fun m => m.pa < regionBase (r + 1) && regionBase r < m.pa + m.len).foldl unmapOne s

/-- A region takes contents and tags: one write event of Armoire, with versions, conflicts and copies. -/
def fillRegion (s0 : State) (r : Nat) (data : Memory) (tags : AList Bool) : State :=
  let s := unmapRegion s0 r
  let a := regionBase r
  let hbm := putRange s.ram.hbm a regionSize data
  let tg := putRange s.ram.tags (a / 16) (regionSize / 16) tags
  let subs := (usedSubs s.ram.hbm s.ram.tags r ++ usedSubs hbm tg r).eraseDups
  let vers := subs.foldl (fun v k => aset 0 v k (aget 0 v k + 1)) s.ram.vers
  hitReads (wrapBumps { s with ram := { s.ram with hbm := hbm, tags := tg, vers := vers },
                               dirty := cutRange s.dirty (a / 128) (regionSize / 128) } subs)
    fun l => l.sp = .hbm && l.a / regionSize = r

/-- A region set to 0 with tags 0. -/
def zeroRegion (s : State) (r : Nat) : State := fillRegion s r [] []

/-- CTXASSIGN (R453): the regions take the slot's domain, zeroed. -/
def ctxAssign (s : State) (slot die first count : Nat) : State × Nat × List Byte :=
  let rs := (upto first count).map (dieRegion die)
  if die > 1 || first + count > dieRegions then refuse s doeMalformed
  else if !slotBound s slot || rs.any fun r => regionDomain s r != 0 then refuse s doeRefused
  else served (rs.foldl (fun t r => setRegion (zeroRegion t r) r (BitVec.ofNat 8 slot)) s)

/-- CTXASSIGN. -/
def execCtxassign (slot die first count : Nat) (s : State) : Host.Outcome State Fault Refusal :=
  doe s 0x03 (ctxAssign s slot die first count)

/-- The bytes of a region moved to the addresses of another. -/
def moveData (m : Memory) (src dst : Nat) : Memory :=
  (m.filter fun e => regionBase src ≤ e.1 && e.1 < regionBase (src + 1)).map fun e => (e.1 - regionBase src + regionBase dst, e.2)

/-- CTXLOAD (R453, R454): 2 MiB from a region of domain 0 into one of the slot's regions, with tags 0. -/
def ctxLoad (s : State) (slot src dst : Nat) (va : DWord) : State × Nat × List Byte :=
  if !isHbm (regionBase src) || !isHbm (regionBase dst) then refuse s doeMalformed
  else if !slotBound s slot || (slotOf s slot).st != .loading || regionDomain s src != 0
    || (regionDomain s dst).toNat != slot then refuse s doeRefused
  else
    let data := ramRead s.ram (hbmLoc (regionBase src)) regionSize
    let s1 := unmapRegion s src
    let s2 := fillRegion s1 dst (moveData s1.ram.hbm src dst) []
    let k := slotOf s slot
    served (setSlot s2 slot { k with mc := extend k.mc (bvBytes va ++ bvBytes (Config.sha384 data)) })

/-- CTXLOAD. -/
def execCtxload (slot src dst : Nat) (va : DWord) (s : State) : Host.Outcome State Fault Refusal :=
  doe s 0x04 (ctxLoad s slot src dst va)

/-- CTXSEAL (R453, R454, R462). -/
def ctxSeal (s : State) (slot : Nat) : State × Nat × List Byte :=
  let k := slotOf s slot
  if !slotBound s slot || k.st != .loading then refuse s doeRefused
  else served (setSlot s slot { k with st := .sealed, mc := extend k.mc (List.replicate 48 0xFF) })

/-- CTXSEAL. -/
def execCtxseal (slot : Nat) (s : State) : Host.Outcome State Fault Refusal := doe s 0x05 (ctxSeal s slot)

/-! The scrub (R463, R464). -/

/-- Regions in ascending order, each once. -/
def insertRegion (r : Nat) : List Nat → List Nat
  | [] => [r]
  | x :: l => if r < x then r :: x :: l else if r = x then x :: l else x :: insertRegion r l

/-- Regions become scrub-pending and join the scrub record, which the engine serves. -/
def scrubAdd (s : State) (rs : List Nat) : State :=
  let c := s.arm.scrub
  let all := rs.foldl (fun l r => insertRegion r l) (if c.active then c.regions else [])
  let s1 := rs.foldl (fun t r => setRegion t r scrubByte) s
  if rs.isEmpty then s
  else { s1 with arm := { s1.arm with scrub :=
    { regions := all, active := true, resumed := c.active && c.resumed, prog := if c.active then c.prog else 0,
      total := all.length * regionSize } } }

/-- SCRUB_RECORD_COMPLETE (R464): every region of the record has been zeroed; all take domain 0, and the record is deleted. -/
def execScrubRecordComplete (s : State) : Host.Outcome State Fault Refusal :=
  .next <|
    let c := s.arm.scrub
    if !c.active then s
    else
      let s1 := c.regions.foldl (fun t r => setRegion (zeroRegion t r) r 0) s
      { s1 with arm := { s1.arm with scrub := { regions := [], active := false, resumed := false, prog := c.total, total := c.total } } }

/-! Page-out and page-in (R460, R461). -/

/-- The bytes of the sealed data: a region and its tags. -/
def tagBytes : Nat := regionSize / 128
def blobSize : Nat := regionSize + tagBytes

/-- A list cut or filled with zeros to n bytes. -/
def padTo (n : Nat) (b : List Byte) : List Byte := (b ++ List.replicate n 0).take n

/-- The tags of a region, one bit for each granule, the lowest first. -/
def regionTags (s : State) (r : Nat) : List Byte :=
  (below tagBytes).map fun i => BitVec.ofNat 8 ((below 8).foldl (fun n j =>
    n + (aget false s.ram.tags (regionBase r / 16 + 8 * i + j)).toNat * 2 ^ j) 0)

/-- The associated data: v, PCID and n. -/
def pageAad (va : DWord) (pcid : BitVec 16) (n : Nat) : List Byte := bvBytes va ++ bvBytes pcid ++ leBytes 8 n

/-- The sealed data of a page and its trailer. -/
def pageBlob (k : KeySlot) (slot : Nat) (va : DWord) (n : Nat) (plain : List Byte) : List Byte :=
  let c := padTo blobSize (Config.gcmSeal k.key n plain)
  let tag := Config.gcmTag k.key n (pageAad va k.pcid n) c
  c ++ leBytes 8 n ++ bvBytes va ++ bvBytes k.pcid ++ leBytes 1 slot ++ List.replicate 29 0 ++ bvBytes tag

/-- The region that a 2 MiB leaf of the slot's context maps at an address, with its entry. -/
def pageAt (s : State) (slot : Nat) (va : Nat) : Option (Nat × Leaf) :=
  match walk s (ctxOf s (slotOf s slot).pcid.toNat) false va with
  | .ok l => if l.size = regionSize && !l.host && isHbm l.frame && regionDom s l.frame = slot then some (l.frame / regionSize, l) else none
  | .error _ => none

/-- The operands of a page request. -/
def pageBad (va hpa : DWord) : Bool := va.toNat % regionSize != 0 || va.toNat / 2 ^ 57 != 0 || hpa.toNat + blobSize + 64 > 2 ^ 48

/-- PAGEOUT (R460). -/
def pageOut (s : State) (slot : Nat) (va hpa : DWord) : State × Nat × List Byte :=
  let k := slotOf s slot
  if pageBad va hpa then refuse s doeMalformed
  else if !slotBound s slot || k.vers.length ≥ 4096 then refuse s doeRefused
  else match pageAt s slot va.toNat with
    | none => refuse s doeRefused
    | some (r, l) =>
      let raw := l.raw - l.raw % 2 - nbits l.raw 62 1 * 2 ^ 62
      let s1 := invalidate (putMem s 0 (hbmLoc l.entry) 0 (leBytes 8 raw))
        { pcid := k.pcid.toNat, pod := false, all := false, lo := va.toNat, size := regionSize }
      let s2 := unmapRegion s1 r
      let n := k.ctr + 1
      let plain := rdBytes s2.ram.hbm (regionBase r) regionSize ++ regionTags s2 r
      let s3 := putMem s2 0 { sp := .host, a := hpa.toNat } 0 (pageBlob k slot va n plain)
      served (scrubAdd (setSlot s3 slot { k with ctr := n, vers := k.vers ++ [(va.toNat, n)] }) [r])

/-- PAGEOUT. -/
def execPageout (slot : Nat) (va hpa : DWord) (s : State) : Host.Outcome State Fault Refusal := doe s 0x06 (pageOut s slot va hpa)

/-- The level-2 entry for an address in a context's tables, whether it is valid or not (R199). -/
def entryAt (s : State) (c : CtxDesc) (va : Nat) : Option Nat :=
  let ent (a : Nat) : Nat := ramNat s.ram (hbmLoc a) 8
  let next (a : Nat) : Option Nat :=
    let e := ent a
    if isHbm a && e % 4 = 1 then some (nbits e 12 36 * 4096) else none
  match next (c.root + 8 * nbits va 47 9) with
  | none => none
  | some t1 => match next (t1 + 8 * nbits va 34 13) with
    | none => none
    | some t2 => let a := t2 + 8 * nbits va 21 13; if isHbm a then some a else none

/-- The blob of a page as it stands in host memory, where it verifies: its counter and its plaintext (R461). -/
def openBlob (s : State) (k : KeySlot) (va hpa : DWord) : Option (Nat × List Byte) :=
  let rd (o n : Nat) : List Byte := rdBytes s.ram.host (hpa.toNat + o) n
  let n := leNat (rd blobSize 8)
  let c := rd 0 blobSize
  let tagOk : Bool := Config.gcmTag k.key n (pageAad va k.pcid n) c = BitVec.ofNat 128 (leNat (rd (blobSize + 48) 16))
  if tagOk && leNat (rd (blobSize + 8) 8) = va.toNat && leNat (rd (blobSize + 16) 2) = k.pcid.toNat && k.vers.contains (va.toNat, n)
  then some (n, padTo blobSize (Config.gcmOpen k.key n c)) else none

/-- Bytes as a sparse map from an address. -/
def memFrom (a : Nat) (b : List Byte) : Memory := (b.zipIdx.filter fun e => e.1 != 0).map fun e => (a + e.2, e.1)

/-- The granules whose tag is set in a tag image. -/
def tagsFrom (g : Nat) (b : List Byte) : AList Bool :=
  ((below (8 * b.length)).filter fun i => (b.getD (i / 8) 0).getLsbD (i % 8)).map fun i => (g + i, true)

/-- PAGEIN of a verified blob: the region takes the domain, the plaintext and its tags, each through the load barrier; the leaf
takes the region. -/
def pageTake (s : State) (slot : Nat) (va : DWord) (region entry n : Nat) (b : List Byte) : State :=
  let k := slotOf s slot
  let pcid := k.pcid.toNat
  let s1 := setRegion (fillRegion s region (memFrom (regionBase region) (b.take regionSize))
    (tagsFrom (regionBase region / 16) (b.drop regionSize))) region (BitVec.ofNat 8 slot)
  let gs := (s1.ram.tags.filter fun e => regionBase region ≤ 16 * e.1 && 16 * e.1 < regionBase (region + 1)).map (·.1)
  let r := gs.foldl (fun r g =>
    let v : Cap := { bits := BitVec.ofNat 128 (leNat (rdBytes s1.ram.hbm (16 * g) 16)), tag := true }
    putTag r (hbmLoc (16 * g)) (barrier s1 pcid v).tag) s1.ram
  let raw := ramNat r (hbmLoc entry) 8
  let new := raw - raw % 2 + 1 - nbits raw 12 36 * 4096 + regionBase region
  let s2 := putMem { s1 with ram := r } 0 (hbmLoc entry) 0 (leBytes 8 new)
  setSlot s2 slot { k with vers := k.vers.erase (va.toNat, n) }

/-- PAGEIN (R461). -/
def pageIn (s : State) (slot : Nat) (va hpa : DWord) (region : Nat) : State × Nat × List Byte :=
  let k := slotOf s slot
  if pageBad va hpa || !isHbm (regionBase region) then refuse s doeMalformed
  else if !slotBound s slot || regionDomain s region != 0 then refuse s doeRefused
  else match entryAt s (ctxOf s k.pcid.toNat) va.toNat with
    | none => refuse s doeRefused
    | some e => match openBlob s k va hpa with
      | some (n, b) => served (pageTake s slot va region e n b)
      | none =>
        let s1 := setSlot s slot { k with taint := (k.taint ++ [va.toNat]).eraseDups }
        (raiseEvent s1 9 slot 0 (bvBytes va), doeRefused, [])

/-- PAGEIN. -/
def execPagein (slot : Nat) (va hpa : DWord) (region : Nat) (s : State) : Host.Outcome State Fault Refusal :=
  doe s 0x07 (pageIn s slot va hpa region)

/-! CTXDESTROY (R463). -/

/-- The regions of a save slot (R422). -/
def saveRegions (s : State) (k : Nat) : List Nat := upto ((s.chip.saveBase.toNat + k * 2 ^ 23) / regionSize) 4

/-- The save slots that units of a context hold. -/
def heldSlots (s : State) (pcid : Nat) : List Nat :=
  (s.wgs.filter fun w => !w.ended && pcidOf s w.launch = pcid).filterMap (·.slot) ++
    (s.grps.filter fun g => !g.ended && pcidOf s g.launch = pcid).filterMap (·.ySlot)

/-- Step 1: the queues of the context are cancelled. -/
def cancelContext (s : State) (pcid : Nat) : State :=
  let s1 := cancelWhere s fun l => l.pcid = pcid
  ((below 64).filter fun q => (queOf s q).pcid = pcid && (queOf s q).ctl != 0).foldl (fun t q => failQueue t q (queOf t q).rd 11 0 0) s1

/-- Whether an engine thread of a context still runs. -/
def threadsOf (s : State) (pcid : Nat) : Bool :=
  (s.tces.any fun o => o.pcid = pcid && (o.st = .queued || o.st = .running || o.st = .stopped))
  || (s.ces.any fun l => l.pcid = pcid && (l.st = .queued || l.st = .running || l.st = .stopped))
  || s.fab.mcThreads.any fun m => m.pcid = pcid

/-- What a context that is gone leaves behind in translation and cache state. -/
def forgetContext (s : State) (pcid : Nat) : State :=
  { s with ctxs := aset ctxNone s.ctxs pcid ctxNone, tlb := s.tlb.filter fun e => e.pcid != pcid,
           pins := s.pins.filter fun p => p.pcid != pcid,
           fab := { s.fab with guest := s.fab.guest.filter fun g => g.pcid != pcid } }

/-- Steps 2 to 4: the slot is free, its regions and save slots are scrub-pending, its lines and clusters are cleared. -/
def endContext (s : State) (slot : Nat) : State :=
  let k := slotOf s slot
  let mine := (s.arm.domains.filter fun e => e.2.toNat = slot).map (·.1)
  let cls := (below 18).filter fun c => (aget 0 s.domains c).toNat = slot
  let s1 := cls.foldl (fun t c => let u := clearCluster t c; { u with domains := aset 0 u.domains c 0 }) s
  let s2 := scrubAdd (setSlot (forgetContext s1 k.pcid.toNat) slot slotNone) (mine ++ k.pool)
  { s2 with dirty := s2.dirty.filter fun e => e.1 ≥ 2 ^ 60 || !mine.contains (e.1 * 128 / regionSize) }

/-- CTXDESTROY: while an engine thread of the context runs the request is not answered, and is tried again. -/
def execCtxdestroy (slot : Nat) (s : State) : Host.Outcome State Fault Refusal :=
  .next <|
    let other : Bool := match destroying s with | some k => k != slot | none => false
    if other then respond s 0x08 doeBusy []
    else if !slotBound s slot then respond s 0x08 doeRefused []
    else
      let k := slotOf s slot
      let pcid := k.pcid.toNat
      let s1 := if k.st = .destroying then cancelWhere s fun l => l.pcid = pcid
        else
          let pool := (heldSlots s pcid).flatMap (saveRegions s)
          setSlot (cancelContext s pcid) slot { k with st := .destroying, pool := pool }
      if threadsOf s1 pcid then s1 else respond (endContext s1 slot) 0x08 doeDone []

end Sys2Proof.Machine
end

