-- ==== Sys2Proof/Machine/Tensor.lean ====
section
/-! DEFINITION. Tensor copy instructions and the tensor copy engine (spec/12_tensor_copy.md R331 to R347). -/

namespace Sys2Proof.Machine

/-! The shape record (R334, R335). -/

/-- The size of an element type of a shape record; type code 0 means .b32 (R335). -/
def elemSize (t : Ty) : Nat :=
  match t with
  | .s8 | .z8 | .e4m3 | .e5m2 => 1
  | .s16 | .z16 | .f16 | .bf16 => 2
  | .s64 | .z64 | .b64 | .f64 => 8
  | .b128 => 16
  | _ => 4

/-- A type as a record names it: .b32 for the default code. -/
def recTy (code : Nat) : Option Ty := if code ≥ 18 then none else if code = 0 then some .b32 else Ty.ofCode code

/-- Types that an operation may convert between, and those that TREDUCE takes (R335). -/
def convTy (t : Ty) : Bool := [Ty.f64, .f32, .f16, .bf16, .e4m3, .e5m2].contains t
def reduceTy (t : Ty) : Bool := [Ty.s32, .z32, .f32, .f16, .bf16].contains t

/-- A product of extents. -/
def prod (l : List Nat) : Nat := l.foldl (· * ·) 1

/-- The shape in the 128 bytes of a record; none when it is malformed (R335). -/
def parseShape (kind : TceKind) (b : List Byte) : Option Shape :=
  let u (o n : Nat) : Nat := leNat ((b.drop o).take n)
  let run (o n : Nat) : List Nat := (below n).map fun i => u (o + 4 * i) 4
  let n := u 0 1
  let fl := u 3 1
  let ext := (run 8 7).take n
  match recTy (u 1 1), recTy (u 2 1) with
  | some gt, some st =>
    let pitch := u 116 4
    let reduce : Bool := match kind with | .reduce _ => true | _ => false
    let ok : Bool := 1 ≤ n && n ≤ 7 && (gt = st || (convTy gt && convTy st)) && (!reduce || (gt = st && reduceTy gt))
      && !(ext.contains 0) && prod ext < 2 ^ 32
      && (pitch = 0 || (pitch ≥ ext.headD 0 * elemSize st && pitch % elemSize st = 0))
      && fl / 32 = 0 && u 120 8 = 0 && !(kind = .copyG && nbits fl 2 3 != 0)
    if ok then
      some { ndim := n, gty := gt, sty := st, fillOn := fl % 2 = 1, sat := nbits fl 1 1 = 1, span := BitVec.ofNat 3 (fl / 4),
             fill := BitVec.ofNat 32 (u 4 4), ext := ext, lim := (run 36 7).take n,
             org := ((run 64 7).take n).map (sgn 32), str := elemSize gt :: ((run 92 6).take (n - 1)), pitch := pitch }
    else none
  | _, _ => none

/-- The pitch in use, the number of lines, and the footprint in bytes on the scratchpad side (R336). -/
def Shape.p (h : Shape) : Nat := if h.pitch = 0 then h.ext.headD 0 * elemSize h.sty else h.pitch
def Shape.lines (h : Shape) : Nat := prod (h.ext.drop 1)
def Shape.foot (h : Shape) : Nat :=
  let f := (h.lines - 1) * h.p + h.ext.headD 0 * elemSize h.sty
  (f + spanOf h.span - 1) / spanOf h.span * spanOf h.span

/-- The number of elements of the box. -/
def Shape.count (h : Shape) : Nat := prod h.ext

/-- The index vector of the element of linear index n, i_0 fastest. -/
def Shape.index : List Nat → Nat → List Nat
  | [], _ => []
  | e :: l, n => n % e :: Shape.index l (n / e)

/-- Whether an element is in limits (R337), its global offset from G, and its offset on the other side (R336). -/
def Shape.inLimits (h : Shape) (i : List Nat) : Bool :=
  ((h.org.zip i).zip h.lim).all fun p => 0 ≤ p.1.1 + p.1.2 && p.1.1 + (p.1.2 : Int) < p.2
def Shape.goff (h : Shape) (i : List Nat) : Int :=
  ((h.org.zip i).zip h.str).foldl (fun a p => a + (p.1.1 + p.1.2) * (p.2 : Int)) 0
def Shape.soff (h : Shape) (i : List Nat) : Nat :=
  let line := ((i.drop 1).zip (h.ext.drop 1)).foldr (fun p a => p.1 + p.2 * a) 0
  line * h.p + i.headD 0 * elemSize h.sty

/-! Issue (R332, R333, R338, R339). -/

/-- The address of scratchpad offset o in workgroup j's place of a copy capability's address (R333). -/
def offAddr (a o : Nat) : Nat := a / 2 ^ 21 * 2 ^ 21 + o
def recvAddr (a j o : Nat) : Nat := a / 2 ^ 25 * 2 ^ 25 + j * 2 ^ 21 + o

/-- Check 5 of R338 on one global capability. -/
def globCheck (x : Cap) (need : List Nat) : Option TrapInfo :=
  match checkPerms x (pCOPY :: need) (cAddr x) accEngine with
  | .error t => some t
  | .ok () => if cSP x then some (capFault x 4 (cAddr x) accEngine) else none

/-- What check 5 asks of c[cd], and of c[cd+1]. -/
def globNeeds (k : TceKind) : List (List Nat) :=
  match k with
  | .copy | .mcast => [[pLOAD]]
  | .copyG => [[pLOAD], [pSTORE]]
  | .store => [[pSTORE]]
  | .reduce _ => [[pLOAD, pSTORE, pATOMIC]]

/-- Checks 6 and 7 of R338 on a formed operation; w0 and w1 are the row and barrier registers, w3 the receivers. -/
def placeCheck (s : State) (o : TceOp) (w0 w1 w3 : Word) : Option TrapInfo :=
  let c := o.ccap
  let isG : Bool := o.kind = .copyG
  let a := cAddr c
  let fits (b n : Nat) : Bool := capBase c ≤ (b : Int) && (b + n : Int) ≤ capTop c &&
    (match gangPad s o.gang (b / 2 ^ 21 % 16) with | none => false | some k => b % 2 ^ 21 + n ≤ k)
  let names : List (Nat → Nat) :=
    if o.kind = .mcast then ((below 16).filter o.recv.getLsbD).map fun j => recvAddr a j else [offAddr a]
  let badFoot := if isG then [] else names.filter fun f => !fits (f o.row) o.shape.foot
  let badBar := if o.nobar then [] else names.filter fun f => !fits (f o.bar) 16
  if !isG && (o.row % 128 != 0 || o.row % spanOf o.shape.span != 0) then some (capFault c 13 (offAddr a o.row) accEngine)
  else if !o.nobar && o.bar % 16 != 0 then some (capFault c 13 (offAddr a o.bar) accEngine)
  else if (!isG && w0.toNat / 2 ^ 21 != 0) || (!o.nobar && w1.toNat / 2 ^ 21 != 0) || (o.kind = .mcast && w3.toNat / 2 ^ 16 != 0) then
    some (capFault c 4 a accEngine)
  else match badFoot with
    | f :: _ => some (capFault c 4 (f o.row) accEngine)
    | [] => match badBar with
      | f :: _ => some (capFault c 4 (f o.bar) accEngine)
      | [] => none

/-- A tensor copy instruction (R338, R339). -/
def tceIssue (kind : TceKind) (cd ca : CReg) (sb : SReg) (nobar : Bool) (s : State) : Host.Outcome State Fault Refusal :=
  scalarStep s fun g x =>
    let cc := cGet x ca
    let a := cAddr cc
    match partialAt g x with
    | some d => .trap s { kind := kPartial, detail := d }
    | none =>
      match checkPerms cc [pLOAD, pSTORE, pATOMIC, pCOPY] a accEngine with
      | .error t => .trap s t
      | .ok () =>
        if !cSP cc then .trap s (capFault cc 4 a accEngine)
        else if a % 16 != 0 then .trap s (capFault cc 13 a accEngine)
        else match checkUse cc [] a 128 accEngine false (some true) (gangPad s g.gang) with
          | .error t => .trap s t
          | .ok () =>
            if soloOn g && tceQueued s g.core ≥ 64 then .again s
            else scalarMem s g x { need := [], access := accRead, sp := some true }
                { l := 0, x := cc, va := a, n := 128, b := none } noPost fun s g m p ps =>
              match parseShape kind (ps.flatMap (viewOf s g m p.got).bytes) with
              | none => .trap s (capFault cc 16 a accEngine)
              | some h =>
                let g1 := cGet x cd
                let g2 := cGet x (cd + 1)
                match ((globNeeds kind).zip [g1, g2]).findSome? fun p => globCheck p.2 p.1 with
                | some t => .trap s t
                | none =>
                  let r (k : Nat) : Word := sGet x (sb + BitVec.ofNat 6 k)
                  let o : TceOp :=
                    { uid := s.uid, core := g.core, group := g.uid, wg := g.wg, gang := g.gang, pcid := pcidOf s g.launch,
                      ticket := 0, word := actorWord s, kind := kind, shape := h, gcap := g1,
                      gcap2 := if kind = .copyG then g2 else capNull, ccap := cc, row := nbits (r 0).toNat 0 21,
                      bar := nbits (r 1).toNat 0 21, dstOff := sI (r 0), srcOff := sI (r 2),
                      recv := if kind = .mcast then (r 3).extractLsb' 0 16 else 0, nobar := nobar, st := .queued, next := 0,
                      got := [], tag := false, put := 0, uncounted := 0, cnt := 0, stop := none }
                  match placeCheck s o (r 0) (r 1) (r 3) with
                  | some t => .trap s t
                  | none => .ok (emit { s with uid := s.uid + 1 } g.uid m (.tce o))

/-- TCOPY. -/
def execTcopy (cd ca : CReg) (sb : SReg) (nobar _nt : Bool) (s : State) : Host.Outcome State Fault Refusal :=
  tceIssue .copy cd ca sb nobar s
/-- TCOPY.g. -/
def execTcopyG (cd ca : CReg) (sb : SReg) (nobar _nt : Bool) (s : State) : Host.Outcome State Fault Refusal :=
  tceIssue .copyG cd ca sb nobar s
/-- TSTORE. -/
def execTstore (cd ca : CReg) (sb : SReg) (nobar _nt : Bool) (s : State) : Host.Outcome State Fault Refusal :=
  tceIssue .store cd ca sb nobar s
/-- TMCAST. -/
def execTmcast (cd ca : CReg) (sb : SReg) (nobar _nt : Bool) (s : State) : Host.Outcome State Fault Refusal :=
  tceIssue .mcast cd ca sb nobar s
/-- TREDUCE. -/
def execTreduce (cd ca : CReg) (sb : SReg) (op : BitVec 2) (nobar _nt : Bool) (s : State) : Host.Outcome State Fault Refusal :=
  tceIssue (.reduce (if op = 0 then .add else if op = 1 then .min else .max)) cd ca sb nobar s

/-! The engine (R331, R340 to R344). -/

/-- An operation as an agent. -/
def TceOp.agt (o : TceOp) : Agt := { uid := o.uid, pcid := o.pcid, core := some o.core, die := o.core / 72, gang := o.gang }

/-- Whether the operation may use host pages. -/
def tceHost (s : State) (o : TceOp) : Bool := match grpOf s o.group with | some g => hostOkL s g.launch | none => true

/-- Changes an operation. -/
def modTce (s : State) (uid : Nat) (f : TceOp → TceOp) : State := { s with tces := updWhere (fun o => o.uid = uid) f s.tces }

/-- TCE_OPERATION_START: the oldest queued operation of a core's engine starts when fewer than four are in progress (R331). -/
def execTceOperationStart (core : Nat) (s : State) : Host.Outcome State Fault Refusal :=
  let busy := (s.tces.filter fun o => o.core = core && o.st = .running).length
  match s.tces.find? fun o => o.core = core && o.st = .queued with
  | some o => .next (if s.power = .run && busy < 4 then modTce s o.uid fun x => { x with st := .running } else s)
  | none => .next s

/-- cvt of R340 on an element. -/
def cvtElem (sat : Bool) (src dst : Ty) (v : Nat) : Nat :=
  if src = dst then v
  else match fmtOf src, fmtOf dst with
    | some a, some b => (convFF a b .rne false sat false v).1
    | _, _ => v

/-- The scratchpad places of an element, in every receiver. -/
def scratchPlaces (s : State) (o : TceOp) (soff : Nat) : List Loc :=
  let a := swz (o.row + soff) o.shape.span
  let js := if o.kind = .mcast then (below 16).filter o.recv.getLsbD else [cAddr o.ccap / 2 ^ 21 % 16]
  js.filterMap fun j => (gangWg s o.gang j).map fun w => { sp := .pad w, a := a }

/-- Whether an element carries its tag (R176, R341). -/
def tagMoves (o : TceOp) : Bool :=
  let other := if o.kind = .copyG then o.gcap2 else o.ccap
  let both (c : Cap) : Bool := cHas c pLOADCAP && cHas c pSTORECAP
  o.shape.gty = .b128 && o.shape.sty = .b128 && both o.gcap && both other

/-- The fill bytes of a destination element (R337). -/
def fillBytes (h : Shape) : List Byte :=
  ((leBytes 4 h.fill.toNat ++ leBytes 4 h.fill.toNat ++ leBytes 4 h.fill.toNat ++ leBytes 4 h.fill.toNat)).take (elemSize h.sty)

/-- A row of the scratchpad side whose span record differs from the operation's (R343). -/
def spanFault (s : State) (o : TceOp) (l : Loc) : Option TrapInfo :=
  let rec_ := spanAt s.ram l
  let row := l.a / 128 * 128
  if rec_ = o.shape.span then none
  else some { kind := kSwizzle, detail := 0, access := accEngine, addr := offAddr (cAddr o.ccap) l.a, cap := o.ccap,
              w18 := BitVec.ofNat 32 (row % 2 ^ 21 + rec_.toNat * 2 ^ 24 + o.shape.span.toNat * 2 ^ 28) }

/-- How far the element under way has come: bytes read and written, or all of its n bytes landed. -/
inductive Elem where
  | more (got : List Byte) (tag : Bool) (put : Nat)
  | landed (n : Nat)

/-- One read event at the global side of an element, once its whole place has passed its checks (R341, R344). -/
def elemRead (s : State) (o : TceOp) (host : Bool) (ga : Int) (tag : Bool) : Got Elem :=
  let n := elemSize o.shape.gty
  let i := o.got.length
  (engPlaces s o.agt host o.gcap [pLOAD, pCOPY] ga n accRead).bind fun s1 _ =>
    if tag then (engReadCap s1 o.agt host o.gcap ga).bind fun s2 v => .ok s2 (.more (leBytes 16 v.bits.toNat) v.tag 0)
    else (engRead s1 o.agt host o.gcap (ga + i) (unit216 ga n i)).bind fun s2 b => .ok s2 (.more (o.got ++ b) false 0)

/-- One write event at the global side of an element of n bytes, once its whole place has passed its checks. -/
def elemWrite (s : State) (o : TceOp) (host : Bool) (x : Cap) (da : Int) (n : Nat) (bytes : List Byte) : Got Elem :=
  let k := unit216 da n o.put
  let end_ (t : State) : Got Elem := .ok t (if o.put + k ≥ n then .landed n else .more o.got o.tag (o.put + k))
  (engReady s o.agt host x [pSTORE, pCOPY] da n).bind fun s1 _ => (engReady s1 o.agt host x [pSTORE, pCOPY] (da + o.put) k).bind fun s2 l =>
    match o.tag, l with
    | true, [(p, _)] => (engPutCap s2 o.agt x p 0 { bits := BitVec.ofNat 128 (leNat bytes), tag := true }).bind fun s3 _ => end_ s3
    | _, _ => (engPut s2 o.agt x 0 l ((bytes.drop o.put).take k)).bind fun s3 _ => end_ s3

/-- One write event at the scratchpad side, in the next of the receivers. -/
def elemPad (s : State) (o : TceOp) (ls : List Loc) (bytes : List Byte) : Got Elem :=
  let n := bytes.length
  match ls[o.put / n]? with
  | none => .ok s (.landed n)
  | some l =>
    match blocked s o.uid true (linesOf s.ram l n) with
    | some s1 => .wait s1
    | none =>
      (if o.tag then engPutCap s o.agt o.ccap (.here l none) o.shape.span { bits := BitVec.ofNat 128 (leNat bytes), tag := true }
       else .ok (putMem s o.uid l o.shape.span bytes) ()).bind fun s1 _ =>
        .ok s1 (if o.put / n + 1 ≥ ls.length then .landed n else .more o.got o.tag (o.put + n))

/-- The read event at the scratchpad side of an element of TSTORE and TREDUCE, whose row must carry the span code (R343). -/
def padRead (s : State) (o : TceOp) (soff : Nat) (tag : Bool) : Got Elem :=
  match scratchPlaces s o soff with
  | p :: _ =>
    (match spanFault s o p with
     | some t => .fault s t
     | none => match blocked s o.uid false (linesOf s.ram p (elemSize o.shape.sty)), spoilAt s p (elemSize o.shape.sty) with
       | some s1, _ => .wait s1
       | none, some d => engFault o.ccap (offAddr (cAddr o.ccap) p.a) (.fault s { kind := kSpoiled, detail := d })
       | none, none =>
         if tag then let v := barrier s o.pcid (ramReadCap s.ram p); .ok s (.more (leBytes 16 v.bits.toNat) v.tag 0)
         else .ok s (.more (ramRead s.ram p (elemSize o.shape.sty)) false 0))
  | [] => .ok s (.landed (elemSize o.shape.gty))

/-- The next event of the element under way (R340, R341): a read of its source until it is complete, then a write. -/
def tceElem (s : State) (o : TceOp) : Got Elem :=
  let h := o.shape
  let host := tceHost s o
  let i := Shape.index h.ext o.next
  let gs := elemSize h.gty
  let ss := elemSize h.sty
  let ga : Int := cAddr o.gcap + o.srcOff + h.goff i
  let inl := h.inLimits i
  let soff := h.soff i
  let val (src dst : Ty) : List Byte := leBytes (elemSize dst) (cvtElem h.sat src dst (leNat o.got))
  match o.kind with
  | .copy | .mcast =>
    if !inl then (if h.fillOn then elemPad s o (scratchPlaces s o soff) (fillBytes h) else .ok s (.landed ss))
    else if o.got.length < gs then elemRead s o host ga (tagMoves o && ga % 16 = 0)
    else elemPad s o (scratchPlaces s o soff) (val h.gty h.sty)
  | .copyG =>
    let da : Int := cAddr o.gcap2 + o.dstOff + soff
    if !inl then (if h.fillOn then elemWrite s o host o.gcap2 da ss (fillBytes h) else .ok s (.landed ss))
    else if o.got.length < gs then elemRead s o host ga (tagMoves o && ga % 16 = 0 && da % 16 = 0)
    else elemWrite s o host o.gcap2 da ss (val h.gty h.sty)
  | .store =>
    if !inl then .ok s (.landed gs)
    else if o.got.length < ss then
      (engReady s o.agt host o.gcap [pSTORE, pCOPY] ga gs).bind fun s1 _ => padRead s1 o soff (tagMoves o && ga % 16 = 0)
    else elemWrite s o host o.gcap ga gs (val h.sty h.gty)
  | .reduce op =>
    let need := [pLOAD, pSTORE, pATOMIC, pCOPY]
    if !inl then .ok s (.landed gs)
    else if o.got.length < ss then
      match engCheck s o.agt o.gcap need ga gs gs with
      | some t => .fault s t
      | none =>
        if (windowAt s ga.toNat).isSome then .fault s { xlFault kScope 5 accEngine ga.toNat false with cap := o.gcap }
        else (engPlaces s o.agt host o.gcap need ga gs accAtomic).bind fun s1 _ => padRead s1 o soff false
    else
      let v := leNat o.got
      let k : ApKind := if gs = 2 then .half op h.gty (BitVec.ofNat 16 v) else .atomic op h.gty (BitVec.ofNat 64 v) 0
      (engRmw s o.agt host o.gcap ga gs k fun old => engCombine op h.gty gs old v).bind fun s1 _ => .ok s1 (.landed gs)

/-- An operation stops at a failing element, or ends with an error (R344, R410). -/
def tceStop (s : State) (o : TceOp) (t : TrapInfo) : State :=
  let s1 := modTce s o.uid fun x => { x with
    got := [], tag := false, put := 0, st := .stopped,
    stop := some { missing := t.missing, kind := t.kind, detail := t.detail, access := t.access, home := t.home, addr := t.addr, cap := t.cap,
                   w16 := o.ticket, w17 := BitVec.ofNat 32 o.next, w18 := t.w18 } }
  let gone : Bool := match grpOf s o.group with | some g => g.ended | none => true
  if endsOp t || gone then endTce s1 o.uid else s1

/-- A count of the bytes landed since the last one: one event on the next of the operation's barriers. After the last of them the
operation goes on, or ends (R342). -/
def tceCount (s : State) (o : TceOp) : State :=
  let bars := tceBars s o
  let last (t : State) : State := modTce t o.uid fun x => { x with
    uncounted := 0, cnt := 0, st := if o.next ≥ o.shape.count then .ended else .running }
  match bars[o.cnt]? with
  | none => last s
  | some l => match engCount s o.uid (o.core / 72) l o.uncounted with
    | .wait s1 | .fault s1 _ => s1
    | .ok s1 () => if o.cnt + 1 ≥ bars.length then last s1 else modTce s1 o.uid fun x => { x with cnt := o.cnt + 1 }

/-- TCE_ELEMENT: one event of an operation in progress. Landed bytes are counted for each 4 KiB, at the end, and before a stop. -/
def execTceElement (core op : Nat) (s : State) : Host.Outcome State Fault Refusal :=
  match s.tces.find? fun o => o.uid = op && o.core = core && o.st = .running with
  | none => .next s
  | some o =>
    if s.power != .run then .next s
    else if o.uncounted ≥ 4096 || o.next ≥ o.shape.count then .next (tceCount s o)
    else match tceElem s o with
      | .wait s1 => .next s1
      | .fault s1 t => let s2 := dropAns s1 o.uid; .next (if o.uncounted != 0 then tceCount s2 o else tceStop s2 o t)
      | .ok s1 (.more got tag put) => .next (modTce (dropAns s1 o.uid) o.uid fun x => { x with got := got, tag := tag, put := put })
      | .ok s1 (.landed n) => .next (modTce (dropAns s1 o.uid) o.uid fun x => { x with
          next := o.next + 1, got := [], tag := false, put := 0, uncounted := o.uncounted + n })

/-! TSTAT (R346). -/

/-- The tickets at or before T: T − t below 2^31. -/
def upToTicket (T t : Word) : Bool := (T - t).toNat < 2 ^ 31

/-- The result of TSTAT.done and CESTAT.done over the conditions of the operations at or before T. -/
def doneCode (l : List EngSt) : Word :=
  if l.any fun c => c = .queued || c = .running || c = .stopped then 0 else if l.contains .error then 2 else 1

/-- TSTAT acts as COMMIT first, then takes a pending stop. -/
def tstat (s : State) (f : State → Grp → Split → Fin) : Host.Outcome State Fault Refusal :=
  scalarStep s fun g x => committed s g x fun s g x =>
    if mcastBusy s g.uid then .again s
    else match pendingStop s g with
      | some p => p.fin s
      | none => f s g x

/-- TSTAT. -/
def execTstat (sd : SReg) (s : State) : Host.Outcome State Fault Refusal := tstat s fun s g _ => .set s sd g.tceTicket

/-- TSTAT.done. -/
def execTstatDone (sd sa : SReg) (s : State) : Host.Outcome State Fault Refusal :=
  tstat s fun s g x =>
    .set s sd (doneCode ((s.tces.filter fun o => o.group = g.uid && upToTicket (sGet x sa) o.ticket).map (·.st)))

/-- TSTAT.drop. -/
def execTstatDrop (s : State) : Host.Outcome State Fault Refusal :=
  scalarStep s fun g x => committed s g x fun s g _ => if mcastBusy s g.uid then .again s else .ok (dropTces s g.uid)

end Sys2Proof.Machine
end

