-- ==== Sys2Proof/Machine/Ce.lean ====
section
/-! DEFINITION. CELAUNCH, CESTAT, the contexts of the collective engines and their commands
(spec/13_collective_engines.md R349 to R367, R373 to R375). -/

namespace Sys2Proof.Machine

/-! CELAUNCH (R351). -/

/-- The part of an access's pieces that covers n bytes from an offset. -/
def subPieces : List Piece → Nat → Nat → List Piece
  | [], _, _ => []
  | p :: ps, off, n =>
    if n = 0 then []
    else if off ≥ p.n then subPieces ps (off - p.n) n
    else
      let k := min n (p.n - off)
      { p with loc := { p.loc with a := p.loc.a + off }, n := k } :: subPieces ps 0 (n - k)

/-- The eight slots of an image read as capability loads (R350); at an address of 8 modulo 16 no slot is a granule, and its
tag is clear. -/
def imageSlots (v : View) (x : Cap) (ps : List Piece) : List Cap :=
  if cAddr x % 16 = 0 then (below 8).map fun k => v.cap x (subPieces ps (16 * k) 16)
  else
    let b := ps.flatMap v.bytes
    (below 8).map fun k => { bits := BitVec.ofNat 128 (leNat ((b.drop (16 * k)).take 16)), tag := false }

/-- CELAUNCH and CELAUNCH.detach. -/
def ceIssue (cd ca : CReg) (sb : SReg) (die : Bool) (engine : BitVec 4) (detach : Bool) (s : State) : Host.Outcome State Fault Refusal :=
  scalarStep s fun g x =>
    let im := cGet x ca
    let a := cAddr im
    match partialAt g x with
    | some d => .trap s { kind := kPartial, detail := d }
    | none =>
      match checkPerms im ([pLOAD, pCOPY] ++ if !cSP im && isAperture a then [pREMOTE] else []) a accEngine with
      | .error t => .trap s t
      | .ok () =>
        if a % 8 != 0 then .trap s (capFault im 13 a accEngine)
        else match checkUse im [] a 128 accEngine false none (gangPad s g.gang) with
          | .error t => .trap s t
          | .ok () =>
            if soloOn g && ceQueued s die.toNat engine.toNat ≥ 16 then .again s
            else scalarMem s g x { need := [pLOAD, pCOPY], access := accRead, caps := a % 16 = 0 }
                { l := 0, x := im, va := a, n := 128, b := none } noPost fun s g m p ps =>
              let e := imageSlots (viewOf s g m p.got) im ps
              let l : CeList :=
                { uid := s.uid, die := die.toNat, engine := engine.toNat, ctx := none, owner := if detach then none else some g.uid,
                  group := g.uid, gang := g.gang, wg := g.wg, launch := g.launch, pcid := pcidOf s g.launch, ticket := 0,
                  image := im, e := e ++ (below 8).map fun k => cGet x (cd + BitVec.ofNat 5 k),
                  n := [(sGet x sb).zeroExtend 64, (sAt x (sb.toNat + 1)).zeroExtend 64, 0, 0, 0, 0, 0, 0], pc := a + 128,
                  st := .queued, waiting := false, cmds := [], word := 0, word1 := 0, word2 := 0, stop := none }
              let s2 := e.foldl (fun t c => noteGran t g.uid m c) (dropAns s g.uid)
              .ok (emit { s2 with uid := s2.uid + 1 } g.uid m (.ce l))

/-- CELAUNCH. -/
def execCelaunch (cd ca : CReg) (sb : SReg) (die : Bool) (engine : BitVec 4) (s : State) : Host.Outcome State Fault Refusal :=
  ceIssue cd ca sb die engine false s
/-- CELAUNCH.detach. -/
def execCelaunchDetach (cd ca : CReg) (sb : SReg) (die : Bool) (engine : BitVec 4) (s : State) : Host.Outcome State Fault Refusal :=
  ceIssue cd ca sb die engine true s

/-! CESTAT (R366). -/

/-- CESTAT. -/
def execCestat (sd : SReg) (s : State) : Host.Outcome State Fault Refusal := tstat s fun s g _ => .set s sd g.ceTicket

/-- CESTAT.done. -/
def execCestatDone (sd sa : SReg) (s : State) : Host.Outcome State Fault Refusal :=
  tstat s fun s g x =>
    .set s sd (doneCode ((s.ces.filter fun l => l.group = g.uid && upToTicket (sGet x sa) l.ticket).map (·.st)))

/-- CESTAT.drop. -/
def execCestatDrop (s : State) : Host.Outcome State Fault Refusal :=
  scalarStep s fun g x => committed s g x fun s g _ => if mcastBusy s g.uid then .again s else .ok (dropCes s g.uid)

/-! Contexts. -/

/-- Changes a list. -/
def modCe (s : State) (uid : Nat) (f : CeList → CeList) : State := { s with ces := updWhere (fun l => l.uid = uid) f s.ces }

/-- CE_LIST_START: the oldest queued list of an engine starts on its lowest free context (R349). -/
def execCeListStart (die engine : Nat) (s : State) : Host.Outcome State Fault Refusal :=
  let used (c : Nat) : Bool := s.ces.any fun l => l.die = die && l.engine = engine && l.ctx = some c && (l.st = .running || l.st = .stopped)
  match s.ces.find? fun l => l.die = die && l.engine = engine && l.st = .queued, (below 4).find? fun c => !used c with
  | some l, some c => .next (if s.power = .run then modCe s l.uid fun x => { x with ctx := some c, st := .running } else s)
  | _, _ => .next s

/-- The list that holds a context. -/
def ceAt (s : State) (die engine ctx : Nat) : Option CeList :=
  s.ces.find? fun l => l.die = die && l.engine = engine && l.ctx = some ctx && (l.st = .running || l.st = .stopped)

/-- The list whose turn the actor has, and its data command where it has that one's turn. A stopped list starts nothing; its data commands
under way go on (R364). -/
def actorCe (s : State) : Option (CeList × Option CeCmd) :=
  match s.actor with
  | .ce d e c k => match ceAt s d e c, k with
    | some l, none => if l.st = .running && !l.waiting then some (l, none) else none
    | some l, some i => (l.cmds[i]?).bind fun m => if m.stop.isNone && !m.asking then some (l, some m) else none
    | none, _ => none
  | _ => none

/-- A list, and a data command of one, as agents: they belong to no core (R204). -/
def CeList.agt (l : CeList) : Agt := { uid := l.uid, pcid := l.pcid, core := none, die := l.die, gang := l.gang }
def CeCmd.agt (l : CeList) (c : CeCmd) : Agt := { l.agt with uid := c.uid }

/-- The list as a data command of it found it at its start. -/
def CeCmd.view (l : CeList) (c : CeCmd) : CeList := { l with n := c.n, pc := c.pc, word := c.w0, word1 := c.w1, word2 := c.w2 }

/-- How the turn of a list ends. -/
inductive CeFin where
  /-- The command has ended: the list goes on at the next one. -/
  | done (s : State)
  /-- The list goes on at an address, with these counters. -/
  | jump (s : State) (pc : Nat) (n : List DWord)
  /-- It waits and executes again. -/
  | again (s : State)
  /-- The context is parked. -/
  | park (s : State)
  /-- A check failed. -/
  | stop (s : State) (t : TrapInfo)
  /-- The list ends. -/
  | fin (s : State)
  /-- The list ends with an error. -/
  | err (s : State)

/-- How the turn of a data command ends: it goes on as this, it has ended, it tries again, or a check failed. -/
inductive CmdFin where
  | more (s : State) (c : CeCmd)
  | done (s : State)
  | again (s : State)
  | stop (s : State) (t : TrapInfo)

/-- The first words of the fault record of a detached list's stop at a command of this word 0 (R353, R401). -/
def detachedRecord (l : CeList) (word : DWord) (t : TrapInfo) : List Byte :=
  let w : TrapAt := { lane := false, engine := true, matrix := false, op := l.uid, w1 := word.extractLsb' 0 32,
                      w2 := word.extractLsb' 32 32, w3 := 0, pc := 0, ix := 0 }
  wordsBytes ((faultRecord t w 0).take 6)

/-- The record of a stop at a command (R364). -/
def stopRec (l : CeList) (pc : Nat) (t : TrapInfo) : StopRec :=
  { missing := t.missing, kind := t.kind, detail := t.detail, access := t.access, home := t.home, addr := t.addr, cap := t.cap,
    w16 := l.ticket, w17 := lo32 pc, w18 := hi32 pc }

/-- What follows a stop of a list: an error ends it, and so does the stop of a list whose trap no group takes (R353, R364, R365). -/
def afterStop (s : State) (l : CeList) (word : DWord) (t : TrapInfo) : State :=
  if endsOp t then endCe s l.uid
  else match l.owner with
    | none => raiseEvent (endCe s l.uid) 4 (16 * l.die + l.engine) 0 (detachedRecord l word t)
    | some u => if (match grpOf s u with | some g => g.ended | none => true) then endCe s l.uid else s

/-- A list stops at the command of word 0 `word` at its counter. -/
def ceStop (s : State) (l : CeList) (word : DWord) (t : TrapInfo) : State :=
  afterStop (modCe s l.uid fun x => { x with st := .stopped, waiting := false, word := word, stop := some (stopRec l l.pc t) }) l word t

/-- Changes a data command of a list. -/
def modCmd (s : State) (uid cmd : Nat) (f : CeCmd → CeCmd) : State :=
  modCe s uid fun l => { l with cmds := updWhere (fun c => c.uid = cmd) f l.cmds }

/-- A data command stops; what it had read for its failing unit is read again (R364). -/
def cmdStop (s : State) (l : CeList) (c : CeCmd) (t : TrapInfo) : State :=
  let s1 := modCe s l.uid fun x => { x with st := .stopped }
  afterStop (modCmd s1 l.uid c.uid fun y => { y with got := [], tag := false, asking := false, stop := some (stopRec l c.pc t) }) l c.w0 t

/-- The end of a turn of list l, whose command has n words. -/
def finishCe (l : CeList) (n : Nat) : CeFin → State
  | .again s => s
  | .stop s t => ceStop (dropAns s l.uid) l l.word t
  | .err s => endCe s l.uid
  | .park s => modCe s l.uid fun x => { x with waiting := true }
  | .fin s => modCe s l.uid fun x => { x with st := .ended, ctx := none }
  | .done s => modCe (dropAns s l.uid) l.uid fun x => { x with pc := l.pc + 8 * n }
  | .jump s a c => modCe s l.uid fun x => { x with pc := a, n := c }

/-- The end of a turn of a data command. -/
def finishCmd (l : CeList) (c : CeCmd) : CmdFin → State
  | .again s => s
  | .stop s t => cmdStop (dropAns s c.uid) l c t
  | .more s d => modCmd (dropAns s c.uid) l.uid c.uid fun _ => d
  | .done s => modCe (dropAns s c.uid) l.uid fun x => { x with cmds := x.cmds.filter fun y => y.uid != c.uid }

/-- A control command of n words: `f` gives its effect on its list. -/
def ceStep (s : State) (n : Nat) (f : CeList → CeFin) : Host.Outcome State Fault Refusal :=
  match actorCe s with
  | some (l, none) => .next (finishCe l n (f l))
  | _ => .fault .noActor

/-- An ordering command of n words: it is performed after every earlier command of its list has ended (R363). -/
def ceOrder (s : State) (n : Nat) (f : CeList → CeFin) : Host.Outcome State Fault Refusal :=
  ceStep s n fun l => if l.cmds.isEmpty then f l else .again s

/-- A data command of n words: at its list's counter it starts, unless eight are under way; in a turn of its own `f` gives its next
event (R363). -/
def ceData (s : State) (n : Nat) (f : CeList → CeCmd → CmdFin) : Host.Outcome State Fault Refusal :=
  match actorCe s with
  | none => .fault .noActor
  | some (l, none) =>
    if l.cmds.length ≥ 8 then .next s
    else
      let c : CeCmd := { uid := s.uid, pc := l.pc, w0 := l.word, w1 := l.word1, w2 := l.word2, n := l.n, done := 0, due := 0, got := [],
                         tag := false, flights := [], asking := false, stop := none }
      .next (modCe { s with uid := s.uid + 1 } l.uid fun x => { x with pc := l.pc + 8 * n, cmds := x.cmds ++ [c] })
  | some (l, some c) => .next (finishCmd l c (f (c.view l) c))

/-- A command word fetched through the image capability (R350, R356). -/
def ceFetch (s : State) (l : CeList) (a : Nat) : Got DWord :=
  if a < cAddr l.image + 128 then .fault s (capFault l.image 4 a accEngine)
  else (engRead s l.agt (hostOkL s l.launch) l.image a 8).bind fun s1 b => .ok s1 (BitVec.ofNat 64 (leNat b))

/-- The later words of a command whose word 0 is w0; 0 where it has fewer. -/
def ceFetchRest (s : State) (l : CeList) (w0 : DWord) : Got (DWord × DWord) :=
  let k := if ceOp w0 > 15 then 1 else ceLen (ceOp w0)
  (if k ≥ 2 then ceFetch s l (l.pc + 8) else .ok s 0).bind fun s2 w1 =>
    (if k ≥ 3 then ceFetch s2 l (l.pc + 16) else .ok s2 0).bind fun s3 w2 => .ok s3 (w1, w2)

/-- A turn of a context: the command at its list counter, or a data command under way. A word outside the list's image or an illegal one is
a row of its own; the words of a data command are those that it was started with. -/
noncomputable def ceTurn (die engine ctx : Nat) (cmd : Option Nat) (s : State) : Pick :=
  let act (t : State) : State := { t with actor := .ce die engine ctx cmd }
  match ceAt s die engine ctx, cmd with
  | none, _ => .idle s
  | some l, some i => match l.cmds[i]? with
    | none => .idle s
    | some c =>
      if c.asking || c.stop.isSome then .idle s
      else match decodeCe c.w0 c.w1 c.w2 with
        | .ok i => .run (act s) i
        | .error _ => .idle s
  | some l, none =>
    if l.waiting || l.st = .stopped then .idle s
    else
      let words (t : State) (w0 w1 w2 : DWord) : State := modCe (act (dropAns t l.uid)) l.uid fun x => { x with word := w0, word1 := w1, word2 := w2 }
      let bad (t : State) (w0 : DWord) (f : TrapInfo) : Pick :=
        if f.kind = kCap && f.detail = 4 then .run (words t w0 0 0) (.unassignedCeCommand w0 (BitVec.ofNat 64 f.addr) kCap 4)
        else .idle (ceStop (dropAns t l.uid) l w0 f)
      match ceFetch s l l.pc with
      | .wait s1 => .idle s1
      | .fault s1 t => bad s1 0 t
      | .ok s1 w0 => match ceFetchRest s1 l w0 with
        | .wait s2 => .idle s2
        | .fault s2 t => bad s2 w0 t
        | .ok s2 (w1, w2) => match decodeCe w0 w1 w2 with
          | .ok i => .run (words s2 w0 w1 w2) i
          | .error d => .run (words s2 w0 w1 w2) (.unassignedCeCommand w0 0 kIllegal d)

/-- UNASSIGNED_CE_COMMAND: the list stops at a word it cannot run (R62, R355, R356). -/
def execUnassignedCeCommand (w addr : DWord) (kind detail : Nat) (s : State) : Host.Outcome State Fault Refusal :=
  match actorCe s with
  | some (l, none) =>
    .next (ceStop (dropAns s l.uid) l w (if kind = kCap then capFault l.image detail addr.toNat accEngine else { kind := kind, detail := detail }))
  | _ => .fault .noActor

/-! Control commands (R362). -/

/-- ENOP. -/
def execEnop (s : State) : Host.Outcome State Fault Refusal := ceStep s 1 fun _ => .done s

/-- Counter x of a list. -/
def CeList.nx (l : CeList) (x : BitVec 3) : DWord := l.n.getD x.toNat 0

/-- EADD. -/
def execEadd (f : CeFields) (s : State) : Host.Outcome State Fault Refusal :=
  ceStep s 1 fun l => .jump s (l.pc + 8) (l.n.set f.x.toNat (l.nx f.x + f.l.signExtend 64))

/-- The branch target of a command (R362). -/
def ceTarget (l : CeList) (f : CeFields) : Nat := modPow ((l.pc : Int) + 8 * f.l.toInt) 64

/-- EBR. -/
def execEbr (f : CeFields) (s : State) : Host.Outcome State Fault Refusal :=
  ceStep s 1 fun l =>
    let v := l.nx f.x
    let taken : Bool := match f.m.toNat with
      | 0 => v = 0 | 1 => v != 0 | 2 => v.msb | _ => v != 0 && !v.msb
    .jump s (if taken then ceTarget l f else l.pc + 8) l.n

/-- ELOOP. -/
def execEloop (f : CeFields) (s : State) : Host.Outcome State Fault Refusal :=
  ceStep s 1 fun l =>
    let v := l.nx f.x - 1
    .jump s (if v != 0 then ceTarget l f else l.pc + 8) (l.n.set f.x.toNat v)

/-- EEND: every earlier command of the list has ended when it runs. -/
def execEend (s : State) : Host.Outcome State Fault Refusal := ceOrder s 1 fun _ => .fin s

/-! Barrier and signal commands (R358, R360, R361). -/

/-- The barrier object of a slot (R358, R360). -/
def ceBarLoc (s : State) (l : CeList) (k : BitVec 4) (need : List Nat) : Except TrapInfo Loc :=
  let c := l.e.getD k.toNat capNull
  match checkUse c need (cAddr c) 16 accEngine false (some true) (engPad s l.agt) with
  | .error t => .error t
  | .ok () =>
    if cAddr c % 16 != 0 then .error (capFault c 13 (cAddr c) accEngine)
    else match padLoc s l.gang (cAddr c) with
      | some p => .ok p
      | none => .error (capFault c 4 (cAddr c) accEngine)

/-- What a count on a slot needs (R358). -/
def countNeed : List Nat := [pATOMIC, pLOAD, pSTORE, pCOPY]

/-- The phase of EWAIT (R356). -/
def ewaitPhase (l : CeList) (f : CeFields) : Word := f.l + if f.ix then (l.nx f.x).extractLsb' 0 32 else 0

/-- EWAIT (R360). -/
def execEwait (f : CeFields) (s : State) : Host.Outcome State Fault Refusal :=
  ceOrder s 1 fun l =>
    match ceBarLoc s l f.k [pLOAD, pCOPY] with
    | .error t => .stop s t
    | .ok p => match if barFree s l.uid p then waitRes s l.die p (ewaitPhase l f) else none with
      | some r => if r = 0 then .done s else .err s
      | none => .park (proxyOpen s l.die p)

/-- EWAIT_RELEASE: the event that ends a parked EWAIT (R360). -/
def execEwaitRelease (die engine ctx : Nat) (s : State) : Host.Outcome State Fault Refusal :=
  match ceAt s die engine ctx with
  | none => .next s
  | some l =>
    let f := ceFields l.word
    if !l.waiting || ceOp l.word != 6 || s.power != .run then .next s
    else
      let go (c : CeFin) : Host.Outcome State Fault Refusal := .next (modCe (finishCe l 1 c) l.uid fun x => { x with waiting := false })
      match ceBarLoc s l f.k [pLOAD, pCOPY] with
      | .error t => go (.stop s t)
      | .ok p => match if barFree s l.uid p then waitRes s l.die p (ewaitPhase l f) else none with
        | some r => go (if r = 0 then .done s else .err s)
        | none => .next s

/-- EARRIVE (R360). -/
def execEarrive (f : CeFields) (s : State) : Host.Outcome State Fault Refusal :=
  ceOrder s 1 fun l =>
    match ceBarLoc s l f.k countNeed with
    | .error t => .stop s t
    | .ok p => match blocked s l.uid true (linesOf s.ram p 16) with
      | some s1 => .again s1
      | none => .done (barIssue s l.uid l.die p (.arrive f.l.toNat))

/-- The result of an access as a command's end. -/
def Got.ce {α : Type} (r : Got α) (k : State → α → CeFin) : CeFin :=
  match r with | .ok s v => k s v | .fault s t => .stop s t | .wait s => .again s

/-- The address of ESEND and ESIG (R356). -/
def signalAddr (l : CeList) (f : CeFields) (w : Nat) : Int :=
  cAddr (l.e.getD f.d.toNat capNull) + f.l.toInt + if f.ix then (l.nx f.x).toInt * w else 0

/-- ESEND (R361). -/
def execEsend (f : CeFields) (data : DWord) (s : State) : Host.Outcome State Fault Refusal :=
  ceOrder s 2 fun l =>
    let w := if f.t = 0 then 4 else 8
    let d := l.e.getD f.d.toNat capNull
    let a := signalAddr l f w
    match engCheck s l.agt d [pSTORE, pCOPY] a w w with
    | some t => .stop s t
    | none => (engReady s l.agt (hostOkL s l.launch) d [pSTORE, pCOPY] a w).ce fun s1 ps =>
      (engPut s1 l.agt d 0 ps (leBytes w data.toNat)).ce fun s2 _ => .done s2

/-- ESIG (R361). -/
def execEsig (f : CeFields) (operand : DWord) (s : State) : Host.Outcome State Fault Refusal :=
  ceOrder s 2 fun l =>
    let d := l.e.getD f.d.toNat capNull
    let a := signalAddr l f 8
    let op : AtomOp := if f.t = 0 then .add else .max
    match engCheck s l.agt d countNeed a 8 8 with
    | some t => .stop s t
    | none => (engRmw s l.agt (hostOkL s l.launch) d a 8 (.atomic op .z64 operand 0) fun old => atomNew op .z64 old operand.toNat).ce
        fun s1 _ => .done s1

/-! Data commands (R357 to R359). -/

/-- A slot is local (R357). -/
def ceLocal (c : Cap) : Bool := cSP c || !(isAperture (cAddr c))

/-- A slot on the wrong side. -/
def sideFault (c : Cap) : TrapInfo := { xlFault kScope 7 accEngine (cAddr c) false with cap := c }

/-- The bytes of the unit at i of a copy (R359). -/
def ceUnit (src dst : Int) (i n : Nat) : Nat :=
  if (src + i) % 16 = 0 && (dst + i) % 16 = 0 && i + 16 ≤ n then 16 else min (n - i) (4 - ((dst + i) % 4).toNat)

/-- The result of an access as a data command's end. -/
def Got.cmd {α : Type} (r : Got α) (k : State → α → CmdFin) : CmdFin :=
  match r with | .ok s v => k s v | .fault s t => .stop s t | .wait s => .again s

/-- The landed bytes of a data command counted on its barrier as one event (R358). -/
def cmdCount (s : State) (l : CeList) (c : CeCmd) (bar : Option Loc) : CmdFin :=
  match bar with
  | none => .more s { c with due := 0 }
  | some p => (engCount s c.uid l.die p c.due).cmd fun s1 _ => .more s1 { c with due := 0 }

/-- The barrier of a data command, none with `.nobar`. -/
def cmdBar (s : State) (l : CeList) (f : CeFields) : Except TrapInfo (Option Loc) :=
  if f.nb then .ok none else (ceBarLoc s l f.k countNeed).map some

/-- One turn of a data command of n bytes: `pre` are its checks at the start; `hold` says that landed bytes may not be counted yet; `unit`
performs the next event of the unit at an offset. Landed bytes are counted for each 4 KiB, at the end, and before a stop (R358, R364). -/
def cmdTurn (s : State) (l : CeList) (c : CeCmd) (f : CeFields) (n : Nat) (pre : Option TrapInfo) (hold : Bool) (unit : Nat → CmdFin) : CmdFin :=
  match pre with
  | some t => .stop s t
  | none =>
    match cmdBar s l f with
    | .error t => .stop s t
    | .ok bar =>
      if c.due ≥ 4096 || c.done ≥ n then
        (if hold then .again s else if c.due > 0 then cmdCount s l c bar else .done s)
      else match unit c.done with
        | .stop s1 t => if hold then .again s1 else if c.due > 0 then cmdCount (dropAns s1 c.uid) l c bar else .stop s1 t
        | r => r

/-- A unit of k bytes has landed. -/
def landed (s : State) (c : CeCmd) (k : Nat) : CmdFin :=
  .more s { c with done := c.done + k, due := c.due + k, got := c.got.drop k, tag := false }

/-- The effective offsets of a copy (R356). -/
def ceSrc (l : CeList) (f : CeFields) (off : Word) : Int :=
  cAddr (l.e.getD f.s.toNat capNull) + off.toInt + if f.ix then (l.nx f.x).toInt * f.l.toNat else 0
def ceDst (l : CeList) (f : CeFields) (off : Word) : Int :=
  cAddr (l.e.getD f.d.toNat capNull) + off.toInt + if f.ix then (l.nx f.x).toInt * f.l.toNat else 0

/-- The next read event of the unit of k bytes at offset i of a copy of n bytes from a: a granule, or an R216 unit of the source (R359). -/
def readUnit (s : State) (l : CeList) (c : CeCmd) (x : Cap) (a : Int) (i n k : Nat) : CmdFin :=
  let at_ := i + c.got.length
  let m := if k = 16 then 16 else min (n - at_) (4 - ((a + at_) % 4).toNat)
  (engRead s (c.agt l) (hostOkL s l.launch) x (a + at_) m).cmd fun s1 b => .more s1 { c with got := c.got ++ b }

/-- The write event of the unit of k bytes of a copy at b, of bytes that have been read. -/
def writeUnit (s : State) (l : CeList) (c : CeCmd) (x : Cap) (b : Int) (k : Nat) : CmdFin :=
  (engReady s (c.agt l) (hostOkL s l.launch) x [pSTORE, pCOPY] b k).cmd fun s1 ps =>
    (match c.tag, ps with
     | true, [(p, _)] => engPutCap s1 (c.agt l) x p 0 { bits := BitVec.ofNat 128 (leNat (c.got.take k)), tag := true }
     | _, _ => engPut s1 (c.agt l) x 0 ps (c.got.take k)).cmd fun s2 _ => landed s2 c k

/-- The next event of the unit at offset i of EPUT and EGET, with its tag (R176, R359). -/
def copyUnit (s : State) (l : CeList) (c : CeCmd) (sc dc : Cap) (a b : Int) (i n : Nat) : CmdFin :=
  let k := ceUnit a b i n
  let both (c : Cap) : Bool := cHas c pLOADCAP && cHas c pSTORECAP
  if c.got.length ≥ k then writeUnit s l c dc (b + i) k
  else if k = 16 && both sc && both dc then
    (engReadCap s (c.agt l) (hostOkL s l.launch) sc (a + i)).cmd fun s1 v => .more s1 { c with got := leBytes 16 v.bits.toNat, tag := v.tag }
  else readUnit s l c sc a i n k

/-- EPUT and EGET. -/
def ceCopy (f : CeFields) (dstOff srcOff : Word) (get : Bool) (s : State) : Host.Outcome State Fault Refusal :=
  ceData s 2 fun l c =>
    let sc := l.e.getD f.s.toNat capNull
    let dc := l.e.getD f.d.toNat capNull
    let side := if get then dc else sc
    cmdTurn s l c f f.l.toNat (if ceLocal side then none else some (sideFault side)) false fun i =>
      copyUnit s l c sc dc (ceSrc l f srcOff) (ceDst l f dstOff) i f.l.toNat

/-- EPUT. -/
def execEput (f : CeFields) (dstOff srcOff : Word) (s : State) : Host.Outcome State Fault Refusal := ceCopy f dstOff srcOff false s
/-- EGET. -/
def execEget (f : CeFields) (dstOff srcOff : Word) (s : State) : Host.Outcome State Fault Refusal := ceCopy f dstOff srcOff true s

/-- The type and the operation of ERED (R355). -/
def eredTy (f : CeFields) : Ty := fmtTy f.t.toNat
def eredOp (f : CeFields) : AtomOp := if f.m = 0 then .add else if f.m = 1 then .min else .max

/-- The write event of a 4-byte unit of ERED at b: a read-modify-write, or a contribution at a window address (R357). -/
def eredUnit (s : State) (l : CeList) (c : CeCmd) (f : CeFields) (dc : Cap) (b : Int) : CmdFin :=
  let v := leNat (c.got.take 4)
  let who := 144 + 16 * l.die + l.engine
  match if 0 ≤ b then windowAt s b.toNat else none with
  | none => (engRmw s (c.agt l) (hostOkL s l.launch) dc b 4 (.atomic (eredOp f) (eredTy f) (BitVec.ofNat 64 v) 0)
      fun old => atomNew (eredOp f) (eredTy f) old v).cmd fun s1 _ => landed s1 c 4
  | some (id, w) =>
    match (engCheck s (c.agt l) dc countNeed b 4 4).or (check7 s l.pcid dc b.toNat accEngine) with
    | some t => .stop s t
    | none =>
      if eredOp f != .add || f.t.toNat != w.d.fmt then .stop s { xlFault kScope 5 accEngine b.toNat false with cap := dc }
      else match contribCheck s l.pcid who w b.toNat accEngine dc with
        | some t => .stop s t
        | none =>
          let x : Contribution := { contribOf s id w who b.toNat (BitVec.ofNat 32 v) with tag := s.fab.nextTag }
          landed { s with fab := { s.fab with flight := s.fab.flight ++ [x], nextTag := s.fab.nextTag + 1 } } { c with flights := x.tag :: c.flights } 4

/-- ERED: at a window address a unit is counted once its contribution has been accepted. -/
def execEred (f : CeFields) (dstOff srcOff : Word) (s : State) : Host.Outcome State Fault Refusal :=
  ceData s 2 fun l c =>
    let sc := l.e.getD f.s.toNat capNull
    let dc := l.e.getD f.d.toNat capNull
    let n := f.l.toNat
    let a := ceSrc l f srcOff
    let b := ceDst l f dstOff
    let pre : Option TrapInfo :=
      if !ceLocal sc then some (sideFault sc)
      else if n % 4 != 0 || a % 4 != 0 then some (capFault sc 13 a accEngine)
      else if b % 4 != 0 then some (capFault dc 13 b accEngine) else none
    let hold := s.fab.flight.any fun x => c.flights.contains x.tag
    cmdTurn s l c f n pre hold fun i => if c.got.length ≥ 4 then eredUnit s l c f dc (b + i) else readUnit s l c sc a i n 4

/-- EMCAST: each unit forks a multicast thread (R273, R274), and is counted once its replicas are performed or refused. -/
def execEmcast (f : CeFields) (dstOff srcOff : Word) (s : State) : Host.Outcome State Fault Refusal :=
  ceData s 2 fun l c =>
    let sc := l.e.getD f.s.toNat capNull
    let dc := l.e.getD f.d.toNat capNull
    let n := f.l.toNat
    let a := ceSrc l f srcOff
    let b := ceDst l f dstOff
    let pre := if !ceLocal sc then some (sideFault sc) else if cSP dc || !isAperture (cAddr dc) then some (sideFault dc) else none
    cmdTurn s l c f n pre (mcastBusy s c.uid) fun i =>
      let k := ceUnit a b i n
      if c.got.length < k then readUnit s l c sc a i n k
      else match (engCheck s (c.agt l) dc [pSTORE, pCOPY] (b + i) k 1).or (unsealed s l.pcid (b + i).toNat accEngine dc) with
        | some t => .stop s t
        | none =>
          let va := (b + i).toNat
          landed (mcFork s c.uid l.pcid (nbits va 47 9) (va % 2 ^ 47) (c.got.take k) (engAuth dc)) c k

/-! Scale-out (R373 to R375). -/

/-- An endpoint entry that is not valid. -/
def epNone : Endpoint := { valid := false, tclass := 0, job := 0, addr := 0, key := [] }

/-- The checks of a network command before its units: the local side, and the endpoint. -/
def netPre (s : State) (c : Cap) (endpoint : BitVec 10) : Option TrapInfo :=
  if !ceLocal c then some (sideFault c)
  else if !(aget epNone s.fab.endpoints endpoint.toNat).valid then some (sideFault c) else none

/-- The effective local address and remote offset of a network command (R356). -/
def netLocal (l : CeList) (f : CeFields) (c : Cap) (w : NetWords) : Int :=
  cAddr c + w.localOff.toInt + if f.ix then (l.nx f.x).toInt * f.l.toNat else 0
def netRemote (l : CeList) (f : CeFields) (w : NetWords) : Int :=
  (w.remoteOff.toNat : Int) + if f.ix then (l.nx f.x).toInt * f.l.toNat else 0

/-- One unit of k bytes that have been read is sent to a remote region; the command waits for the answer. -/
def netPut (s : State) (c : CeCmd) (w : NetWords) (r : Int) (k : Nat) : CmdFin :=
  .more { s with outbox := s.outbox ++ [.uePut c.uid w.endpoint.toNat w.region.toNat (BitVec.ofNat 64 (modPow r 64)) (c.got.take k)] }
    { c with asking := true }

/-- ENPUT (R374). -/
def execEnput (f : CeFields) (w : NetWords) (s : State) : Host.Outcome State Fault Refusal :=
  ceData s 3 fun l c =>
    let x := l.e.getD f.s.toNat capNull
    let n := f.l.toNat
    cmdTurn s l c f n (netPre s x w.endpoint) false fun i =>
      let a := netLocal l f x w
      let r := netRemote l f w
      let k := ceUnit a r i n
      if c.got.length < k then readUnit s l c x a i n k else netPut s c w (r + i) k

/-- ENGET (R374): the local unit is checked before the request leaves. -/
def execEnget (f : CeFields) (w : NetWords) (s : State) : Host.Outcome State Fault Refusal :=
  ceData s 3 fun l c =>
    let x := l.e.getD f.d.toNat capNull
    let n := f.l.toNat
    cmdTurn s l c f n (netPre s x w.endpoint) false fun i =>
      let a := netLocal l f x w
      let r := netRemote l f w
      let k := ceUnit r a i n
      (engReady s (c.agt l) (hostOkL s l.launch) x [pSTORE, pCOPY] (a + i) k).cmd fun s1 _ =>
        .more { s1 with outbox := s1.outbox ++ [.ueGet c.uid w.endpoint.toNat w.region.toNat (BitVec.ofNat 64 (modPow (r + i) 64)) k] }
          { c with asking := true }

/-- The next 4 KiB-aligned piece of a source (R375). -/
def snapUnit (src : Int) (i n : Nat) : Nat := min (n - i) (4096 - ((src + i) % 4096).toNat)

/-- The read event of a piece of k bytes at an address (R375). -/
def snapRead (s : State) (l : CeList) (c : CeCmd) (x : Cap) (a : Int) (k : Nat) : CmdFin :=
  (engRead s (c.agt l) (hostOkL s l.launch) x a k).cmd fun s1 b => .more s1 { c with got := b }

/-- ESNAP (R375): each piece of the source is read as one event; no tag is written. -/
def execEsnap (f : CeFields) (w1 w2 : DWord) (s : State) : Host.Outcome State Fault Refusal :=
  ceData s 3 fun l c =>
    let sc := l.e.getD f.s.toNat capNull
    let n := f.l.toNat
    if f.m.getLsbD 4 then
      let w := netWords w1 w2
      cmdTurn s l c f n (netPre s sc w.endpoint) false fun i =>
        let a := netLocal l f sc w
        let k := snapUnit a i n
        if c.got.length < k then snapRead s l c sc (a + i) k else netPut s c w (netRemote l f w + i) k
    else
      let dc := l.e.getD f.d.toNat capNull
      cmdTurn s l c f n none false fun i =>
        let a := ceSrc l f (w1.extractLsb' 0 32)
        let b := ceDst l f (w1.extractLsb' 32 32)
        if c.got.isEmpty then snapRead s l c sc (a + i) (snapUnit a i n)
        else writeUnit s l c dc (b + i) (min c.got.length (ceUnit b b i n))

/-- The list with the data command of this name, and the command. -/
def cmdOf (s : State) (uid : Nat) : Option (CeList × CeCmd) :=
  s.ces.findSome? fun l => (l.cmds.find? fun c => c.uid = uid).map fun c => (l, c)

/-- Where the unit that a network command awaits lies: its local capability, its local address and its length, and whether it is fetched. -/
def netWait (l : CeList) (c : CeCmd) : Cap × Int × Nat × Bool :=
  let v := c.view l
  let f := ceFields c.w0
  let op := ceOp c.w0
  let w := netWords c.w1 c.w2
  let x := l.e.getD (if op = 13 then f.d else f.s).toNat capNull
  let a := netLocal v f x w
  let r := netRemote v f w
  let n := f.l.toNat
  (x, a + c.done, if op = 14 then snapUnit a c.done n else if op = 12 then ceUnit a r c.done n else ceUnit r a c.done n, op = 13)

/-- UE_RESPONSE: the answer of a remote endpoint to the unit that a network command awaits (R374). -/
def execUeResponse (cmd : Nat) (data : List Byte) (ok : Bool) (s : State) : Host.Outcome State Fault Refusal :=
  .next <| match cmdOf s cmd with
    | none => s
    | some (l, c) =>
      if !c.asking then s
      else
        let (x, a, k, get) := netWait l c
        let d : CeCmd := { c with asking := false }
        if !ok then
          -- what has landed is counted before the stop
          match if d.due > 0 then cmdBar s (c.view l) (ceFields c.w0) else .ok none with
          | .ok (some p) => (match engCount s c.uid l.die p d.due with
            | .ok s1 () => cmdStop (modCmd s1 l.uid c.uid fun y => { y with due := 0 }) l c (capFault x 17 a accEngine)
            | .wait s1 | .fault s1 _ => s1)
          | _ => cmdStop s l c (capFault x 17 a accEngine)
        else if get then finishCmd l c (writeUnit s l { d with got := (data ++ List.replicate k 0).take k } x a k)
        else finishCmd l c (landed s d k)

/-- UE_TRANSPORT_FAILURE: the transport gives up; the list ends with an error (R365). -/
def execUeTransportFailure (cmd : Nat) (s : State) : Host.Outcome State Fault Refusal :=
  .next <| match cmdOf s cmd with
    | none => s
    | some (l, c) => if c.asking then cmdStop s l c { kind := kPeerlost, detail := 5, access := accEngine } else s

end Sys2Proof.Machine
end

