-- ==== Sys2Proof/Machine/Fabcfg.lean ====
section
/-! DEFINITION. The home's side of reduction windows that an install or a loss touches, and FABCFG
(spec/09_atomics_reductions.md R265, R269, R273; spec/13_collective_engines.md R370, R373; spec/16_protection_links.md R444,
R467). -/

namespace Sys2Proof.Machine

/-! Round words (R268, R269). -/

/-- The name of the window engine threads of this node, and the agent that they are. -/
def winName : Nat := 92
def winAgt (pcid : Nat) : Agt := { uid := winName, pcid := pcid, core := none, die := 0, gang := 0 }

/-- The home node that a range names. -/
def homeOf (d : WinDesc) : Nat := nbits d.range 47 9

/-- Whether this node is the home of a sum or sparse window. -/
def homeHere (s : State) (d : WinDesc) : Bool := (d.kind = 1 || d.kind = 3) && homeOf d = s.fab.node.toNat

/-- The place of an offset in the pod space of a window's home, checked as a .pod access, once n bytes there may be written (R242, R269). -/
def homePlace (s : State) (d : WinDesc) (off access n : Nat) : Got Loc :=
  (translate s (winAgt d.pcid) true off access 0).bind fun s1 r =>
    match blocked s1 winName true (linesOf s1.ram r.1 n) with
    | some s2 => .wait s2
    | none => .ok s1 r.1

/-- An event on a round word is to be made by the window's engine thread (R269). -/
def oweRound (s : State) (id : Nat) (d : WinDesc) (op : RoundOp) : State :=
  { s with fab := { s.fab with owed := s.fab.owed ++ [{ win := id, notify := d.notify, pcid := d.pcid, op := op }] } }

/-- A window becomes broken for its generation: its partial values are discarded and, at its home, bit 63 of the round word is
set (R269); `event` is false where the home itself is lost, or refuses the round word. -/
def breakWin (s : State) (id : Nat) (event : Bool) : State :=
  let w := winOf s id
  if w.broken || w.d.kind = 0 then s
  else
    let s1 := setWin s id { w with broken := true, held := [], merged := [], sparse := [] }
    if event && homeHere s w.d then oweRound s1 id w.d .fail else s1

/-- The home refuses an access of a window: the window is broken and an event of kind 12 is raised (R269, R444). -/
def refuseWin (s : State) (id off : Nat) (event : Bool) (t : TrapInfo) : State :=
  raiseEvent (breakWin s id event) 12 id 0 (leBytes 8 off ++ leBytes 1 t.kind ++ leBytes 1 t.detail)

/-- Bit 63 of a round word set, and its count raised by n. -/
def setBit63 (v : Nat) : Nat := v % 2 ^ 63 + 2 ^ 63
def countRound (n v : Nat) : Nat := v / 2 ^ 63 * 2 ^ 63 + (v % 2 ^ 63 + n) % 2 ^ 63

/-- A round word after an event. -/
def RoundOp.apply (op : RoundOp) (v : Nat) : Nat :=
  match op with
  | .count n ovf => if ovf then setBit63 (countRound n v) else countRound n v
  | .fail => setBit63 v
  | .clear => 0

/-- The first event that is owed to a round word is made, or waits; where the home refuses the word, the window is broken (R269). -/
def roundEvent (s : State) : State :=
  match s.fab.owed with
  | [] => s
  | e :: rest =>
    let d : WinDesc := { winNone.d with notify := e.notify, pcid := e.pcid }
    match homePlace s d e.notify accAtomic 8 with
    | .wait s1 => s1
    | .fault s1 t => refuseWin { s1 with fab := { s1.fab with owed := rest } } e.win e.notify false t
    | .ok s1 l => putMem { s1 with fab := { s1.fab with owed := rest } } winName l 0 (leBytes 8 (e.op.apply (ramNat s1.ram l 8) % 2 ^ 64))

/-! Blocks (R467). -/

/-- The result codes of FABCFG. -/
def fabDone : Word := 0
def fabBad : Word := 1
def fabOverlap : Word := 2
def fabUnheld : Word := 3

/-- A configuration block of n bytes at c[ca]. -/
def fabRead (s : State) (g : Grp) (c : Cap) (need : List Nat) (cap16 : Bool) (off n : Nat) : Got (List Piece) :=
  let sp : AccSpec := { need := need, access := accRead, cap16 := cap16, use := .loadDirect }
  (resolveAcc s g sp { l := 0, x := c, va := cAddr c + off, n := n, b := none }).bind fun s1 ps =>
    match blocked s1 g.uid false (ps.flatMap (pieceLines s1)) with | some s2 => .wait s2 | none => .ok s1 ps

/-- Its bytes. -/
def fabBytes (s : State) (g : Grp) (c : Cap) (n : Nat) : Got (List Byte) :=
  (fabRead s g c [pLOAD] false 0 n).bind fun s1 ps => .ok s1 (ps.flatMap (viewOf s1 g .direct).bytes)

/-- FABCFG: `f` applies the block that `read` gives (R467). -/
def fabcfg {α : Type} (ca : CReg) (sb : SReg) (s : State) (read : State → Grp → Cap → Got α) (f : State → α → State × Word) :
    Host.Outcome State Fault Refusal :=
  scalarStep s fun g x => irrevocable s g x fun s g x => needSys s x <|
    match read s g (cGet x ca) with
    | .wait s1 => .again s1
    | .fault s1 t => .trap (dropAns s1 g.uid) t
    | .ok s1 b => let r := f (dropAns s1 g.uid) b; .set r.1 sb r.2

/-- Whether a target outside this chip failed to hold a change within 100 µs, which the outside decides (R467). -/
def unheld (s : State) : State × Bool := let d := draw s; (d.2, Config.freeBit d.1)

/-! Windows. -/

/-- A window descriptor with its member list (R265). -/
def winDesc (b : List Byte) : WinDesc :=
  { kind := fld b 0 1, fmt := fld b 1 1, acc := (fld b 2 1).testBit 0, gen := BitVec.ofNat 16 (fld b 4 2),
    members := (below (fld b 6 2)).map fun i => fld b (64 + 2 * i) 2, range := fld b 8 8, len := fld b 16 8, notify := fld b 24 8,
    contributors := BitVec.ofNat 176 (fld b 32 22), pcid := fld b 54 2 }

/-- Whether a list names no number twice. -/
def noTwice : List Nat → Bool
  | [] => true
  | x :: l => !l.contains x && noTwice l

/-- A malformed descriptor (R265, R467), as far as this node can tell. -/
def winBad (s : State) (b : List Byte) : Bool :=
  let d := winDesc b
  d.kind = 0 || d.kind > 3 || d.fmt > 2 || fld b 2 1 > 1 || (d.acc && d.kind != 1)
  || d.members.isEmpty || d.members.length > 512 || !noTwice d.members || d.members.any (· > 511)
  || d.range / 2 ^ 56 != 1 || d.range % 128 != 0 || (d.kind = 2 && homeOf d != 0)
  || d.len % 128 != 0 || d.len < 128 || d.len > 2 ^ 24 || d.range % 2 ^ 47 + d.len > 2 ^ 47
  || d.notify % 8 != 0 || d.notify ≥ 2 ^ 47 || (d.kind != 2 && d.contributors = 0) || fld b 56 8 != 0
  || (homeHere s d && !(ctxOf s d.pcid).valid)

/-- Whether two windows of the pod overlap: a replica window takes its range at every member (R265). -/
def winOverlap (a b : WinDesc) : Bool :=
  let nodes (d : WinDesc) : List Nat := if d.kind = 2 then d.members else [homeOf d]
  (nodes a).any (nodes b).contains && a.range % 2 ^ 47 < b.range % 2 ^ 47 + b.len && b.range % 2 ^ 47 < a.range % 2 ^ 47 + a.len

/-- The install of a window at this node, where it is a member or the home: an id in use is replaced, which breaks its old
generation, and the home clears the round word (R267, R269). A window of other nodes is remembered (R265). -/
def installWin (s : State) (id : Nat) (d : WinDesc) : State :=
  if !(d.members.contains s.fab.node.toNat || homeHere s d) then
    { s with fab := { s.fab with known := aset winNone.d s.fab.known id d } }
  else
    let s1 := setWin (breakWin s id true) id { winNone with d := d }
    if homeHere s1 d then oweRound s1 id d .clear else s1

/-- FABCFG.win on a block: what this node finds, and then what the other nodes and the switch planes answer. They know the windows that others
have installed, and the validity of the context at another home (R265, R467). -/
def fabWin (s : State) (b : List Byte) : State × Word :=
  let d := winDesc b
  let id := fld b 3 1
  if winBad s b then (s, fabBad)
  else if (s.fab.wins.any fun e => e.1 != id && winOverlap d e.2.d) || s.fab.known.any fun e => e.1 != id && winOverlap d e.2 then (s, fabOverlap)
  else
    let (s1, refused) := if d.kind = 2 || homeHere s d then (s, false) else unheld s
    let (s2, ovl) := unheld s1
    let (s3, late) := unheld s2
    if refused then (s3, fabBad) else if ovl then (s3, fabOverlap) else if late then (s3, fabUnheld) else (installWin s3 id d, fabDone)

/-- The part of another node's FABCFG.win at this node: its first phase checks, its second installs (R265, R467). -/
def fabWinHere (s : State) (b : List Byte) : State × Word :=
  let d := winDesc b
  let id := fld b 3 1
  if winBad s b then (s, fabBad)
  else if s.fab.wins.any fun e => e.1 != id && winOverlap d e.2.d then (s, fabOverlap)
  else (installWin s id d, fabDone)

/-- The bytes of a .win block: its 64 bytes say how many members follow. -/
def fabWinRead (s : State) (g : Grp) (c : Cap) : Got (List Byte) :=
  (fabBytes s g c 64).bind fun s1 h => fabBytes s1 g c (64 + 2 * fld h 6 2)

/-- FABCFG.win (R467). -/
def execFabcfgWin (ca : CReg) (sb : SReg) (s : State) : Host.Outcome State Fault Refusal :=
  fabcfg ca sb s fabWinRead fabWin

/-- A window removed from this node's tables. -/
def removeWin (s : State) (id : Nat) : State :=
  let s1 := setWin s id winNone
  { s1 with fab := { s1.fab with known := aset winNone.d s1.fab.known id winNone.d } }

/-- FABCFG.winrm (R467): only the window id is read. -/
def execFabcfgWinrm (ca : CReg) (sb : SReg) (s : State) : Host.Outcome State Fault Refusal :=
  fabcfg ca sb s (fun t g c => fabBytes t g c 64) fun t b =>
    let (t1, late) := unheld t
    if late then (t1, fabUnheld) else (removeWin t1 (fld b 3 1), fabDone)

/-! Multicast groups, plane map, endpoints, regions. -/

/-- A multicast entry of a .mcast block, none where it is malformed. -/
def mcEntry (b : List Byte) : Option (Nat × McGroup) :=
  if fld b 0 2 > 511 || fld b 4 4 != 0 then none
  else some (fld b 0 2, { gen := BitVec.ofNat 16 (fld b 2 2), members := BitVec.ofNat 512 (fld b 8 64) })
def setMcast (s : State) (e : Nat × McGroup) : State := { s with fab := { s.fab with mcast := aset mcNone s.fab.mcast e.1 e.2 } }

/-- FABCFG.mcast (R273, R467). -/
def execFabcfgMcast (ca : CReg) (sb : SReg) (s : State) : Host.Outcome State Fault Refusal :=
  fabcfg ca sb s (fun t g c => fabBytes t g c 72) fun t b =>
    match mcEntry b with
    | none => (t, fabBad)
    | some e => let (t1, late) := unheld t; if late then (t1, fabUnheld) else (setMcast t1 e, fabDone)

/-- The plane map of a .plane block, none where it is malformed. -/
def planeBlock (b : List Byte) : Option (List (Nat × Nat)) :=
  if b.any fun x => x.toNat > 31 then none else some ((below 32).map fun p => (p, fld b p 1))
def setPlanes (s : State) (m : List (Nat × Nat)) : State := { s with fab := { s.fab with planeMap := m } }

/-- FABCFG.plane (R370, R467): the whole map. -/
def execFabcfgPlane (ca : CReg) (sb : SReg) (s : State) : Host.Outcome State Fault Refusal :=
  fabcfg ca sb s (fun t g c => fabBytes t g c 32) fun t b =>
    match planeBlock b with
    | none => (t, fabBad)
    | some m => let (t1, late) := unheld t; if late then (t1, fabUnheld) else (setPlanes t1 m, fabDone)

/-- FABCFG.ep (R373, R467): an entry keeps its transport key. -/
def execFabcfgEp (ca : CReg) (sb : SReg) (s : State) : Host.Outcome State Fault Refusal :=
  fabcfg ca sb s (fun t g c => fabBytes t g c 32) fun t b =>
    let i := fld b 0 2
    if i > 1023 || fld b 2 1 > 1 || fld b 24 8 != 0 then (t, fabBad)
    else
      let old := aget epNone t.fab.endpoints i
      let e : Endpoint := { valid := fld b 2 1 = 1, tclass := BitVec.ofNat 8 (fld b 3 1), job := BitVec.ofNat 32 (fld b 4 4),
                            addr := BitVec.ofNat 128 (fld b 8 16), key := old.key }
      ({ t with fab := { t.fab with endpoints := aset epNone t.fab.endpoints i e } }, fabDone)

def regionNone : UeRegion := { puts := false, gets := false, cap := capNull, pcid := 0 }

/-- The bytes of a .region block, its capability, and the context that installs it. -/
def fabRegionRead (s : State) (g : Grp) (c : Cap) : Got (List Byte × Cap × Nat) :=
  (fabRead s g c [pLOAD, pLOADCAP] true 0 32).bind fun s1 ps =>
    let b := ps.flatMap (viewOf s1 g .direct).bytes
    (fabRead s1 g c [pLOAD, pLOADCAP] true 16 16).bind fun s2 qs => .ok s2 (b, (viewOf s2 g .direct).cap c qs, pcidOf s2 g.launch)

/-- FABCFG.region (R373, R467). -/
def execFabcfgRegion (ca : CReg) (sb : SReg) (s : State) : Host.Outcome State Fault Refusal :=
  fabcfg ca sb s fabRegionRead fun t e =>
    let (b, c, pc) := e
    let flags := fld b 2 1
    if flags > 7 || (nonzeroAt b 3 13).isSome || (flags.testBit 0 && !(c.tag && cHas c pCOPY)) then (t, fabBad)
    else
      let r : UeRegion := if flags.testBit 0 then { puts := flags.testBit 1, gets := flags.testBit 2, cap := c, pcid := pc } else regionNone
      ({ t with fab := { t.fab with regions := aset regionNone t.fab.regions (fld b 0 2) r } }, fabDone)

end Sys2Proof.Machine
end

