-- ==== Sys2Proof/Machine/Order.lean ====
section
/-! DEFINITION. COMMIT, SOLO, and the events of windows, drains, guest lines and versions
(spec/08_sequential_order.md R242 to R257). -/

namespace Sys2Proof.Machine

/-- COMMIT (R256): every uncommitted window commits, and the multicast engine threads are joined. -/
def execCommit (s : State) : Host.Outcome State Fault Refusal :=
  scalarStep s fun g x => committed s g x fun s g _ => if mcastBusy s g.uid then .again s else .ok s

/-- COMMIT.close (R256). -/
def execCommitClose (s : State) : Host.Outcome State Fault Refusal :=
  scalarStep s fun g _ => .ok (setGrp s { g with wins := closeWins g.wins })

/-- The count of SOLO (R257). -/
def soloCount (v : Word) : Nat := if v = 0 then 256 else min v.toNat 65535

/-- SOLO (R257): it commits as COMMIT, and counts as the first instruction of its mode. -/
def execSolo (sa : SReg) (s : State) : Host.Outcome State Fault Refusal :=
  scalarStep s fun g x => committed s g x fun s g x =>
    .ok (setGrp s { g with solo := some (soloCount (sGet x sa)) })

/-- SOLO.end (R257). -/
def execSoloEnd (s : State) : Host.Outcome State Fault Refusal :=
  scalarStep s fun g _ => .ok (setGrp s { g with solo := none })

/-- SOLO.get (R257): the instructions that remain, this one included (log 20). -/
def execSoloGet (sd : SReg) (s : State) : Host.Outcome State Fault Refusal :=
  scalarStep s fun g _ => .set s sd (BitVec.ofNat 32 (g.solo.getD 0))

/-- SOLO_COUNT_EXPIRY (R255): a spent count ends the mode. -/
def execSoloCountExpiry (core slot : Nat) (s : State) : Host.Outcome State Fault Refusal :=
  .next <| match grpAt s core slot with
    | some g => if g.solo = some 0 then setGrp s { g with solo := none } else s
    | none => s

/-- YIELD_DELAY_EXPIRY (R98): the split is ready again. -/
def execYieldDelayExpiry (core slot split : Nat) (s : State) : Host.Outcome State Fault Refusal :=
  .next <| match grpAt s core slot with
    | some g =>
      let f (x : Split) : Split := match x.st with | .yield _ => { x with st := .ready } | _ => x
      setGrp s { g with g := g.g.modSplit split f }
    | none => s

/-- WINDOW_COMMIT (R242, R245): a window that a conflict has hit rolls back; else the oldest window, once closed, commits. -/
def execWindowCommit (core slot : Nat) (s : State) : Host.Outcome State Fault Refusal :=
  .next <| match grpAt s core slot with
    | none => s
    | some g =>
      match hitAt g with
      | some k => rollGrp s g.uid k
      | none => match g.wins with
        | w :: _ => if w.closed then (commitOldest s g.uid).1 else s
        | [] => s

/-- Rolls back every group that a conflict has hit. -/
def rollAll (s : State) : State := s.grps.foldl (fun t g => rollHit t g.uid) s

/-- Whether a committed store may not drain yet: a launch forked with it waits for room in its engine's queue, its barrier operation is on its way
through a proxy, or a contribution of its core is held back (R242, R267, R292, R349). -/
def drainWaits (s : State) (d : Drain) : Bool :=
  forkWaits s d.group || proxyBusy s d.group d.line ||
  (match grpOf s d.group with | some g => s.fab.flight.any fun c => c.contributor = g.core && c.folded = 0 | none => false)

/-- The first store that may drain, those of one group in order. -/
def nextDrain (s : State) : List Nat → List Drain → Option Drain
  | _, [] => none
  | held, d :: l => if held.contains d.group then nextDrain s held l else if drainWaits s d then nextDrain s (d.group :: held) l else some d

/-- STORE_DRAIN (R242, R407): the oldest committed store that may drain does so and its hold is released; a host line goes to M. The windows
that read the line roll back. -/
def execStoreDrain (s : State) : Host.Outcome State Fault Refusal :=
  .next <| match nextDrain s [] s.drains with
    | some d =>
      let readers := s.grps.filter fun g => g.uid != d.group && g.wins.any fun w => w.hit && w.reads.contains d.line
      readers.foldl (fun t g => rollHit t g.uid) (hostState { s with drains := s.drains.erase d } 3 [d.line])
    | none => s

/-- LINE_FILL (R215, R248): the data of a line that was asked for becomes a guest line of the asking context. -/
def execLineFill (node line : Nat) (data : List Byte) (tags : List Bool) (version : Word) (s : State) : Host.Outcome State Fault Refusal :=
  .next <|
    let off := line / 128 * 128
    let mine (r : Req) : Bool := r.node = node && r.off = off && (match r.kind with | .fill _ _ => true | _ => false)
    let asked := s.fab.reqs.filter mine
    let pcids := (asked.map (·.pcid)).eraseDups
    let auths (pc : Nat) : List Auth :=
      ((asked.filter fun r => r.pcid = pc).map (·.auth) ++ (match guestAt s pc node off with | some x => x.auths | none => [])).eraseDups
    let img (pc : Nat) : GuestLine :=
      { node := node, pcid := pc, line := off, data := (data ++ List.replicate 128 0).take 128,
        tags := (tags ++ List.replicate 8 false).take 8, stamp := version, auths := auths pc }
    { s with fab := { s.fab with
        reqs := s.fab.reqs.filter fun r => !mine r,
        guest := pcids.map img ++ s.fab.guest.filter fun x => !(x.node = node && x.line = off && pcids.contains x.pcid) } }

/-- The window of a group that waits for the validation of a sub-page. -/
def awaiting (g : Grp) (node sub : Nat) : Option Nat :=
  (below g.wins.length).find? fun k => match g.wins[k]? with | some w => w.asked.contains (node, sub) && !w.valid.contains (node, sub) | none => false

/-- VALIDATION_REPLY (R248, R249): an unchanged sub-page is validated and held; a changed one rolls its window back, which gives the hold back.
Guest lines that the version shows changed are discarded whether or not a window still waits; a hold that no window waits for any more is given back
at once. -/
def execValidationReply (node sub : Nat) (version : Word) (s0 : State) : Host.Outcome State Fault Refusal :=
  let s : State := { s0 with fab := { s0.fab with guest := s0.fab.guest.filter fun x => !(x.node = node && x.line / 4096 = sub && x.stamp != version) } }
  .next <| match s.grps.find? fun g => (awaiting g node sub).isSome with
    | none => { s with outbox := s.outbox ++ [.release node sub] }
    | some g => match awaiting g node sub with
      | none => s
      | some k =>
        let same : Bool := match g.wins[k]? with
          | some w => (w.remote.filter fun r => r.node = node && r.sub = sub).all fun r => r.stamp = version
          | none => true
        let s1 := setGrp s { g with wins := g.wins.modify k fun w => { w with valid := (node, sub) :: w.valid } }
        if same then s1 else rollGrp s1 g.uid k

/-- The physical place of an offset of a context's pod space on this node, without the checks of an access (R203). -/
def podPlace (s : State) (pcid off : Nat) : Option Loc :=
  match walk s (ctxOf s pcid) true off with | .ok l => some (l.loc off) | .error _ => none

/-- A hold of another node that a hold request meets: a read hold admits other read holds only, a write hold nothing (R243). -/
def holdMeets (s : State) (node k : Nat) (write : Bool) : Bool :=
  s.fab.holds.any fun h => h.node != node && h.sub = k && (h.write || write)

/-- Whether an epoch bump of a sub-page is out that some live node has not acknowledged (R248). -/
def bumpOut (s : State) (k : Nat) : Bool := s.fab.bumps.any fun b => b.1 = k && b.2.any (liveNodes s).contains

/-- VALIDATION_REQUEST (R243, R248): the home compares its version with the stamp, and takes the hold, a read hold unless the
window writes the sub-page. A request that meets a store that has not drained, a conflicting hold, or an epoch bump that is not acknowledged
waits. A write hold grants the sub-page to the die that asks for it (R251). -/
def execValidationRequest (asker : NodeDie) (pcid : BitVec 16) (sub : Nat) (stamp : Word) (write : Bool) (s : State) : Host.Outcome State Fault Refusal :=
  let node := asker.node
  .next <| match podPlace s pcid.toNat (4096 * sub) with
    | none => { s with outbox := s.outbox ++ [.version node sub 0 false] }
    | some l =>
      let k := l.a / 4096
      if (s.drains.any fun d => d.line.sp = .hbm && d.line.a / 4096 = k) || holdMeets s node k write || bumpOut s k then s
      else
        let v := aget 0 s.ram.vers k
        let s1 := if write then grantAll s (nodeOwner node asker.die) [hbmLoc l.a] else s
        { s1 with fab := { s1.fab with holds := s1.fab.holds ++ [{ node := node, sub := k, off := sub, write := write }] },
                  outbox := s1.outbox ++ [.version node sub v (v = stamp)] }

/-- EPOCH_BUMP (R248): guest lines of the sub-page are discarded, fills in flight become unusable, windows that read it roll back, and the bump is
acknowledged. -/
def execEpochBump (node sub : Nat) (s : State) : Host.Outcome State Fault Refusal :=
  .next <|
    let hit (w : Window) : Window := if w.remote.any (fun r => r.node = node && r.sub = sub) then { w with hit := true } else w
    rollAll { s with
      outbox := s.outbox ++ [.bumpAck node sub],
      grps := s.grps.map fun g => { g with wins := g.wins.map hit },
      fab := { s.fab with guest := s.fab.guest.filter (fun x => !(x.node = node && x.line / 4096 = sub)),
                          reqs := s.fab.reqs.filter fun r => !(r.node = node && r.off / 4096 = sub && (match r.kind with | .fill _ _ => true | _ => false)) } }

end Sys2Proof.Machine
end

