-- ==== Sys2Proof/Machine/Links.lean ====
section
/-! DEFINITION. Link state, incarnations, lost peers, flits as they arrive, retries and stomp notices
(spec/16_protection_links.md R441 to R450; spec/13_collective_engines.md R369, R370; spec/08_sequential_order.md R250). -/

namespace Sys2Proof.Machine

/-! LINKSTAT (R445): UALink ports 0 to 31, Ultra Ethernet 32 and 33, UCIe 34, CXL 35. -/

def uciePort : Nat := 34
def cxlPort : Nat := 35

def linkAt (s : State) (p : Nat) : Word := aget 0 s.fab.linkstat p
def modLink (s : State) (p : Nat) (f : Word → Word) : State :=
  { s with fab := { s.fab with linkstat := aset 0 s.fab.linkstat p (f (linkAt s p)) } }

/-- A bit of a link's state written. -/
def setBitW (i : Nat) (b : Bool) (w : Word) : Word := if b then w ||| (1#32 <<< i) else w &&& ~~~(1#32 <<< i)
def linkBit (s : State) (p i : Nat) (b : Bool) : State := modLink s p (setBitW i b)
def linkUp (s : State) (p : Nat) : Bool := (linkAt s p).getLsbD 0
def linkSealed (s : State) (p : Nat) : Bool := (linkAt s p).getLsbD 1
def linkLocked (s : State) (p : Nat) : Bool := (linkAt s p).getLsbD 2

/-- A field of n bits at k rises by 1 and stops at its largest value. -/
def satField (k n : Nat) (w : Word) : Word :=
  if nbits w.toNat k n = 2 ^ n - 1 then w else BitVec.ofNat 32 (w.toNat + 2 ^ k)

/-- DROPPED and TAGFAIL of a link rise; a tag failure is also a LINKLIFE count (R436, R443). -/
def countDrop (s : State) (p : Nat) : State := modLink s p (satField 16 16)
def countTag (s : State) (p : Nat) : State := lifeInc (modLink s p (satField 4 12)) 6

/-- A dropped packet counts at the port that it uses (R276). -/
def dropPacket (s : State) (off : Nat) : State := match portOf s off with | some p => countDrop s p | none => s

/-! Lost peers (R447). -/

/-- The multicast engine threads whose replicas have all been performed or refused end (R273). -/
def endThreads (s : State) : State :=
  { s with fab := { s.fab with mcThreads := s.fab.mcThreads.filter fun m => !(m.read && m.own.isNone && !(s.fab.reqs.any fun r => r.group = m.uid)) } }

/-- An answer for a request of this node. The prefetcher takes none; a posted write is performed, which releases its window's hold where it is
the last one there, and may end a multicast thread (R242, R243, R273). -/
def answerReq (s : State) (r : Req) (a : ApAns) : State :=
  let s1 := { s with fab := { s.fab with reqs := s.fab.reqs.filter fun x => x.tag != r.tag } }
  if r.group = prefName then s1
  else if r.posted then
    let last : Bool := r.group = drainName && !(s1.fab.reqs.any fun x => x.group = drainName && x.node = r.node && x.off / 4096 = r.off / 4096)
    endThreads (if last then { s1 with outbox := s1.outbox ++ [.release r.node (r.off / 4096)] } else s1)
  else { s1 with fab := { s1.fab with answers := s1.fab.answers ++ [{ node := r.node, group := r.group, off := r.off, kind := r.kind, auth := r.auth, ans := a }] } }

/-- Ownership without the shares of a node's dies (R251). -/
def disown (node : Nat) (o : Own) : Own :=
  let gone (w : Nat) : Bool := w = nodeOwner node 0 || w = nodeOwner node 1
  let free := if gone o.owner then o.subs.filter fun e => !gone e.2 && e.2 != ownFree
    else o.subs.map fun e => (e.1, if gone e.2 then ownFree else e.2)
  { owner := if gone o.owner then 0 else o.owner, subs := free }

/-- A peer is lost: requests, guest lines, windows, holds, ownership and reduction windows, in one step (R447). -/
def losePeer (s : State) (node : Nat) : State :=
  let s1 := (s.fab.reqs.filter fun r => r.node = node).foldl (fun t r => answerReq t r (.fault kPeerlost 2 0)) s
  let read (w : Window) : Bool := w.remote.any (fun r => r.node = node) || w.asked.any fun a => a.1 = node
  let f := s1.fab
  let owners := s1.owners.map fun e => (e.1, disown node e.2)
  let s2 : State := { s1 with
    grps := s1.grps.map fun g => { g with wins := g.wins.map fun w => if read w then { w with hit := true } else w },
    owners := owners.filter fun e => e.2 != ownNone,
    fab := { f with guest := f.guest.filter (fun x => x.node != node), holds := f.holds.filter (fun h => h.node != node),
                    bumps := (f.bumps.map fun b => (b.1, b.2.erase node)).filter (fun b => !b.2.isEmpty),
                    sent := f.sent.filter (fun x => x.home != node), tagRecs := f.tagRecs.filter (fun x => x.node != node),
                    peers := aset { incarn := 0, lost := none } f.peers node { peerOf s node with lost := some (peerOf s node).incarn } } }
  let ids := (s2.fab.wins.filter fun e => e.2.d.kind != 2 && (e.2.d.members.contains node || homeOf e.2.d = node)).map (·.1)
  rollAll (ids.foldl (fun t id => breakWin t id (homeOf (winOf t id).d != node)) s2)

/-- The incarnation of a flit or request (R446): stale traffic is dropped and counted; a new incarnation loses the peer. No value
is recorded before the first key exchange, and nothing is checked then. -/
def incarnCheck (s : State) (port : Option Nat) (node : Nat) (inc : Word) : State × Bool :=
  let old := (peerOf s node).incarn
  if old = 0 || old = inc then (s, true)
  else if (old - inc).toNat < 2 ^ 31 then (match port with | some p => countDrop s p | none => s, false)
  else
    let s1 := losePeer s node
    ({ s1 with fab := { s1.fab with peers := aset { incarn := 0, lost := none } s1.fab.peers node { peerOf s1 node with incarn := inc } } }, true)

/-! Planes (R369, R370). -/

/-- Whether the plane of port p owns an element of a window as traffic goes now. -/
def planeOwns (s : State) (d : WinDesc) (p : Nat) : Bool :=
  (below (d.len / 128)).any fun k => portOf s (d.range % 2 ^ 47 + 128 * k) = some p

/-- A plane is lost: its traffic moves on, and the sum windows with an element that it owns break. -/
def losePlane (s : State) (p : Nat) : State :=
  if p ≥ 32 || aget false s.fab.planeDown p then s
  else
    let ids := (s.fab.wins.filter fun e => e.2.d.kind = 1 && planeOwns s e.2.d p).map (·.1)
    ids.foldl (fun t id => breakWin t id true) { s with fab := { s.fab with planeDown := aset false s.fab.planeDown p true } }

/-- A plane carries traffic again. -/
def planeBack (s : State) (p : Nat) : State := { s with fab := { s.fab with planeDown := aset false s.fab.planeDown p false } }

/-- LINK_DOWN (R370, R445). -/
def execLinkDown (port : Nat) (s : State) : Host.Outcome State Fault Refusal :=
  .next (if port > cxlPort then s else losePlane (linkBit (linkBit s port 0 false) port 1 false) port)

/-! Key exchange (R442). -/

/-- The result of a key exchange at a port: a peer that completes it as an Agtilux part leaves the port sealed and its
incarnation recorded; a new incarnation ends the loss of the peer (R446, R447). -/
def keyExchange (s : State) (x : KeyExchange) : State :=
  if !x.agtilux then linkBit s x.port 1 false
  else
    let r := incarnCheck s (some x.port) x.peer x.incarn
    if !r.2 then linkBit r.1 x.port 1 false
    else
      let lost := match (peerOf r.1 x.peer).lost with | some i => if i = x.incarn then some i else none | none => none
      let peers := aset { incarn := 0, lost := none } r.1.fab.peers x.peer { incarn := x.incarn, lost := lost }
      linkBit { r.1 with fab := { r.1.fab with peers := peers } } x.port 1 true

/-- PORT_TRAINING (R442, R445): the exchange runs unless the port is locked. -/
def execPortTraining (x : KeyExchange) (s : State) : Host.Outcome State Fault Refusal :=
  .next <|
    if x.port ≥ 32 || !x.up then s
    else
      let s1 := { linkBit s x.port 0 true with outbox := s.outbox ++ [.keyExchange x.port] }
      if linkLocked s x.port then s1 else planeBack (keyExchange s1 x) x.port

/-- SEAL_REKEY (R442): the exchange runs again on a sealed port. -/
def execSealRekey (x : KeyExchange) (s : State) : Host.Outcome State Fault Refusal :=
  .next <|
    if x.port ≥ 32 || !linkSealed s x.port || linkLocked s x.port then s
    else keyExchange { s with outbox := s.outbox ++ [.keyExchange x.port] } x

/-! Flits. -/

/-- The second failure of a seal: the port is locked, its plane is lost, and the host is told (R443, R444). -/
def lockPort (s : State) (p peer : Nat) : State := raiseEvent (losePlane (linkBit s p 2 true) p) 11 p 0 (leBytes 4 peer)

/-- UALINK_FLIT_RECEIVE (R441, R443, R446, R448): the checks of a flit before any of its data is used. What it carries is a row of
its own. A management flit is not sealed. -/
def execUalinkFlitReceive (f : Flit) (s : State) : Host.Outcome State Fault Refusal :=
  .next <|
    let p := f.port
    let sealed_ := linkSealed s p && !f.mgmt
    if p ≥ 32 || linkLocked s p then s
    else if sealed_ && !f.tagOk then
      let s1 := countTag s p
      if f.replay then lockPort s1 p f.node else s1
    else if f.reservedSet || (!sealed_ && f.dom != 0) then countDrop s p
    else if f.stomp then let s1 := countDrop s p; { s1 with outbox := s1.outbox ++ [.stomp f.txn] }
    else (incarnCheck s (some p) f.node f.incarn).1

/-! UCIe (R250, R443). -/

/-- The load of a group that consumed unverified data: its window rolls back with every younger one, and the load takes an INTEGRITY fault
when it executes again (R250). -/
def spoilGrp (s : State) (uid start load : Nat) : State :=
  match grpOf s uid with
  | none => s
  | some g => match (below g.wins.length).find? fun k => match g.wins[k]? with | some w => w.start = start && load != 0 | none => false with
    | none => s
    | some k => modGrp (rollGrp s uid k) uid fun x => { x with integ := some (start, load) }

/-- An engine operation that consumed unverified data ends with an error; a matrix operation stops (R250, R318, R344, R365). -/
def spoilEngine (s : State) (uid : Nat) : State :=
  let s1 := if s.tces.any fun o => o.uid = uid && (o.st = .running || o.st = .queued) then endTce (lifeInc s 3) uid else s
  let s2 := match s1.ces.find? fun l => (l.uid = uid || l.cmds.any fun c => c.uid = uid) && (l.st = .running || l.st = .stopped) with
    | some l => endCe (lifeInc s1 3) l.uid
    | none => s1
  let runs (c : MatCtx) : Bool := match c.run with | some o => o.uid = uid && !c.stopped | none => false
  s2.wgs.foldl (fun t w => w.ctxs.foldl (fun u e =>
    if runs e.2 then modMat u w.uid e.1 fun c => matStop c { kind := kIntegrity, detail := 1, access := accEngine } c.step else u) t) s2

/-- The chip stops: every placed unit is discarded, and only a reset restarts it (R443, R444). -/
def stopChip (s : State) : State :=
  let gs := (s.gangs.filter fun x => x.st = .placed || x.st = .saving).map (·.uid)
  let ts := s.grps.filter fun g => g.task && !g.ended && !g.saved
  let s1 := ts.foldl (fun t g => discardOf t g) (gs.foldl discardGang s)
  raiseEvent { s1 with power := .stopped } 10 0 0 []

/-- UCIE_FLIT_RECEIVE (R443): data may have been used before the tag is checked; `consumers` are the loads that used it, each a group with its
window's start and the load's number there, and the engine operations. -/
def execUcieFlitReceive (tagOk _replay : Bool) (consumers : List (Nat × Nat × Nat)) (s : State) : Host.Outcome State Fault Refusal :=
  .next <|
    if tagOk then { s with fab := { s.fab with uciBad := false } }
    else
      let s1 := consumers.foldl (fun t c => spoilEngine (spoilGrp t c.1 c.2.1 c.2.2) c.1) (countTag s uciePort)
      if s.fab.uciBad then stopChip s1 else { s1 with fab := { s1.fab with uciBad := true } }

/-! Retries (R270, R448, R449). -/

/-- A packet of a window as it leaves, with its extension header (R276). -/
def WinPacket.tag : WinPacket → BitVec 16
  | .sum c => c.tag
  | .pair p => p.tag
def WinPacket.win : WinPacket → Nat
  | .sum c => c.win
  | .pair p => p.win
def WinPacket.unit : WinPacket → Nat
  | .sum c => c.off
  | .pair p => p.index.toNat
def WinPacket.out (s : State) (home : Nat) (p : WinPacket) : Out :=
  let d := (winOf s p.win).d
  let off := d.range % 2 ^ 47 + 4 * p.unit
  match p with
  | .sum c => .contribution home c (extWord (if c.folded = 0 then 1 else 2) c.rank c.win d.fmt d.acc 1 off c.folded home c.tag c.gen)
  | .pair q => .sparsePair home q (extWord 5 q.rank q.win d.fmt d.acc 1 off 0 home q.tag q.gen)

/-- A packet of a window sent to its home, to be acknowledged (R270, R449). -/
def sendPacket (s : State) (home : Nat) (p : WinPacket) : State :=
  { s with outbox := s.outbox ++ [p.out s home], fab := { s.fab with sent := s.fab.sent ++ [{ home := home, packet := p, retried := false, stomped := false }] } }

/-- A request or a packet of a window that has no answer. -/
inductive Open_ where
  | req (r : Req)
  | sent (x : Sent)
  deriving DecidableEq, Repr, Inhabited

def openOf (s : State) (tag : BitVec 16) : Option Open_ :=
  match s.fab.reqs.find? fun r => r.tag = tag with
  | some r => some (.req r)
  | none => (s.fab.sent.find? fun x => x.packet.tag = tag).map .sent

def Open_.node : Open_ → Nat
  | .req r => r.node
  | .sent x => x.home
def Open_.retried : Open_ → Bool
  | .req r => r.retried
  | .sent x => x.retried
def Open_.stomped : Open_ → Bool
  | .req r => r.stomped
  | .sent x => x.stomped

/-- Sent again with the same tag. -/
def resend (s : State) (tag : BitVec 16) (o : Open_) (stomp : Bool) : State :=
  match o with
  | .req r =>
    { s with fab := { s.fab with reqs := updWhere (fun x => x.tag = tag) (fun x => { x with retried := x.retried || !stomp, stomped := x.stomped || stomp }) s.fab.reqs },
             outbox := s.outbox ++ [.request r (reqHeader r)] }
  | .sent y =>
    { s with fab := { s.fab with sent := updWhere (fun x => x.packet.tag = tag) (fun x => { x with retried := x.retried || !stomp, stomped := x.stomped || stomp }) s.fab.sent },
             outbox := s.outbox ++ [y.packet.out s y.home] }

/-- Ended with PEERLOST. A contribution's loss is seen only in the round word (R269). -/
def endOpen (s : State) (tag : BitVec 16) (o : Open_) (detail : Nat) : State :=
  match o with
  | .req r => answerReq s r (.fault kPeerlost detail 0)
  | .sent _ => { s with fab := { s.fab with sent := s.fab.sent.filter fun x => x.packet.tag != tag } }

/-- The port that an open request uses. -/
def Open_.off (s : State) : Open_ → Nat
  | .req r => r.off
  | .sent x => (winOf s x.packet.win).d.range % 2 ^ 47 + 4 * x.packet.unit

/-- STOMP_NOTICE (R448, R449): a retry at once; the second notice for a tag ends the request, which LINKSTAT counts. -/
def execStompNotice (tag : BitVec 16) (s : State) : Host.Outcome State Fault Refusal :=
  .next <| match openOf s tag with
    | none => s
    | some o =>
      if !o.stomped then resend s tag o true
      else
        let s1 := endOpen s tag o 4
        match portOf s (o.off s) with | some p => countDrop s1 p | none => s1

/-- REQUEST_RETRY_TIMEOUT (R449). -/
def execRequestRetryTimeout (tag : BitVec 16) (s : State) : Host.Outcome State Fault Refusal :=
  .next <| match openOf s tag with
    | some o => if o.retried then s else resend s tag o false
    | none => s

/-- PEERLOST_TIMEOUT (R449): the request ends, and the peer is lost. -/
def execPeerlostTimeout (tag : BitVec 16) (s : State) : Host.Outcome State Fault Refusal :=
  .next <| match openOf s tag with
    | some o => if o.retried then losePeer (endOpen s tag o 1) o.node else s
    | none => s

/-- SWITCH_PORTS_DOWN (R447). -/
def execSwitchPortsDown (node : Nat) (s : State) : Host.Outcome State Fault Refusal := .next (losePeer s node)

/-- ACCESS_ANSWER (R217, R449): the answer of a home reaches its requester; a contribution is acknowledged. -/
def execAccessAnswer (tag : BitVec 16) (a : ApAns) (s : State) : Host.Outcome State Fault Refusal :=
  .next <| match openOf s tag with
    | some (.req r) => answerReq s r a
    | some (.sent _) => { s with fab := { s.fab with sent := s.fab.sent.filter fun x => x.packet.tag != tag } }
    | none => s

end Sys2Proof.Machine
end

