-- ==== Sys2Proof/Machine/Home.lean ====
section
/-! DEFINITION. This node as the home of other nodes' requests, and as the remote end of Ultra Ethernet puts and gets
(spec/07_memory_access.md R203, R215, R229; spec/06_capabilities.md R176, R177, R189, R193; spec/13_collective_engines.md
R373, R374; spec/16_protection_links.md R440, R441, R446, R449). -/

namespace Sys2Proof.Machine

/-! Requests of other nodes. -/

/-- The agent that another node's request is: a context's pod tables on this node (R203). -/
def homeAgt (pcid : Nat) : Agt := { uid := homeName, pcid := pcid, core := none, die := 0, gang := 0 }

/-- The end of a request at its home: a message for the requester, it is not performed yet, or it is dropped and counted (R276). -/
inductive Served where
  | out (s : State) (o : Out)
  | wait (s : State)
  | drop (s : State)

/-- An answer. -/
def apReply (r : ApReq) (a : ApAns) : Out := .answer r.node r.tag a
def apFault (r : ApReq) (s : State) (t : TrapInfo) : Served := .out s (apReply r (.fault t.kind t.detail t.missing))

/-- An access that does not give a place answers its fault, or waits. -/
def Got.served {α : Type} (x : Got α) (r : ApReq) (k : State → α → Served) : Served :=
  match x with
  | .ok s v => k s v
  | .wait s => .wait s
  | .fault s t => apFault r s t

/-- What the home asks of the authorising capability: its permissions, the first byte from the request's offset and the bytes that it must
cover, and whether it is a capability access (R176, R177). The capability of LDSUM covers the place at its own node, and that of STM names
the group, so their bounds have been checked where they were issued. -/
def apNeed : ApKind → List Nat × Nat × Nat × Bool
  | .fetch => ([pEXEC], 0, 4, false)
  | .read n => ([pLOAD], 0, n, false)
  | .write d => ([pSTORE], 0, d.length, false)
  | .capRead => ([pLOAD], 0, 16, true)
  | .capWrite _ => ([pSTORE], 0, 16, true)
  | .check .read n => ([pLOAD], 0, n, false)
  | .check .write n => ([pSTORE], 0, n, false)
  | .check .fetch n => ([pEXEC], 0, n, false)
  | .check .atomic n => ([pLOAD, pSTORE, pATOMIC], 0, n, false)
  | .check (.storeCap _ _) n => ([pSTORE], 0, n, true)
  | .atomic _ t _ _ => ([pLOAD, pSTORE, pATOMIC], 0, unitOf t, false)
  | .half _ _ _ => ([pLOAD, pSTORE, pATOMIC], 0, 2, false)
  | .joinCas _ _ => ([pLOAD, pSTORE, pATOMIC], 0, 64, false)
  | .fill lo n => ([pLOAD], lo, n, false)
  | .hold | .gather _ _ _ _ => ([pLOAD], 0, 0, false)
  | .replica _ _ _ => ([pSTORE], 0, 0, false)
  | .mark _ _ pages => ([pREVAUTH], 0, 4096 * pages, false)
  | .query => ([], 0, 0, false)
  | .discard n => ([pSTORE], 0, n, false)

/-- The kinds of request that a queue processor or a sweep makes, which use no capability (R193, R380; log 33). -/
def apFree : ApKind → Bool
  | .read _ | .write _ | .check .read _ | .check .write _ | .check .atomic _ | .atomic _ _ _ _ | .query => true
  | _ => false

/-- R177 repeated at the home, check 7 included (R176). -/
def apCheck (s : State) (r : ApReq) : Option TrapInfo :=
  if r.cap = capNull && apFree r.kind then none
  else
    let (need, lo, n, c16) := apNeed r.kind
    let va : Int := (2 ^ 56 + s.fab.node.toNat * 2 ^ 47 + r.off + lo : Nat)
    let x := if n = 0 then checkPerms r.cap (need ++ [pREMOTE]) va accNone else checkUse r.cap need va n accNone c16 none fun _ => none
    match x with
    | .error t => some t
    | .ok () => if apertureMarked s r.pcid.toNat r.cap then some (capFault r.cap 7) else none

/-- The access kind that the tables are asked for. -/
def apAccess : ApKind → Nat
  | .fetch | .check .fetch _ => accFetch
  | .read _ | .capRead | .fill _ _ | .hold | .gather _ _ _ _ | .check .read _ => accRead
  | .write _ | .capWrite _ | .discard _ | .replica _ _ _ | .check .write _ | .check (.storeCap _ _) _ => accWrite
  | .atomic _ _ _ _ | .half _ _ _ | .joinCas _ _ | .check .atomic _ => accAtomic
  | .mark _ _ _ | .query => accNone

/-- The stated bound of a request's scope (R205). -/
def scopeBound : Scope → Nat
  | .dflt => 0 | .core => 1 | .die => 2 | .chip => 3 | .pod => 4 | .sys => 5

/-- One place of a request: translated as its context's pod tables give, with the pod domain of R440; whether the page is uncached. -/
def apPlace (s : State) (r : ApReq) (off : Nat) : Got (Loc × Bool) :=
  (translate s (homeAgt r.pcid.toNat) true off (apAccess r.kind) (scopeBound r.scope)).bind fun s1 p =>
    let k := if p.1.sp = .hbm then regionDom s1 p.1.a else 0
    if k != 0 && (slotOf s1 k).dom != r.dom then .fault s1 (xlFault kPage 12 accNone off true) else .ok s1 (p.1, p.2.uc)

/-- The places of n bytes, page by page, and whether one of the pages is uncached. -/
def apPlaces (s : State) (r : ApReq) (off : Nat) : Nat → Nat → Got (List (Loc × Nat) × Bool)
  | 0, _ => .ok s ([], false)
  | fuel + 1, n =>
    if n = 0 then .ok s ([], false)
    else
      let k := min n (4096 - off % 4096)
      (apPlace s r off).bind fun s1 p => (apPlaces s1 r (off + k) fuel (n - k)).bind fun s2 ps => .ok s2 ((p.1, k) :: ps.1, p.2 || ps.2)

/-- The lines of places. -/
def placeLines (s : State) (ps : List (Loc × Nat)) : List Loc := ps.flatMap fun p => linesOf s.ram p.1 p.2

/-- A hold of a node other than the requester that a read or a write of these places meets (R242, R243). -/
def otherHold (s : State) (node : Nat) (write : Bool) (ps : List (Loc × Nat)) : Bool :=
  ps.any fun p => (subsOf s.ram p.1 p.2).any fun k => holdMeets s node k write

/-- A request to read or to write: its places, once no store that has not drained and no other node's hold stands there, and the host has given
up the lines that are to be written. Damaged storage answers a read (R410). -/
def apWith (s : State) (r : ApReq) (n : Nat) (write : Bool) (k : State → List (Loc × Nat) → Served) : Served :=
  (apPlaces s r r.off (n / 4096 + 2) n).served r fun s1 pu =>
    let ps := pu.1
    let lines := placeLines s1 ps
    if heldLine s1 homeName write lines || otherHold s1 r.node write ps then .wait s1
    else if write && hostHolds s1 lines then .wait (askHost s1 lines)
    else match if apAccess r.kind = accWrite then none else ps.findSome? fun p => spoilAt s1 p.1 p.2 with
      | some d => apFault r s1 { kind := kSpoiled, detail := d }
      | none => k (shareHost s1 lines) ps

/-- The bytes at places, and bytes written there. -/
def placeBytes (s : State) (ps : List (Loc × Nat)) : List Byte := ps.flatMap fun p => ramRead s.ram p.1 p.2
def placePut (s : State) : List (Loc × Nat) → List Byte → State
  | [], _ => s
  | (l, n) :: rest, b => placePut (putMem s homeName l 0 (b.take n)) rest (b.drop n)

/-- A read-modify-write of n bytes, whose old value is the answer. It is performed where the value lies: no ownership moves (R262). -/
def apRmw (s : State) (r : ApReq) (n : Nat) (f : Nat → Option Nat) : Served :=
  apWith s r n true fun s1 ps =>
    let b := placeBytes s1 ps
    let s2 := match f (leNat b) with | some v => placePut s1 ps (leBytes n v) | none => s1
    .out s2 (apReply r (.data b false))

/-- What R174 asks of a tagged value at its home: STORECAP, GLOBAL or STORELOCAL, and that the granule is neither host memory nor the value a
scratchpad capability. -/
def apStoreCap (r : ApReq) (global sp : Bool) (ps : List (Loc × Nat)) : Option TrapInfo :=
  if !cHas r.cap pSTORECAP then some (capFault r.cap 3 0 accNone pSTORECAP)
  else if !global && !cHas r.cap pSTORELOCAL then some (capFault r.cap 9)
  else if sp || (ps.any fun p => p.1.sp = .host) then some (capFault r.cap 8)
  else none

/-- A capability store at its home (R174, R176, R194). -/
def apCapWrite (s : State) (r : ApReq) (v : Cap) : Served :=
  apWith s r 16 true fun s1 ps =>
    match if v.tag then apStoreCap r (cHas v pGLOBAL) (cSP v) ps else none with
    | some t => apFault r s1 t
    | none => match ps with
      | (l, _) :: _ => .out (putCap s1 homeName l (epochBar s1 r.pcid.toNat v)) (apReply r .done)
      | [] => .out s1 (apReply r .done)

/-- The check of an access that is not made yet: uncached pages are told, else the version of the sub-page (R217, R222, R248). -/
def apTest (s : State) (r : ApReq) (k : ChkKind) (n : Nat) : Served :=
  (apPlaces s r r.off (n / 4096 + 2) n).served r fun s1 pu =>
    match k with
    | .storeCap g sp => (match apStoreCap r g sp pu.1 with | some t => apFault r s1 t | none => .out s1 (apReply r .done))
    | _ =>
      if pu.2 then .out s1 (apReply r .uncached)
      else match pu.1 with
        | (l, _) :: _ => .out s1 (apReply r (.data (leBytes 4 (aget 0 s1.ram.vers ((behind s1.ram l).a / 4096)).toNat) false))
        | [] => .out s1 (apReply r .done)

/-- A guest line with its tags and the version of its sub-page (R248); of an uncached page no line is kept (R222). -/
def apFill (s : State) (r : ApReq) : Served :=
  (apPlace s r r.off).served r fun s0 p =>
    if p.2 then .out s0 (apReply r .uncached)
    else apWith s0 { r with off := r.off / 128 * 128 } 128 false fun s1 ps =>
      match ps with
      | (l, _) :: _ =>
        let tags := (below 8).map fun k => tagAt s1.ram (resolve s1.ram { l with a := l.a + 16 * k }) && l.sp != .host
        .out s1 (.fill r.node r.tag (ramRead s1.ram l 128) tags (aget 0 s1.ram.vers ((behind s1.ram l).a / 4096)))
      | [] => .wait s1

/-- The read hold that another node's LDSUM takes on a sub-page (R243, R272). -/
def apHold (s : State) (r : ApReq) : Served :=
  apWith s r 4 false fun s1 ps =>
    match ps with
    | (l, _) :: _ =>
      let k := (behind s1.ram l).a / 4096
      if s1.drains.any fun d => (behind s1.ram d.line).sp = .hbm && (behind s1.ram d.line).a / 4096 = k then .wait s1
      else .out { s1 with fab := { s1.fab with holds := s1.fab.holds ++ [{ node := r.node, sub := k, off := r.off / 4096, write := false }] } }
        (apReply r (.data (leBytes 8 k) false))
    | [] => .out s1 (apReply r .done)

/-- A replica gather of a window of this generation; another is dropped (R272, R276). -/
def apGather (s : State) (r : ApReq) (win : Nat) (gen : BitVec 16) : Served :=
  if (winOf s win).d.kind != 2 || (winOf s win).d.gen != gen then .drop s
  else apWith s r 4 false fun s1 ps => .out s1 (apReply r (.data (placeBytes s1 ps) false))

/-- A replica of another node's multicast: dropped under another generation, counted where this node refuses it, else written (R273, R276). -/
def apReplica (s : State) (r : ApReq) (grp : Nat) (gen : BitVec 16) (d : List Byte) : Served :=
  if (aget mcNone s.fab.mcast grp).gen != gen then .drop s
  else match apWith s r d.length true fun s1 ps => .out (placePut s1 ps d) (apReply r .done) with
    | .out s1 (.answer _ _ (.fault _ _ _)) => .out { s1 with chip := { s1.chip with mcdrop := satInc s1.chip.mcdrop } } (apReply r .done)
    | x => x

/-- JOINDEC's write of the join word of a record that is still as it was read, as one event; the answer tells whether it was. A join word that keeps its value is only read (R299). -/
def apJoin (s : State) (r : ApReq) (record : List Cap) (v : BitVec 32) : Served :=
  apWith s r 64 true fun s1 ps =>
    match ps with
    | (l, _) :: _ =>
      let now : List Cap := (below 4).map fun k => ramReadCap s1.ram { l with a := l.a + 16 * k }
      let seen : List Cap := now.map fun x => { x with tag := x.tag && l.sp != .host }
      let put := if capWord (seen.getD 3 capNull) 0 = v then s1 else putMem s1 homeName { l with a := l.a + 48 } 0 (leBytes 4 v.toNat)
      if seen = record then .out put (apReply r (.data [1] false)) else .out s1 (apReply r (.data [0] false))
    | [] => .out s1 (apReply r .done)

/-- Marks of REVOKE at a home: every page is translated, and the clear allowed, before any bit changes; a dry request changes none, so that the
marks of several homes follow the checks of all (R189, R195; log 73). -/
def apMark (s : State) (r : ApReq) (clear dry : Bool) (pages : Nat) : Served :=
  (apPlaces s r r.off (pages + 2) (4096 * pages)).served r fun s1 pu =>
    let gs := pu.1.filterMap fun p => if p.1.sp = .hbm then some (p.1.a / 4096) else none
    if clear && !clearOk s1 && !gs.isEmpty then apFault r s1 (capFault r.cap 11)
    else .out (if dry then s1 else markGrans s1 clear gs) (apReply r .done)

/-- A sweep's query for the granule of a base (R193). -/
def apQuery (s : State) (r : ApReq) : Served :=
  (apPlace s r r.off).served r fun s1 p =>
    if p.1.sp = .hbm && aget false s1.rev.bitmap (p.1.a / 4096) then apFault r s1 (capFault r.cap 7) else .out s1 (apReply r .done)

/-- What each kind of request does. -/
def apServe (s : State) (r : ApReq) : Served :=
  match r.kind with
  | .fetch => apWith s r 4 false fun s1 ps => .out s1 (apReply r (.data (placeBytes s1 ps) false))
  | .read n => apWith s r n false fun s1 ps => .out s1 (apReply r (.data (placeBytes s1 ps) false))
  | .write d => apWith s r d.length true fun s1 ps => .out (placePut s1 ps d) (apReply r .done)
  | .capRead => apWith s r 16 false fun s1 ps =>
      let v := match ps with | (l, _) :: _ => ramReadCap s1.ram l | [] => capNull
      .out s1 (apReply r (.data (leBytes 16 v.bits.toNat) (v.tag && ps.all fun p => p.1.sp != .host)))
  | .capWrite v => apCapWrite s r v
  | .check k n => apTest s r k n
  | .atomic op t b c => apRmw s r (unitOf t) fun old =>
      if op = .cas && old != c.toNat then none else some (atomNew op t old b.toNat)
  | .half op t b => apRmw s r 2 fun old => some (engCombine op t 2 old b.toNat)
  | .joinCas q v => apJoin s r q v
  | .fill _ _ => apFill s r
  | .hold => apHold s r
  | .gather win _ _ gen => apGather s r win gen
  | .replica grp gen d => apReplica s r grp gen d
  | .mark clear dry n => apMark s r clear dry n
  | .query => apQuery s r
  | .discard n => apWith s r n true fun s1 ps =>
      .out ((placeLines s1 ps).foldl (fun t l => discardLine t homeName r.pcid.toNat l) s1) (apReply r .done)

/-- The record of a request that has been answered: the last 4,096 of each node (R449). -/
def tagKeep (l : List TagRec) (x : TagRec) : List TagRec :=
  let l1 := l ++ [x]
  if (l1.filter fun y => y.node = x.node).length > 4096 then l1.erase ((l1.find? fun y => y.node = x.node).getD x) else l1

/-- APERTURE_REQUEST (R203, R441, R446, R449): a request of a stale incarnation is dropped; one whose tag is on record is answered
from the record; a request that has to wait is not performed yet. -/
def execApertureRequest (r : ApReq) (s : State) : Host.Outcome State Fault Refusal :=
  .next <|
    let c := incarnCheck s (portOf s r.off) r.node r.incarn
    if !c.2 then c.1
    else
      let s0 := c.1
      match s0.fab.tagRecs.find? fun x => x.node = r.node && x.tag = r.tag with
      | some x => { s0 with outbox := s0.outbox ++ [x.msg] }
      | none =>
        let res := match apCheck s0 r with | some t => apFault r s0 t | none => apServe s0 r
        match res with
        | .wait s1 => s1
        | .drop s1 => dropPacket s1 r.off
        | .out s1 o =>
          { s1 with outbox := s1.outbox ++ [o],
                    fab := { s1.fab with tagRecs := tagKeep s1.fab.tagRecs { node := r.node, tag := r.tag, msg := o } } }

/-- HOME_TAG_RECORD_EXPIRY (R449). -/
def execHomeTagRecordExpiry (node : Nat) (tag : BitVec 16) (s : State) : Host.Outcome State Fault Refusal :=
  .next { s with fab := { s.fab with tagRecs := s.fab.tagRecs.filter fun x => !(x.node = node && x.tag = tag) } }

/-! Ultra Ethernet (R373, R374). -/

/-- The inbound agent: it acts in the context that installed the region. -/
def inboundName : Nat := 95
def inboundAgt (r : UeRegion) : Agt := { uid := inboundName, pcid := r.pcid, core := none, die := 0, gang := 0 }

def ueRegion (s : State) (n : Nat) : UeRegion := aget regionNone s.fab.regions n

/-- The address that a remote offset names: it counts from the base of the region's capability. -/
def ueAddr (r : UeRegion) (off : DWord) : Int := capBase r.cap + off.toNat

/-- The answer of an inbound unit. -/
def ueEnd (s : State) (data : List Byte) (ok : Bool) : Host.Outcome State Fault Refusal :=
  let s1 := dropAns s inboundName
  .next { s1 with outbox := s1.outbox ++ [.ueAnswer data ok] }

/-- UE_INBOUND_PUT (R374): tags are cleared. -/
def execUeInboundPut (region : BitVec 16) (off : DWord) (data : List Byte) (s : State) : Host.Outcome State Fault Refusal :=
  let r := ueRegion s region.toNat
  if !r.puts then ueEnd s [] false
  else match engReady s (inboundAgt r) true r.cap [pSTORE, pCOPY] (ueAddr r off) data.length with
    | .wait s1 => .next s1
    | .fault s1 _ => ueEnd s1 [] false
    | .ok s1 ps => match engPut s1 (inboundAgt r) r.cap 0 ps data with
      | .wait s2 => .next s2
      | .fault s2 _ => ueEnd s2 [] false
      | .ok s2 _ => ueEnd s2 [] true

/-- UE_INBOUND_GET (R374). -/
def execUeInboundGet (region : BitVec 16) (off : DWord) (n : Nat) (s : State) : Host.Outcome State Fault Refusal :=
  let r := ueRegion s region.toNat
  if !r.gets then ueEnd s [] false
  else match engRead s (inboundAgt r) true r.cap (ueAddr r off) n with
    | .wait s1 => .next s1
    | .fault s1 _ => ueEnd s1 [] false
    | .ok s1 b => ueEnd s1 b true

end Sys2Proof.Machine
end

