-- ==== Sys2Proof/Machine/Armoire.lean ====
section
/-! DEFINITION. Armoire's other requests, power states, resets and the events of the chip as a whole
(spec/16_protection_links.md R443, R446, R451 to R456, R463, R464, R468 to R471; spec/15_traps_contexts.md R436). -/

namespace Sys2Proof.Machine

/-! Requests (R453). -/

/-- NODESET (R371, R453): refused once a launch has been accepted since the reset. -/
def execNodeset (node : BitVec 9) (s : State) : Host.Outcome State Fault Refusal :=
  doe s 0x01 (if s.fab.launched then refuse s doeRefused
    else served { s with fab := { s.fab with node := node, nodeSet := true } })

/-- The state of a slot as STATUS reports it. -/
def slotCode (k : KeySlot) : Nat := match k.st with | .free => 0 | .loading => 1 | .sealed => 2 | .destroying => 3

/-- The results of STATUS (R453): slot state, taint count, SCRUBSTAT, INCARN, the thermal trip, the key-exchange public key. -/
def statusBytes (s : State) (slot : Nat) : List Byte :=
  let k := slotOf s slot
  leBytes 4 (slotCode k) ++ leBytes 4 k.taint.length ++ bvBytes (scrubStat s) ++ bvBytes s.fab.incarn
    ++ leBytes 4 (if s.power = .tripped then 1 else 0) ++ Config.kxKey s.fab.incarn

/-- STATUS (R453). -/
def execDoeStatus (slot : Nat) (s : State) : Host.Outcome State Fault Refusal :=
  doe s 0x09 (if slot > 63 then refuse s doeMalformed else (s, doeDone, statusBytes s slot))

/-- QUOTE (R453, R455). -/
def execQuote (pcid : BitVec 16) (nonce user : List Byte) (s : State) : Host.Outcome State Fault Refusal :=
  doe s 0x0A (if nonce.length != 48 || user.length != 64 then refuse s doeMalformed else (s, doeDone, quoteBytes s pcid.toNat nonce user))

/-- A measurement register extended. -/
def extendM (s : State) (i : Nat) (x : List Byte) : State :=
  { s with arm := { s.arm with meas := s.arm.meas.modify i fun m => extend m x } }

/-- EXTEND (R453, R454). -/
def execExtend (x : List Byte) (s : State) : Host.Outcome State Fault Refusal :=
  doe s 0x0B (if x.length != 48 then refuse s doeMalformed else served (extendM s 7 x))

/-- LINKATTEST (R442, R443, R453): an exchange that succeeds clears the lock. -/
def linkAttest (s : State) (x : KeyExchange) : State × Nat × List Byte :=
  if x.port ≥ 32 then refuse s doeMalformed
  else
    let s1 := keyExchange { s with outbox := s.outbox ++ [.keyExchange x.port] } x
    served (if x.agtilux && linkSealed s1 x.port then planeBack (linkBit s1 x.port 2 false) x.port else s1)

/-- LINKATTEST. -/
def execLinkattest (x : KeyExchange) (s : State) : Host.Outcome State Fault Refusal := doe s 0x0C (linkAttest s x)

/-- UEKEY (R453): the transport key of an endpoint entry. -/
def execUekey (endpoint : BitVec 10) (blob : List Byte) (s : State) : Host.Outcome State Fault Refusal :=
  let e := aget epNone s.fab.endpoints endpoint.toNat
  doe s 0x0D (served { s with fab := { s.fab with
    endpoints := aset epNone s.fab.endpoints endpoint.toNat { e with key := Config.ueKey blob } } })

/-- DEBUGNONCE (R456). -/
def debugNonce (s : State) : State × Nat × List Byte :=
  let (d, s1) := draw s
  let b := (below 48).map (Config.nonceByte d)
  ({ s1 with arm := { s1.arm with debugNonce := b } }, doeDone, b)

/-- DEBUGNONCE. -/
def execDebugnonce (s : State) : Host.Outcome State Fault Refusal := doe s 0x0E (debugNonce s)

/-- Whether a unit is placed. -/
def unitPlaced (s : State) : Bool :=
  (s.gangs.any fun x => (x.st = .placed || x.st = .saving) && x.wgs.any fun w => match wgBy s w with | some y => !y.ended | none => false)
  || s.grps.any fun g => g.task && !g.ended && !g.saved

/-- Whether an engine thread runs. -/
def threadRuns (s : State) : Bool :=
  (s.tces.any fun o => o.st = .queued || o.st = .running || o.st = .stopped)
  || (s.ces.any fun l => l.st = .queued || l.st = .running || l.st = .stopped) || !s.fab.mcThreads.isEmpty

/-- The check of a debug token (R456). -/
def tokenOk (s : State) (t : List Byte) : Bool :=
  t.take 8 = bvBytes Config.serial && ((t.drop 12).take 4).all (· = 0) && (t.drop 16).take 48 = s.arm.debugNonce
    && !s.arm.debugNonce.isEmpty && Config.debugTokenOk t

/-- Boot step 5 on a running device: tag store, revocation bitmap and the memory of domain 0 are set to 0 (R456, R471). What a
pending region holds is out of reach until the scrub has set it to 0. -/
def clearMemory (s : State) : State :=
  let ms : List Nat := s.ram.hbm.map fun e => e.1 / 4096
  let ts : List Nat := s.ram.tags.map fun e => e.1 / 256
  let subs := (ms ++ ts).eraseDups
  let vers := subs.foldl (fun v k => aset 0 v k (aget 0 v k + 1)) s.ram.vers
  hitReads (wrapBumps { s with ram := { s.ram with hbm := [], tags := [], vers := vers },
                               rev := { s.rev with bitmap := [] }, dirty := cutRange s.dirty 0 (2 ^ 60) } subs) fun l => l.sp = .hbm

/-- A successful DEBUG (R456). -/
def unlockDebug (s : State) (t : List Byte) : State :=
  let rs := (s.arm.domains.filter fun e => e.2 != scrubByte).map (·.1)
  let pcids := (s.arm.slots.map (·.2.pcid.toNat)).eraseDups
  let s1 := pcids.foldl forgetContext { s with arm := { s.arm with slots := [] } }
  let s2 := clearMemory (scrubAdd s1 rs)
  let c := s2.arm.scrub
  let s3 := { s2 with arm := { s2.arm with unlocked := true, scrub := { c with prog := 0, resumed := c.active } } }
  extendM s3 6 ([0x64, 0x65, 0x62, 0x75, 0x67] ++ (t.drop 8).take 4)

/-- DEBUG (R456). -/
def execDebug (token : List Byte) (s : State) : Host.Outcome State Fault Refusal :=
  doe s 0x0F (
    if token.length != 160 then refuse s doeMalformed
    else if (s.chip.queues.any fun e => e.2.en) || unitPlaced s || !tokenOk s token then refuse s doeRefused
    else served (unlockDebug s token))

/-! Power (R468, R469). -/

/-- PSTATE (R468): P0 to P2 take effect at once; P3 waits for P3_ENTRY; a request for another state leaves it. -/
def setPstate (s : State) (p : BitVec 2) : State :=
  let s1 := { s with arm := { s.arm with req := p } }
  if p = 3 then s1
  else match s.power with
    | .run => { s1 with arm := { s1.arm with cur := p } }
    | .p3 => { s1 with power := .p3Leaving }
    | _ => s1

/-- PSTATE. -/
def execPstate (p : BitVec 2) (s : State) : Host.Outcome State Fault Refusal := doe s 0x10 (served (setPstate s p))

/-- P3_ENTRY (R468): no unit is placed and no engine thread runs. -/
def execP3Entry (s : State) : Host.Outcome State Fault Refusal :=
  .next (if s.arm.req = 3 && s.power = .run && !unitPlaced s && !threadRuns s
    then { s with power := .p3, arm := { s.arm with cur := 3 } } else s)

/-- P3_EXIT_COMPLETE (R468): 50 µs after the request. -/
def execP3ExitComplete (s : State) : Host.Outcome State Fault Refusal :=
  .next (if s.power = .p3Leaving then { s with power := .run, arm := { s.arm with cur := if s.arm.req = 3 then 0 else s.arm.req } } else s)

/-- THERMAL_TRIP (R469): the clocks stop and the links drop; Armoire counts the trip. -/
def execThermalTrip (s : State) : Host.Outcome State Fault Refusal :=
  .next <|
    if s.power = .off || s.power = .tripped then s
    else
      let down := s.fab.linkstat.map fun e => (e.1, e.2 &&& 0xFFFFFFFC#32)
      let s1 := lifeInc s 5
      { s1 with power := .tripped, fab := { s1.fab with linkstat := down.filter fun e => e.2 != 0 } }

/-- LIFETIME_COUNTER_FLUSH (R436): every 60 s. -/
def execLifetimeCounterFlush (s : State) : Host.Outcome State Fault Refusal :=
  .next { s with arm := { s.arm with flash := s.arm.life } }

/-- HOUR_POWERED (R436). -/
def execHourPowered (s : State) : Host.Outcome State Fault Refusal := .next (if s.power = .off then s else lifeInc s 7)

/-! Resets (R452, R464, R470, R471). -/

/-- INCARN after a reset (R446). -/
def nextIncarn (w : Word) : Word := if w = BitVec.allOnes 32 then 1 else w + 1

/-- The machine after a reset: flash and the counters loaded from it, host memory, and what the model keeps of the outside. -/
def afterReset (s : State) (flash : AList Word) : State :=
  let r := State.reset
  { r with ram := { r.ram with host := s.ram.host }, fab := { r.fab with incarn := nextIncarn s.fab.incarn },
           arm := { r.arm with life := flash, flash := flash }, agenda := s.agenda, nonce := s.nonce, uid := s.uid, outbox := s.outbox }

/-- A cold reset (R470). -/
def coldReset (s : State) : State := afterReset s s.arm.flash

/-- A warm reset (R464, R470): the counters are flushed first; the counts of LINKSTAT and the scrub record stay, and the scrub starts
again over every region of the record. -/
def warmReset (s : State) : State :=
  let t := afterReset s s.arm.life
  let links := (s.fab.linkstat.map fun e => (e.1, e.2 &&& 0xFFFFFFF0#32)).filter fun e => e.2 != 0
  let pending := s.arm.domains.filter fun e => e.2 = scrubByte
  let c := s.arm.scrub
  let scrub : Scrub := if c.active then { c with resumed := true, prog := 0 } else t.arm.scrub
  { t with fab := { t.fab with linkstat := links }, arm := { t.arm with domains := pending, scrub := scrub } }

/-- COLD_RESET: power-on, or PERST# with power removed. -/
def execColdReset (s : State) : Host.Outcome State Fault Refusal := .next (coldReset s)

/-- WARM_RESET: CXL hot reset, PERST# with power held, function level reset. It does not restart a tripped chip (R469). -/
def execWarmReset (s : State) : Host.Outcome State Fault Refusal :=
  .next (if s.power = .tripped || s.power = .off then s else warmReset s)

/-- RESET: a warm reset through DOE (R453). -/
def execReset (s : State) : Host.Outcome State Fault Refusal :=
  if s.power = .tripped then doe s 0x11 (refuse s doeRefused) else doe s 0x11 (served (warmReset s))

/-- POWER_REMOVED: everything but flash is lost; a cold reset follows when power returns (R436, R470). -/
def execPowerRemoved (s : State) : Host.Outcome State Fault Refusal :=
  let r := State.reset
  .next { r with ram := { r.ram with host := s.ram.host }, fab := { r.fab with incarn := s.fab.incarn },
                 arm := { r.arm with flash := s.arm.flash }, power := .off, agenda := s.agenda, nonce := s.nonce, uid := s.uid,
                 outbox := s.outbox }

/-! Which events happen in a power state (R443, R468, R469). -/

/-- Requests that Armoire answers, and resets. -/
def armoireRow : Instr → Bool
  | .nodeset _ | .ctxcreate _ _ _ | .ctxassign _ _ _ _ | .ctxload _ _ _ _ | .ctxseal _ | .pageout _ _ _ | .pagein _ _ _ _
  | .ctxdestroy _ | .doeStatus _ | .quote _ _ _ | .extend _ | .linkattest _ | .uekey _ _ | .debugnonce | .debug _ | .pstate _
  | .reset | .coldReset | .warmReset | .powerRemoved | .ideKm _ _ | .lifetimeCounterFlush | .hourPowered | .p3ExitComplete
  | .thermalTrip => true
  | _ => false

/-- Whether an event happens: without power only a cold reset; on a stopped or tripped chip only what Armoire does; in P3 also what
CXL brings. -/
def eventOn (p : Power) (i : Instr) : Bool :=
  match p with
  | .run => true
  | .off => match i with | .coldReset => true | _ => false
  | .stopped | .tripped => armoireRow i
  | .p3 | .p3Leaving => armoireRow i || (match i with
      | .cxlMemRead _ | .cxlMemWrite _ _ | .hostSnoop _ _ | .backInvalidationResponse _ | .registerWrite _ _ _ | .qwrWrite _ _
      | .queueEnable _ _ | .queueDisable _ _ | .lvcancel _ | .invalidationGo _ | .translationInvalidationComplete
      | .scrubRecordComplete => true
      | _ => false)

end Sys2Proof.Machine
end

