-- ==== Sys2Proof/Machine/Combine.lean ====
section
/-! DEFINITION. Where window contributions, sparse pairs and multicast packets arrive (spec/09_atomics_reductions.md R265 to R270,
R273 to R276). -/

namespace Sys2Proof.Machine

/-! Sum windows (R267 to R269). -/

/-- The pod offset of element i of a window. -/
def elemOff (d : WinDesc) (i : Nat) : Nat := d.range % 2 ^ 47 + 4 * i

/-- The listed contributors of every member node, in index order (R265). -/
def contributorsOf (d : WinDesc) : List Nat := (below 176).filter fun c => d.contributors.getLsbD c

/-- The contribution that an element holds for a rank and a contributor. -/
def heldAt (w : Win) (i rank who : Nat) : Option Held :=
  w.held.find? fun h => h.off = i && h.rank = rank && h.contributor = who && h.folded = 0

/-- The node partial that an element holds for a rank (R276). -/
def foldedAt (w : Win) (i rank : Nat) : Option Held := w.held.find? fun h => h.off = i && h.rank = rank && h.folded != 0

/-- Whether every listed contributor of a rank has contributed to an element, one by one or in a node partial (R267). -/
def rankFull (w : Win) (i r : Nat) : Bool := (foldedAt w i r).isSome || (contributorsOf w.d).all fun c => (heldAt w i r c).isSome

/-- Whether every listed contributor of every rank has contributed to an element (R267). -/
def elemFull (w : Win) (i : Nat) : Bool := (below w.d.members.length).all (rankFull w i)

/-- The partial value of a rank: its contributors in index order (R268). -/
def partialOf (w : Win) (i r : Nat) : List Nat :=
  match foldedAt w i r with
  | some h => if w.d.fmt = 1 then [h.value.toNat, h.hi.toNat] else [h.value.toNat]
  | none => match (contributorsOf w.d).filterMap fun c => (heldAt w i r c).map fun h => treeWide w.d.fmt h.value.toNat with
    | [] => []
    | v :: l => l.foldl (treeAdd w.d.fmt) v

/-- The merged value of an element whose home value is `old` (R268). -/
def mergedOf (w : Win) (i old : Nat) : Nat :=
  let n := w.d.members.length
  let t := treeSum w.d.fmt n ((below n).map (partialOf w i))
  treeFin w.d.fmt (if w.d.acc then treeAdd w.d.fmt (treeWide w.d.fmt old) t else t)

/-- The round event is owed once every element has had its merged write of the round (R269). -/
def roundDone (s : State) (id : Nat) : State :=
  let w := winOf s id
  let es := below (w.d.len / 4)
  if w.broken || !es.all w.merged.contains then s
  else oweRound (setWin s id { w with merged := es.foldl List.erase w.merged, rounds := w.rounds + 1 }) id w.d (.count 1 false)

/-- The merged write of element i of a window that holds all its contributions. An element whose home value is damaged is refused (R410). -/
def mergeElem (s : State) (id : Nat) (w : Win) (i : Nat) : Got Unit :=
  match homePlace s w.d (elemOff w.d i) (if w.d.acc then accAtomic else accWrite) 4 with
  | .fault s1 t => .ok (refuseWin s1 id (elemOff w.d i) true t) ()
  | .wait s1 => .wait s1
  | .ok s1 l =>
    match if w.d.acc then spoilAt s1 l 4 else none with
    | some k => .ok (refuseWin s1 id (elemOff w.d i) true { kind := kSpoiled, detail := k }) ()
    | none =>
      let s2 := putMem s1 winName l 0 (leBytes 4 (mergedOf w i (ramNat s1.ram l 4)))
      .ok (roundDone (setWin s2 id { w with held := w.held.filter (fun h => h.off != i), merged := w.merged ++ [i] }) id) ()

/-! Sparse windows (R275). -/

/-- Pairs of one element applied at the home as one event; their count in the round word is another (R275). -/
def applyPairs (s : State) (id i : Nat) (vals : List Word) (overflow : Bool) : Got Unit :=
  let w := winOf s id
  match homePlace s w.d (elemOff w.d i) accAtomic 4 with
  | .fault s1 t => .ok (refuseWin s1 id (elemOff w.d i) true t) ()
  | .wait s1 => .wait s1
  | .ok s1 l =>
    match vals, spoilAt s1 l 4 with
    | [], _ => .ok s1 ()
    | _ :: _, some k => .ok (refuseWin s1 id (elemOff w.d i) true { kind := kSpoiled, detail := k }) ()
    | v :: rest, none =>
      let wide (v : Word) : List Nat := treeWide w.d.fmt v.toNat
      let sum := rest.foldl (fun a x => treeAdd w.d.fmt a (wide x)) (wide v)
      let new := treeFin w.d.fmt (treeAdd w.d.fmt (treeWide w.d.fmt (ramNat s1.ram l 4)) sum)
      .ok (oweRound (putMem s1 winName l 0 (leBytes 4 new)) id w.d (.count vals.length overflow)) ()

/-- The entries that this node's sparse windows have in the merge table of a plane. -/
def planeEntries (s : State) (p : Option Nat) : List (Nat × Nat) :=
  s.fab.wins.flatMap fun e => (e.2.sparse.map fun x => (e.1, x.1.toNat)).filter fun x => portOf s (elemOff e.2.d x.2) = p

/-- The values that the merge table holds for an element. -/
def sparseAt (w : Win) (i : Nat) : Option (List Word) := (w.sparse.find? fun x => x.1.toNat = i).map (·.2)

/-- A merge table entry is written to the home. -/
def flushEntry (s : State) (id i : Nat) : Got Unit :=
  let w := winOf s id
  match sparseAt w i with
  | none => .ok s ()
  | some vals => match applyPairs (setWin s id { w with sparse := w.sparse.filter fun x => x.1.toNat != i }) id i vals false with
    | .ok s1 () => .ok s1 ()
    | .wait s1 => .wait (setWin s1 id w)
    | .fault s1 t => .fault s1 t

/-- A pair at its plane's merge table. Other homes use the table too, so it may be full for this one at any time; a full table gives up
an entry for the pair, or the pair goes on unmerged. -/
def mergePair (s : State) (id i : Nat) (v : Word) : Got Unit :=
  let w := winOf s id
  let entry (t : State) : State :=
    let x := winOf t id
    if x.broken then t else setWin t id { x with sparse := x.sparse ++ [(BitVec.ofNat 32 i, [v])] }
  match sparseAt w i with
  | some _ => .ok (setWin s id { w with sparse := w.sparse.map fun x => if x.1.toNat = i then (x.1, x.2 ++ [v]) else x }) ()
  | none =>
    let es := planeEntries s (portOf s (elemOff w.d i))
    let (a, s1) := draw s
    if es.length < 4096 && Config.freeBit a then .ok (entry s1) ()
    else
      let (b, s2) := draw s1
      if es.isEmpty || Config.freeBit b then applyPairs s2 id i [v] true
      else
        let (c, s3) := draw s2
        let e := es.getD ((Config.freeWord c).toNat % es.length) (0, 0)
        (flushEntry s3 e.1 e.2).bind fun s4 _ => .ok (entry s4) ()

/-- What becomes of a packet of a window: dropped and counted, dropped, on to another home, or taken here (R269, R275, R276). -/
inductive WinRoute where
  | count | drop | away (home : Nat) | here
  deriving DecidableEq, Repr

def routeOf (s : State) (w : Win) (gen : BitVec 16) (i : Nat) : WinRoute :=
  if w.d.kind = 0 || w.d.kind = 2 || w.d.gen != gen || i ≥ w.d.len / 4 then .count
  else if w.broken then .drop
  else if homeHere s w.d then .here
  else .away (homeOf w.d)

/-- A packet of a rank is acknowledged to its node (R270). -/
def ackPacket (s : State) (w : Win) (rank : Nat) (tag : BitVec 16) : State :=
  let node := w.d.members.getD rank 0
  if node = s.fab.node.toNat then s else { s with outbox := s.outbox ++ [.answer node tag .done] }

/-- A pair waits where it is. -/
def keepPair (s : State) (x : SparsePair) : State :=
  if s.fab.sparseFlight.contains x then s else { s with fab := { s.fab with sparseFlight := s.fab.sparseFlight ++ [x] } }

/-- A pair taken at its home. One whose tag is on record is acknowledged and not applied again (R449). -/
def takePair (s : State) (x : SparsePair) (w : Win) : Got Unit :=
  let node := w.d.members.getD x.rank 0
  match s.fab.tagRecs.find? fun r => r.node = node && r.tag = x.tag && node != s.fab.node.toNat with
  | some _ => .ok (ackPacket s w x.rank x.tag) ()
  | none => (mergePair s x.win x.index.toNat x.value).bind fun s1 _ =>
      .ok { ackPacket s1 w x.rank x.tag with
            fab := { s1.fab with tagRecs := if node = s1.fab.node.toNat then s1.fab.tagRecs
                                            else tagKeep s1.fab.tagRecs { node := node, tag := x.tag, msg := .answer node x.tag .done } } } ()

/-- SPARSE_PAIR_ARRIVAL (R275). -/
def execSparsePairArrival (head : PairHead) (gen : BitVec 16) (index value : Word) (s : State) : Host.Outcome State Fault Refusal :=
  .next <|
    let x : SparsePair := { win := head.win, gen := gen, rank := head.rank, tag := head.tag, index := index, value := value }
    let w := winOf s x.win
    let mine := s.fab.sparseFlight.contains x
    let gone : State := { s with fab := { s.fab with sparseFlight := s.fab.sparseFlight.erase x } }
    match routeOf s w x.gen x.index.toNat with
    | .count => dropPacket gone (elemOff w.d x.index.toNat)
    | .drop => gone
    | .away h => if mine then sendPacket gone h (.pair x) else s
    | .here =>
      if x.rank ≥ w.d.members.length then dropPacket gone (elemOff w.d x.index.toNat)
      else match takePair gone x w with
        | .ok t _ => t
        | .wait t => keepPair t x
        | .fault t _ => t

/-- MERGE_TABLE_TIMEOUT (R275): an entry idle for 4 µs. -/
def execMergeTableTimeout (win : Nat) (index : Word) (s : State) : Host.Outcome State Fault Refusal :=
  .next (match flushEntry s win index.toNat with | .ok t _ => t | .wait t => t | .fault t _ => t)

/-! Contributions. -/

/-- A contribution waits at its Trestle (R267). -/
def keepContribution (s : State) (c : Contribution) : State :=
  if s.fab.flight.contains c then s else { s with fab := { s.fab with flight := s.fab.flight ++ [c] } }

/-- What an element holds for the rank of a contribution: its node partial, or the contributor's own value (R270). -/
def heldFor (w : Win) (c : Contribution) : Option Held := (foldedAt w c.off c.rank).or (if c.folded = 0 then heldAt w c.off c.rank c.contributor else none)

/-- A window with a contribution held. -/
def holdIn (w : Win) (c : Contribution) : Win :=
  { w with held := w.held ++ [{ rank := c.rank, contributor := c.contributor, off := c.off, value := c.value, tag := c.tag, folded := c.folded, hi := c.hi }] }

/-- A contribution taken at its home: a second one for the element waits, a repeated tag is acknowledged and discarded (R267, R270). -/
def takeContribution (gone : State) (c : Contribution) (w : Win) : State :=
  let listed : Bool := if c.folded = 0 then w.d.contributors.getLsbD c.contributor else c.folded = (contributorsOf w.d).length
  if c.rank ≥ w.d.members.length || !listed || (w.d.kind = 3 && c.folded != 0) then dropPacket gone (elemOff w.d c.off)
  else if w.d.kind = 3 then
    match takePair gone { win := c.win, gen := c.gen, rank := c.rank, tag := c.tag, index := BitVec.ofNat 32 c.off, value := c.value } w with
    | .ok t _ => t
    | .wait t => keepContribution t c
    | .fault t _ => t
  else match heldFor w c with
    | some h => if h.tag = c.tag then ackPacket gone w c.rank c.tag else keepContribution gone c
    | none =>
      let w1 := holdIn w c
      if elemFull w1 c.off then
        match mergeElem gone c.win w1 c.off with
        | .ok t _ => ackPacket t w c.rank c.tag
        | .wait t => keepContribution t c
        | .fault t _ => t
      else ackPacket (setWin gone c.win w1) w c.rank c.tag

/-- The node partial of a rank that holds every contribution to an element (R268, R276). -/
def nodePartial (s : State) (w : Win) (c : Contribution) : Contribution :=
  let p := partialOf w c.off c.rank
  { c with contributor := 0, folded := (contributorsOf w.d).length, tag := s.fab.nextTag, value := BitVec.ofNat 32 (p.getD 0 0), hi := BitVec.ofNat 32 (p.getD 1 0) }

/-- A contribution of this node at its Trestle, for another home: the last one of the element sends the node partial, and a second one waits for
the merged write (R267, R268). -/
def trestleTake (s gone : State) (c : Contribution) (w : Win) (home : Nat) : State :=
  if w.d.kind = 3 then
    sendPacket gone home (.pair { win := c.win, gen := c.gen, rank := c.rank, tag := c.tag, index := BitVec.ofNat 32 c.off, value := c.value })
  else if (heldFor w c).isSome then s
  else
    let w1 := holdIn w c
    let s1 := setWin gone c.win w1
    if rankFull w1 c.off c.rank then
      sendPacket { s1 with fab := { s1.fab with nextTag := s1.fab.nextTag + 1 } } home (.sum (nodePartial gone w1 c))
    else s1

/-- The merged write of an element at another home is made: what the Trestle holds of it is dropped (R267; log 77). -/
def mergedAway (s : State) (id off : Nat) : State :=
  let w := winOf s id
  if homeHere s w.d then s else setWin s id { w with held := w.held.filter fun h => h.off != off }

/-- CONTRIBUTION_ARRIVAL (R267 to R270). -/
def execContributionArrival (c : Contribution) (s : State) : Host.Outcome State Fault Refusal :=
  .next <|
    let w := winOf s c.win
    let gone : State := { s with fab := { s.fab with flight := s.fab.flight.erase c } }
    match routeOf s w c.gen c.off with
    | .count => dropPacket gone (elemOff w.d c.off)
    | .drop => gone
    | .away h => if s.fab.flight.contains c then trestleTake s gone c w h else s
    | .here => takeContribution gone c w

/-! Multicast (R273, R274). -/

/-- The name of the multicast engine threads' own replicas. -/
def mcName : Nat := 93
def mcAgt (pcid : Nat) : Agt := { uid := mcName, pcid := pcid, core := none, die := 0, gang := 0 }

/-- The place of an offset of a context's pod space on this node (R203). -/
def podAt (s : State) (pcid off : Nat) : Got Loc := (translate s (mcAgt pcid) true off accWrite 0).bind fun s1 p => .ok s1 p.1

/-- Whether this node accepts n bytes at an offset, page by page. -/
def podOk (s : State) (pcid off n : Nat) : Got Unit :=
  (podAt s pcid off).bind fun s1 _ => if off / 4096 = (off + n - 1) / 4096 then .ok s1 () else (podAt s1 pcid (off + n - 1)).bind fun s2 _ => .ok s2 ()

/-- A multicast thread after a change. -/
def modThread (s : State) (uid : Nat) (f : McThread → McThread) : State :=
  { s with fab := { s.fab with mcThreads := s.fab.mcThreads.map fun m => if m.uid = uid then f m else m } }

/-- The next event of this node's own replica (R216, R273): refused as a whole before its first unit, and counted then. -/
def ownReplica (s : State) (m : McThread) (k : Nat) : State :=
  match if k = 0 then podOk s m.pcid m.off m.data.length else .ok s () with
  | .wait s1 => s1
  | .fault s1 _ => endThreads (modThread { s1 with chip := { s1.chip with mcdrop := satInc s1.chip.mcdrop } } m.uid fun x => { x with own := none })
  | .ok s1 () => match podAt s1 m.pcid (m.off + k) with
    | .wait s2 => s2
    | .fault s2 _ => endThreads (modThread { s2 with chip := { s2.chip with mcdrop := satInc s2.chip.mcdrop } } m.uid fun x => { x with own := none })
    | .ok s2 l =>
      let n := unit216 m.off m.data.length k
      match blocked s2 mcName true (linesOf s2.ram l n) with
      | some s3 => s3
      | none =>
        let next := if k + n < m.data.length then some (k + n) else none
        endThreads (modThread (putMem s2 mcName l 0 ((m.data.drop k).take n)) m.uid fun x => { x with own := next })

/-- The entry is read: a packet of another generation is dropped, else a replica goes to each member (R273, R274, R276). -/
def readEntry (s : State) (m : McThread) : State :=
  let e := aget mcNone s.fab.mcast m.grp
  let me := s.fab.node.toNat
  if e.gen != m.gen then dropPacket (endThreads (modThread s m.uid fun x => { x with read := true })) m.off
  else
    let others := (below 512).filter fun n => e.members.getLsbD n && n != me
    let s1 := others.foldl (fun t n => post t m.au m.uid m.pcid n m.off m.data.length (.replica m.grp m.gen m.data)) s
    endThreads (modThread s1 m.uid fun x => { x with read := true, own := if e.members.getLsbD me then some 0 else none })

/-- MULTICAST_PACKET_ARRIVAL (R273, R274): the next event of a multicast thread. -/
def execMulticastPacketArrival (i : Nat) (s : State) : Host.Outcome State Fault Refusal :=
  .next <| match s.fab.mcThreads[i]? with
    | none => s
    | some m =>
      if !m.read then readEntry s m
      else match m.own with
        | some k => ownReplica s m k
        | none => s

end Sys2Proof.Machine
end

