-- ==== Sys2Proof/Machine/HostMem.lean ====
section
/-! DEFINITION. The host's accesses to device memory, its snoops of host lines, and the CXL keys
(spec/14_queue_commands.md R406 to R408; spec/08_sequential_order.md R235, R245; spec/16_protection_links.md R437, R440, R451). -/

namespace Sys2Proof.Machine

/-- Whether a CXL.mem request finds ordinary memory: no carve-out, no frame of a protected or pending region (R408, R463). -/
def cxlOpen (s : State) (a : Nat) : Bool := isHbm a && regionDom s a = 0

/-- CXL_MEM_READ (R408): one aligned 64-byte line, which the host may cache afterwards; damaged data is poisoned (R410). -/
def execCxlMemRead (pa : Nat) (s : State) : Host.Outcome State Fault Refusal :=
  .next <|
    let a := pa / 64 * 64
    if !cxlOpen s a then { s with outbox := s.outbox ++ [.cxl a (List.replicate 64 0) true] }
    else if heldLine s 0 false (linesOf s.ram (hbmLoc a) 64) then s
    else if (spoilAt s (hbmLoc a) 64).isSome then { s with outbox := s.outbox ++ [.cxl a (List.replicate 64 0) true] }
    else { s with outbox := s.outbox ++ [.cxl a (ramRead s.ram (hbmLoc a) 64) false], hostHeld := aset 0 s.hostHeld (a / 64) 1 }

/-- CXL_MEM_WRITE (R408): every device copy is invalidated; a write to memory that is not open is discarded. It waits for holds as any write
does (R243). -/
def execCxlMemWrite (pa : Nat) (data : List Byte) (s : State) : Host.Outcome State Fault Refusal :=
  .next <|
    let a := pa / 64 * 64
    let lines := linesOf s.ram (hbmLoc a) 64
    if !cxlOpen s a || heldLine s 0 true lines then s
    else
      let s0 := { s with hostHeld := aset 0 s.hostHeld (a / 64) 0 }
      let s1 := markClean (putMem s0 0 (hbmLoc a) 0 ((data ++ List.replicate 64 0).take 64)) lines
      { s1 with hostHeld := aset 0 s1.hostHeld (a / 64) (aget 0 s.hostHeld (a / 64)) }

/-- HOST_SNOOP (R245, R407): the host takes ownership of a host line, and `data` is what it writes: the device's copy is invalidated, which is a
conflict for the windows that read it. Without data the host reads it: a copy that the device holds alone is demoted, a conflict too, and a shared
one stays. -/
def execHostSnoop (line : Nat) (data : Option (List Byte)) (s : State) : Host.Outcome State Fault Refusal :=
  .next <|
    let a := line / 64 * 64
    let l : Loc := { sp := .host, a := a }
    let lines := linesOf s.ram l 64
    if a ≥ 2 ^ 48 || heldLine s 0 data.isSome lines then s
    else match data with
      | some d => hostState (markClean (putMem s 0 l 0 ((d ++ List.replicate 64 0).take 64)) lines) 0 lines
      | none => if aget 0 s.hostMesi (a / 128) ≥ 2 then hostState (markClean (markHit s 0 lines) lines) 1 lines else s

/-- BACK_INVALIDATION_RESPONSE (R408): the host has given up the line. -/
def execBackInvalidationResponse (line : Nat) (s : State) : Host.Outcome State Fault Refusal :=
  .next { s with hostHeld := aset 0 s.hostHeld (line / 64) 0 }

/-- IDE_KM (R437, R451): which CXL protocols the host has keyed; the link is sealed when both that carry data are. -/
def execIdeKm (cache mem : Bool) (s : State) : Host.Outcome State Fault Refusal :=
  let s1 := linkBit { s with arm := { s.arm with ideCache := cache, ideMem := mem } } cxlPort 1 (cache && mem)
  .next { s1 with outbox := s1.outbox ++ [.doe 0x100 0 []] }

end Sys2Proof.Machine
end

