-- ==== Sys2Proof/Machine/LaneInt.lean ====
section
/-! DEFINITION. Lane integer instructions (spec/04_lane_integer.md R116 to R133). -/

namespace Sys2Proof.Machine

/-- Whether the type selects unsigned reading: .z32, or .z8 for IDOT4 and ISAD (R117). -/
def unsTy (t : Ty) : Bool := t = .z32 || t = .z8

/-- x reduced to a word: saturated for `.sat`, else wrapped (R118). -/
def reduceI (m : AMods) (x : Int) : Word := if m.sat then BitVec.ofInt 32 (clampT (unsTy m.ty) x) else wrapI x

/-- t(x) under an instruction's type. -/
def tOf (m : AMods) (x : Word) : Int := tI (unsTy m.ty) x

/-- The output of an I-form. -/
def LX.outI (x : LX) (h : IHdr) (row : Row) (stick : Word) : LFin := .ret x.s (outRows h.dst h.lat h.nowb x.act [row] stick)

/-- LNOP changes nothing (R117). -/
def execLnop (_pred : KReg) (_neg : Bool) (s : State) : Host.Outcome State Fault Refusal := laneStep s fun x => .ret x.s noOut

/-- MOV (R118). -/
def execMov (h : LaneHdr) (_m : AMods) (s : State) : Host.Outcome State Fault Refusal := laneStep s fun x => x.map1 h id

/-- MOVI (R118). -/
def execMovi (h : IHdr) (imm : Word) (_m : BitVec 3) (s : State) : Host.Outcome State Fault Refusal :=
  laneStep s fun x => x.outI h (rowOf imm) 0

/-- IADD, ISUB (R118). -/
def execIadd (h : LaneHdr) (m : AMods) (s : State) : Host.Outcome State Fault Refusal :=
  laneStep s fun x => x.map2 h fun a b => reduceI m (tOf m a + tOf m b)
def execIsub (h : LaneHdr) (m : AMods) (s : State) : Host.Outcome State Fault Refusal :=
  laneStep s fun x => x.map2 h fun a b => reduceI m (tOf m a - tOf m b)

/-- IADDI: bit 0 of the modifiers is `.sat`, bit 1 `.z32` (R117, R118). -/
def execIaddi (h : IHdr) (imm : Word) (m : BitVec 3) (s : State) : Host.Outcome State Fault Refusal :=
  laneStep s fun x =>
    let a := x.src 0 h.a
    let uns := m.getLsbD 1
    x.outI h (rowFn fun l =>
      let v := tI uns (rl a.1 l) + tI uns imm
      if m.getLsbD 0 then BitVec.ofInt 32 (clampT uns v) else wrapI v) (poisonBits [a.2])

/-- IMUL (R119). -/
def execImul (h : LaneHdr) (m : AMods) (s : State) : Host.Outcome State Fault Refusal :=
  laneStep s fun x => x.map2 h fun a b => reduceI m (tOf m a * tOf m b)

/-- IMULH (R119). -/
def execImulh (h : LaneHdr) (m : AMods) (s : State) : Host.Outcome State Fault Refusal :=
  laneStep s fun x => x.map2 h fun a b => hi32 (modPow (tOf m a * tOf m b) 64)

/-- IMAD (R119). -/
def execImad (h : LaneHdr) (m : AMods) (s : State) : Host.Outcome State Fault Refusal :=
  laneStep s fun x => x.map3 h fun a b c => reduceI m (tOf m a * tOf m b + tOf m c)

/-- IMADW: a pair, low word first (R119). -/
def execImadw (h : LaneHdr) (m : AMods) (s : State) : Host.Outcome State Fault Refusal :=
  laneStep s fun x =>
    let a := x.src 0 h.a
    let b := x.src 1 h.b
    let c := x.src 2 h.c
    let v (l : Nat) : Nat := modPow (tOf m (rl a.1 l) * tOf m (rl b.1 l) + tOf m (rl c.1 l)) 64
    x.outPair h (rowFn fun l => lo32 (v l)) (rowFn fun l => hi32 (v l)) (poisonBits [a.2, b.2, c.2])

/-- IABS (R120). -/
def execIabs (h : LaneHdr) (m : AMods) (s : State) : Host.Outcome State Fault Refusal :=
  laneStep s fun x => x.map1 h fun a =>
    if a = 0x80000000 then (if m.sat then 0x7FFFFFFF else 0x80000000) else wrapI (if sI a < 0 then -(sI a) else sI a)

/-- IMIN, IMAX (R120). -/
def execImin (h : LaneHdr) (m : AMods) (s : State) : Host.Outcome State Fault Refusal :=
  laneStep s fun x => x.map2 h fun a b => if tOf m a ≤ tOf m b then a else b
def execImax (h : LaneHdr) (m : AMods) (s : State) : Host.Outcome State Fault Refusal :=
  laneStep s fun x => x.map2 h fun a b => if tOf m a ≥ tOf m b then a else b

/-- AND, OR, XOR (R122). -/
def execAndLane (h : LaneHdr) (_m : AMods) (s : State) : Host.Outcome State Fault Refusal :=
  laneStep s fun x => x.map2 h fun a b => a &&& b
def execOrLane (h : LaneHdr) (_m : AMods) (s : State) : Host.Outcome State Fault Refusal :=
  laneStep s fun x => x.map2 h fun a b => a ||| b
def execXorLane (h : LaneHdr) (_m : AMods) (s : State) : Host.Outcome State Fault Refusal :=
  laneStep s fun x => x.map2 h fun a b => a ^^^ b

/-- The operations of BOOL3 (R122). -/
def boolOp (code : Nat) (x y : Word) : Word :=
  match code with
  | 0 => x &&& y | 1 => x ||| y | 2 => x ^^^ y | 3 => x &&& ~~~y
  | 4 => x ||| ~~~y | 5 => ~~~(x &&& y) | 6 => ~~~(x ||| y) | _ => ~~~(x ^^^ y)

/-- BOOL3: op1 in bits 2..0 of the extra modifiers, op2 in bits 5..3 (R117, R122). -/
def execBool3 (h : LaneHdr) (m : AMods) (s : State) : Host.Outcome State Fault Refusal :=
  laneStep s fun x => x.map3 h fun a b c => boolOp (mfld m.x.toNat 3 3) (boolOp (mfld m.x.toNat 0 3) a b) c

/-- SHL, SHR, SAR: the count is B[7..0] (R123). -/
def execShlLane (h : LaneHdr) (_m : AMods) (s : State) : Host.Outcome State Fault Refusal :=
  laneStep s fun x => x.map2 h fun a b => a <<< (b.toNat % 256)
def execShrLane (h : LaneHdr) (_m : AMods) (s : State) : Host.Outcome State Fault Refusal :=
  laneStep s fun x => x.map2 h fun a b => a >>> (b.toNat % 256)
def execSarLane (h : LaneHdr) (_m : AMods) (s : State) : Host.Outcome State Fault Refusal :=
  laneStep s fun x => x.map2 h fun a b => BitVec.sshiftRight a (b.toNat % 256)

/-- WSHIFT (R123). -/
def wshift (left clamp : Bool) (a b c : Word) : Word :=
  let n := if clamp then min c.toNat 32 else c.toNat % 32
  let w := pair64 a b
  if left then hi32 (w * 2 ^ n % 2 ^ 64) else lo32 (w / 2 ^ n)
def execWshift (h : LaneHdr) (m : AMods) (s : State) : Host.Outcome State Fault Refusal :=
  laneStep s fun x => x.map3 h (wshift (m.x.getLsbD 0) (m.x.getLsbD 1))

/-- EXTR (R124). -/
def extrW (uns : Bool) (a b c : Word) : Word :=
  let p := b.toNat % 256
  let n := min (c.toNat % 256) 32
  let v : Int := if uns then uI a else sI a
  let f := modPow (v / 2 ^ p) n
  if n = 0 then 0 else if uns then BitVec.ofNat 32 f else sext n f
def execExtr (h : LaneHdr) (m : AMods) (s : State) : Host.Outcome State Fault Refusal :=
  laneStep s fun x => x.map3 h (extrW (m.ty != .s32))

/-- INSR (R124). -/
def insrW (a b c : Word) : Word :=
  let p := b.toNat % 256
  let n := min (b.toNat / 256 % 256) 32
  if p ≥ 32 then c
  else
    let mask : Word := BitVec.ofNat 32 ((2 ^ (min (p + n) 32 - p) - 1) * 2 ^ p)
    (c &&& ~~~mask) ||| ((a <<< p) &&& mask)
def execInsr (h : LaneHdr) (_m : AMods) (s : State) : Host.Outcome State Fault Refusal := laneStep s fun x => x.map3 h insrW

/-- POPC, CLZ, BITREV (R125). -/
def execPopcLane (h : LaneHdr) (_m : AMods) (s : State) : Host.Outcome State Fault Refusal :=
  laneStep s fun x => x.map1 h fun a => BitVec.ofNat 32 (popWord a)
def execClzLane (h : LaneHdr) (_m : AMods) (s : State) : Host.Outcome State Fault Refusal :=
  laneStep s fun x => x.map1 h fun a => BitVec.ofNat 32 (clzWord a)
def execBitrev (h : LaneHdr) (_m : AMods) (s : State) : Host.Outcome State Fault Refusal :=
  laneStep s fun x => x.map1 h BitVec.reverse

/-- BSWZ (R125). -/
def bswzW (a b c : Word) : Word :=
  let src (i : Nat) : Nat := nbits (pair64 a b) (8 * nbits c.toNat (3 * i) 3) 8
  let one (i prev : Nat) : Nat :=
    if c.getLsbD (12 + i) then 0
    else if c.getLsbD (16 + i) then (if (if i = 0 then src 0 else prev) ≥ 128 then 255 else 0)
    else src i
  let d0 := one 0 0
  let d1 := one 1 d0
  let d2 := one 2 d1
  let d3 := one 3 d2
  BitVec.ofNat 32 (d0 + d1 * 2 ^ 8 + d2 * 2 ^ 16 + d3 * 2 ^ 24)
def execBswz (h : LaneHdr) (_m : AMods) (s : State) : Host.Outcome State Fault Refusal := laneStep s fun x => x.map3 h bswzW

/-- ICMP (R126). -/
def execIcmp (h : LaneHdr) (m : AMods) (s : State) : Host.Outcome State Fault Refusal :=
  laneStep s fun x =>
    let a := x.src 0 h.a
    let b := x.src 1 h.b
    x.outBool h (fun l => icmpCond (mfld m.x.toNat 0 3) (tOf m (rl a.1 l)) (tOf m (rl b.1 l))) (poisonBits [a.2, b.2])

/-- SEL: the k register is in bits 3..0 of the extra modifiers (R127). -/
def execSelLane (h : LaneHdr) (m : AMods) (s : State) : Host.Outcome State Fault Refusal :=
  laneStep s fun x =>
    let a := x.src 0 h.a
    let b := x.src 1 h.b
    let k := kGet x.g.g (mfld m.x.toNat 0 4)
    x.out h (rowFn fun l => if lane k l then rl a.1 l else rl b.1 l) (poisonBits [a.2, b.2])

/-- The bytes of a word as exact integers. -/
def byteI (signed : Bool) (w : Word) (i : Nat) : Int :=
  if signed then sgn 8 (nbits w.toNat (8 * i) 8) else (nbits w.toNat (8 * i) 8 : Int)

/-- IDOT4 (R121). -/
def idot4 (uns mix sat : Bool) (a b c : Word) : Word :=
  let sum := (below 4).foldl (fun t i => t + byteI (!uns) a i * byteI (!uns && !mix) b i) (tI uns c)
  if sat then BitVec.ofInt 32 (clampT uns sum) else wrapI sum
def execIdot4 (h : LaneHdr) (m : AMods) (s : State) : Host.Outcome State Fault Refusal :=
  laneStep s fun x => x.map3 h (idot4 (m.ty = .z8) (m.x.getLsbD 0) m.sat)

/-- ISAD (R121). -/
def isad (bytes : Bool) (a b c : Word) : Word :=
  let d (p q : Int) : Int := if p < q then q - p else p - q
  wrapI (if bytes then (below 4).foldl (fun t i => t + d (byteI false a i) (byteI false b i)) (uI c) else d (uI a) (uI b) + uI c)
def execIsad (h : LaneHdr) (m : AMods) (s : State) : Host.Outcome State Fault Refusal :=
  laneStep s fun x => x.map3 h (isad (m.ty = .z8))

/-! Neighbour links (R128 to R132). -/

/-- The number of groups of a group's workgroup. -/
def groupCount (s : State) (g : Grp) : Nat :=
  if g.task then 1 else match lnchBy s g.launch with | some l => max l.kd.groups 1 | none => 1

/-- The group of an index in the same workgroup, ended or not. -/
def grpIdx (s : State) (g : Grp) (i : Nat) : Option Grp := s.grps.find? fun h => h.wg = g.wg && !h.task && h.gidx = i

/-- Whether a ring neighbour lets the NBR of number n go on: it has posted n, or has ended. -/
def nbrReady (s : State) (g : Grp) (n : Word) (i : Nat) : Bool :=
  match grpIdx s g i with
  | some h => h.ended || h.posts.any (·.n = n)
  | none => true

/-- The value that the edge lane reads from group i at number n, with its poison; none for the fill. -/
def nbrEdge (s : State) (g : Grp) (n : Word) (left : Bool) (i : Nat) : Option (Word × Bool) :=
  match grpIdx s g i with
  | some h => (h.posts.find? (·.n = n)).map fun p => (if left then p.hi else p.lo, p.dead)
  | none => none

/-- The result of NBR: neighbours within the group, and the edge value. -/
def nbrRow (left : Bool) (a : Row) (edge : Word) : Row :=
  rowFn fun l => if left then (if l = 0 then edge else rl a (l - 1)) else (if l = 95 then edge else rl a (l + 1))

/-- NBR: bit 0 of the extra modifiers is `.R`, bits 2..1 the mode (R117, R129, R130). The linked modes are irrevocable in a
workgroup of more than one group (R241); in one of one group R130 does not apply and they act as `.grp` (R129; log 68). -/
def execNbr (h : LaneHdr) (m : AMods) (s : State) : Host.Outcome State Fault Refusal :=
  laneStep s fun x => x.groupWide <|
    let left := !m.x.getLsbD 0
    let mode := mfld m.x.toNat 1 2
    let e := if left then 0 else 95
    let cnt := groupCount x.s x.g
    if mode = 1 then
      let a := x.src 0 h.a
      x.out h (nbrRow left a.1 (rl a.1 (95 - e))) (poisonBits [a.2])
    else if cnt = 1 then
      let a := x.src 0 h.a
      let b := x.src 1 h.b
      x.out h (nbrRow left a.1 (if mode = 2 then rl a.1 (95 - e) else rl b.1 e)) (poisonBits [a.2, b.2])
    else
      x.irrevocable fun y =>
        let g0 := y.g
        let a := y.src 0 h.a
        let b := y.src 1 h.b
        let n := g0.g.nbrSeq + 1
        let g1 : Grp := if g0.g.nbrPosted then g0 else
          { g0 with g := { g0.g with nbrPosted := true },
                    posts := (g0.posts.filter fun p => p.n + 1 = n) ++ [{ n := n, lo := rl a.1 0, hi := rl a.1 95, dead := a.2 }] }
        let s2 := setGrp y.s g1
        let lo := (g1.gidx + cnt - 1) % cnt
        let hi := (g1.gidx + 1) % cnt
        if !(nbrReady s2 g1 n lo && nbrReady s2 g1 n hi) then .again s2
        else
          let there : Bool := mode = 2 || (if left then g1.gidx != 0 else g1.gidx + 1 < cnt)
          let v := if there then nbrEdge s2 g1 n left (if left then lo else hi) else none
          let g2 : Grp := { g1 with g := { g1.g with nbrSeq := n, nbrPosted := false } }
          let z : LX := { y with s := setGrp s2 g2, g := g2 }
          let edge := match v with | some p => p.1 | none => rl b.1 e
          let dead := match v with | some p => p.2 && lane x.act e | none => false
          z.out h (nbrRow left a.1 edge) (poisonBits [a.2, b.2, dead])

/-- LBCAST (R133). -/
def execLbcast (h : LaneHdr) (_m : AMods) (s : State) : Host.Outcome State Fault Refusal :=
  laneStep s fun x => x.groupWide <|
    let a := x.src 0 h.a
    let b := x.src 1 h.b
    let j := (rl b.1 0).toNat % 128
    x.out h (rowOf (if j ≥ 96 then 0 else rl a.1 j)) (poisonBits [a.2, b.2])

end Sys2Proof.Machine
end

