-- ==== Sys2Proof/Machine/Traps.lean ====
section
/-! DEFINITION. Trap, region and pre-emption instructions, first-touch mapping, and the scalar words that trap where they stand
(spec/15_traps_contexts.md R412 to R421, R429; spec/02_instruction_words.md R60, R65; spec/03_scalar_stream.md R89). -/

namespace Sys2Proof.Machine

/-! Words that trap at decode or fetch. -/

/-- ILLEGAL_SCALAR_WORD: the trap of a scalar word that R60 to R65 refuse. -/
def execIllegalScalarWord (_w : Word) (code : Nat) (s : State) : Host.Outcome State Fault Refusal :=
  scalarStep s fun _ _ => illegal s code

/-- SCALAR_FETCH_FAULT (R89): the trap of a failing instruction fetch, with the PCC in the record. -/
def execScalarFetchFault (kind detail : Nat) (addr : DWord) (home : Bool) (s : State) : Host.Outcome State Fault Refusal :=
  scalarStep s fun _ x => .trap s
    { kind := kind, detail := detail, access := accFetch, addr := addr.toNat, home := home, cap := x.pcc,
      missing := if kind = kCap && detail = 3 then (lowestMissing x.pcc [pEXEC, pREMOTE]).getD pEXEC else 0 }

/-! TRAP, TRET, FREC (R415 to R417). -/

/-- An irrevocable instruction that an open region admits: it commits and joins multicast threads as the others do (R241, R429). -/
def commitJoin (s : State) (g : Grp) (x : Split) (f : State → Grp → Split → Fin) : Fin :=
  committed s g x fun s g x => if mcastBusy s g.uid then .again s else f s g x

/-- TRAP (R416). -/
def execTrap (code : BitVec 12) (s : State) : Host.Outcome State Fault Refusal :=
  scalarStep s fun g x => commitJoin s g x fun s _ _ => .trap s { kind := kSoftware, detail := 0, w16 := code.zeroExtend 32 }

/-- Whether a split that the handler created is live (R413). -/
def handlerSplits (g : Grp) (x : Split) : Bool := g.g.splits.any fun y => y.idx != x.idx && y.st != .handler

/-- TRET in its four forms (R415). -/
def tret (skip keepS1 : Bool) (s : State) : Host.Outcome State Fault Refusal :=
  scalarStep s fun g x =>
    match g.frame with
    | none => illegal s 10
    | some _ =>
      if handlerSplits g x then illegal s 10
      else irrevocable s g x fun s g x =>
        match g.frame with
        | none => illegal s 10
        | some f =>
          let start (b : LaneBlock) : Option Nat := (runOf b.words b.next).map (·.1)
          let s1 := if f.engine then (if skip then endOp s g f else resumeOp s g f) else s
          match grpOf s1 g.uid with
          | none => .gone s1
          | some g1 => .gone (setGrp s1 { g1 with g := tretCore g1.g f x.idx skip keepS1 start fun b => killsAt b.words b.next, frame := none })

/-- TRET and TRET.s1. -/
def execTret (s1 : Bool) (s : State) : Host.Outcome State Fault Refusal := tret false s1 s
/-- TRET.skip and TRET.skip.s1. -/
def execTretSkip (s1 : Bool) (s : State) : Host.Outcome State Fault Refusal := tret true s1 s

/-- A read of the fault record, in the handler only (R413, R417). -/
def frecStep (s : State) (f : State → Grp → Split → Fin) : Host.Outcome State Fault Refusal :=
  scalarStep s fun g x => if g.frame.isNone then illegal s 10 else irrevocable s g x f

/-- FREC. -/
def execFrec (sd : SReg) (i : BitVec 5) (s : State) : Host.Outcome State Fault Refusal :=
  frecStep s fun s g _ => .set s sd (g.frec.getD i.toNat 0)

/-- FREC.cap. -/
def execFrecCap (cd : CReg) (s : State) : Host.Outcome State Fault Refusal :=
  frecStep s fun s g x => .ok (putC s g x cd (recCap g))

/-! IDEMB, IDEME (R429). -/

/-- IDEMB. -/
def execIdemb (sa : SReg) (s : State) : Host.Outcome State Fault Refusal :=
  scalarStep s fun g x => commitJoin s g x fun s g x =>
    if g.g.splits.length > 1 then .trap s { kind := kDiverge, detail := 0 }
    else if g.g.compact.isSome then .trap s { kind := kPartial, detail := 0 }
    else .ok (setGrp s { g with region := some (regionOf g x (nextPcc x) (sGet x sa)) })

/-- IDEME. -/
def execIdeme (s : State) : Host.Outcome State Fault Refusal :=
  scalarStep s fun g x => commitJoin s g x fun s g _ => .ok (setGrp s { g with region := none })

/-! PRMPT (R421). -/

/-- PRMPT. A task belongs to no gang and is never selected (log 27). -/
def execPrmpt (sd : SReg) (s : State) : Host.Outcome State Fault Refusal :=
  scalarStep s fun g x => commitJoin s g x fun s g _ =>
    .set s sd (match if g.task then none else gangBy s g.gang with | some y => if y.request then 1 else 0 | none => 0)

/-- PRMPT.now: the instruction retires, then the save begins. -/
def execPrmptNow (s : State) : Host.Outcome State Fault Refusal :=
  scalarStep s fun g x => commitJoin s g x fun s g x =>
    let c := stampSplit (g.g.modSplit x.idx fun y => { y with pcc := nextPcc y }) x.idx
    let s1 := setGrp s (tickSolo { g with g := c })
    .gone (if g.task then s1 else saveGang s1 g.gang)

/-! PGMAP (R419, R420). -/

/-- A frame pool descriptor. -/
structure Pool where
  list : Nat
  count : Nat
  taken : Nat
  tmpl : Nat
  size : Nat
  zeros : Bool

/-- The pool descriptor at a physical address. -/
def poolAt (r : Ram) (a : Nat) : Pool :=
  let n (k w : Nat) : Nat := ramNat r (hbmLoc (a + k)) w
  { list := n 0 8, count := n 8 4, taken := n 12 4, tmpl := n 16 8, size := n 24 1, zeros := (ramRead r (hbmLoc (a + 25)) 39).all (· = 0) }

/-- A page size code as the level of its entries, their number, the RUN code and the size (R200, R402). -/
def sizeForm (k : Nat) : Nat × Nat × Nat × Nat :=
  match k with
  | 0 => (3, 1, 0, 2 ^ 12) | 1 => (3, 16, 1, 2 ^ 16) | 2 => (3, 64, 2, 2 ^ 18) | 3 => (2, 1, 0, 2 ^ 21) | 4 => (2, 16, 1, 2 ^ 25)
  | 5 => (2, 256, 2, 2 ^ 29) | _ => (1, 1, 0, 2 ^ 34)

/-- A template that holds only RD, WR, EX, SCOPE, UC and KEY, with a legal SCOPE. -/
def tmplOk (t : Nat) : Bool :=
  let sc := nbits t 7 3
  nbits t 0 4 = 0 && nbits t 10 1 = 0 && nbits t 12 36 = 0 && nbits t 54 10 = 0 && 1 ≤ sc && sc ≤ 5

/-- The table whose entries map an address at a level, reached through present table entries (R199, R202). -/
def tableAt (s : State) (dom va level : Nat) : Nat → Nat → Nat → Option Nat
  | 0, _, _ => none
  | fuel + 1, tab, l =>
    if !isHbm tab || !(regionDom s tab = 0 || regionDom s tab = dom) then none
    else if l = level then some tab
    else
      let (shift, bits) := match l with | 0 => (47, 9) | 1 => (34, 13) | _ => (21, 13)
      let raw := ramNat s.ram (hbmLoc (tab + 8 * nbits va shift bits)) 8
      if nbits raw 0 2 != 1 || nbits raw 2 10 != 0 || nbits raw 48 16 != 0 then none
      else tableAt s dom va level fuel (nbits raw 12 36 * 4096) (l + 1)

/-- The addresses of the entries of the page at va of a size code. -/
def pageEntries (s : State) (c : CtxDesc) (va size : Nat) : Option (List Nat) :=
  let (level, n, _, _) := sizeForm size
  (tableAt s c.key va level 4 c.root 0).map fun tab =>
    let (shift, bits) := match level with | 1 => (34, 13) | 2 => (21, 13) | _ => (12, 9)
    (below n).map fun j => tab + 8 * (nbits va shift bits / n * n + j)

/-- Device memory with n bytes from an address, and their tags, set to 0. -/
def zeroRange (s : State) (a n : Nat) : State :=
  let inside (k : Nat) : Bool := a ≤ k && k < a + n
  let s1 := markDirty s ((((s.ram.hbm.filter fun e => inside e.1).map fun e => e.1 / 128 * 128).eraseDups).map hbmLoc)
  let r := { s1.ram with hbm := s1.ram.hbm.filter fun e => !inside e.1, tags := s1.ram.tags.filter fun e => !inside (16 * e.1) }
  let r1 := (r.maps.filter fun m => m.pa < a + n && a < m.pa + m.len).foldl (fun t m =>
    let lo := max a m.pa
    ramWrite t (hbmLoc lo) 0 (List.replicate (min (a + n) (m.pa + m.len) - lo) 0)) r
  let hit (l : Loc) : Bool := (l.sp = .hbm && inside l.a) ||
    r.maps.any fun m => l.sp = .pad m.wg && m.off ≤ l.a && l.a < m.off + m.len && inside (m.pa + (l.a - m.off))
  hitReads { s1 with ram := bumpVers r1 (hbmLoc a) n } hit

/-- The frame pool event of R420: raised once until the count changes. -/
def poolEmpty (s : State) (pcid pool count : Nat) : State :=
  if aget 0 s.chip.poolEvent pcid = BitVec.ofNat 32 (count + 1) then s
  else raiseEvent { s with chip := { s.chip with poolEvent := aset 0 s.chip.poolEvent pcid (BitVec.ofNat 32 (count + 1)) } } 5 pcid 0 (leBytes 8 pool)

/-- A PAGEFAULT of PGMAP. -/
def pgFault (x : Cap) (detail : Nat) : TrapInfo := { xlFault kPage detail accMap (cAddr x) false with cap := x }

/-- The checks of PGMAP in order: the pool, the page and its entries. -/
def pgmapCheck (s : State) (pcid : Nat) (x : Cap) : Except TrapInfo (Pool × Nat × List Nat) :=
  let c := ctxOf s pcid
  let p := poolAt s.ram c.pool
  if !c.valid || c.pool = 0 || !isHbm c.pool || p.size > 6 then .error (pgFault x 11)
  else
    let (_, _, _, bytes) := sizeForm p.size
    let base := cAddr x / bytes * bytes
    match checkPerms x [pMAP] (cAddr x) accMap with
    | .error t => .error t
    | .ok () =>
      if cSP x || isAperture (cAddr x) || !(capBase x ≤ base && (base + bytes : Nat) ≤ capTop x) then .error (capFault x 4 (cAddr x) accMap)
      else
        let f := ramNat s.ram (hbmLoc (p.list + 8 * p.taken)) 8
        let frameBad : Bool := p.taken != p.count && (f % bytes != 0 || !isHbm f || !isHbm (f + bytes - 1) || f / 2 ^ 48 != 0)
        if !p.zeros || !tmplOk p.tmpl || p.list % 8 != 0 || !isHbm (p.list + 8 * p.taken) || frameBad then .error (pgFault x 11)
        else
          let okE (a : Nat) : Bool :=
            let e := ramNat s.ram (hbmLoc a) 8
            if e % 2 = 1 then nbits e 10 1 = 1 || isHbm (nbits e 12 36 * 4096) else nbits e 62 1 = 1
          match pageEntries s c base p.size with
          | none => .error (pgFault x 10)
          | some es => if es.all okE then .ok (p, base, es) else .error (pgFault x 10)

/-- Whether a group has to wait before it clears a page of device memory: for a store that has not drained, another node's hold or the host's copies
(R242, R243, R408). -/
def rangeBlocked (s : State) (uid a n : Nat) : Bool :=
  (s.drains.any fun d => d.group != uid && d.line.sp = .hbm && a ≤ d.line.a && d.line.a < a + n)
  || (s.fab.holds.any fun h => a ≤ 4096 * h.sub && 4096 * h.sub < a + n) || s.hostHeld.any fun e => a ≤ 64 * e.1 && 64 * e.1 < a + n

/-- The host's copies of a page are taken from it, and the snoops for those that none is out for (R408). -/
def askRange (s : State) (a n : Nat) : State :=
  askHost s ((s.hostHeld.filter fun e => a ≤ 64 * e.1 && 64 * e.1 < a + n).map fun e => lineOf (hbmLoc (64 * e.1)))

/-- A remembered entry of a page of a context's own tables is forgotten (R206). -/
def forgetPage (s : State) (pcid base n : Nat) : State :=
  { s with tlb := s.tlb.filter fun e => !(e.pcid = pcid && !e.pod && e.base < base + n && base < e.base + e.size) }

/-- PGMAP. Its entries take effect at once (R206). -/
def execPgmap (ca : CReg) (sb : SReg) (s : State) : Host.Outcome State Fault Refusal :=
  scalarStep s fun g x => irrevocable s g x fun s g x =>
    let pcid := pcidOf s g.launch
    let c := ctxOf s pcid
    match pgmapCheck s pcid (cGet x ca) with
    | .error t => .trap s t
    | .ok (p, base, es) =>
      let used := (c.pool :: es).map fun a => lineOf (hbmLoc a)
      match blocked s g.uid true used with
      | some s1 => .again s1
      | none =>
      if es.all fun a => ramNat s.ram (hbmLoc a) 8 % 2 = 1 then .set s sb 1
      else if p.taken = p.count then .set (poolEmpty s pcid c.pool p.count) sb 2
      else
        let (level, _, run, bytes) := sizeForm p.size
        let f := ramNat s.ram (hbmLoc (p.list + 8 * p.taken)) 8
        if rangeBlocked s g.uid f bytes then .again (askRange s f bytes)
        else
        let s1 := putMem s g.uid (hbmLoc (c.pool + 12)) 0 (leBytes 4 ((p.taken + 1) % 2 ^ 32))
        let entry (j : Nat) : Nat := p.tmpl + 3 + run * 4 + (f / 4096 + j * (levelSize level / 4096)) * 4096
        let s2 := (es.zip (below es.length)).foldl (fun t e => putMem t g.uid (hbmLoc e.1) 0 (leBytes 8 (entry e.2))) s1
        .set (forgetPage (zeroRange s2 f bytes) pcid base bytes) sb 0

end Sys2Proof.Machine
end

