-- ==== Sys2Proof/Machine/Dispatch.lean ====
section
/-! DEFINITION. The meaning of every instruction: one arm per constructor of Instr. -/

namespace Sys2Proof.Machine

def exec (i : Instr) (s : State) : Host.Outcome State Fault Refusal :=
  match i with
  | .snop => Sys2Proof.Machine.execSnop s
  | .br off => Sys2Proof.Machine.execBr off s
  | .brc cond sa off => Sys2Proof.Machine.execBrc cond sa off s
  | .brk cond ka off => Sys2Proof.Machine.execBrk cond ka off s
  | .bdiv neg ka off => Sys2Proof.Machine.execBdiv neg ka off s
  | .merge => Sys2Proof.Machine.execMerge s
  | .call off => Sys2Proof.Machine.execCall off s
  | .calli cd ca => Sys2Proof.Machine.execCalli cd ca s
  | .ret ca => Sys2Proof.Machine.execRet ca s
  | .jmpi ca sb => Sys2Proof.Machine.execJmpi ca sb s
  | .execBlk len off => Sys2Proof.Machine.execExecBlk len off s
  | .execwBlk len off => Sys2Proof.Machine.execExecwBlk len off s
  | .lcb ca => Sys2Proof.Machine.execLcb ca s
  | .lcbGet cd => Sys2Proof.Machine.execLcbGet cd s
  | .compact sd sa => Sys2Proof.Machine.execCompact sd sa s
  | .uncompact sd => Sys2Proof.Machine.execUncompact sd s
  | .yieldS sa => Sys2Proof.Machine.execYieldS sa s
  | .exit => Sys2Proof.Machine.execExit s
  | .splitq sd => Sys2Proof.Machine.execSplitq sd s
  | .dbnz sa off => Sys2Proof.Machine.execDbnz sa off s
  | .vread sd sa sb => Sys2Proof.Machine.execVread sd sa sb s
  | .vwrite sd sa sb => Sys2Proof.Machine.execVwrite sd sa sb s
  | .add sd sa sb sat => Sys2Proof.Machine.execAdd sd sa sb sat s
  | .sub sd sa sb sat => Sys2Proof.Machine.execSub sd sa sb sat s
  | .addi sd sa imm => Sys2Proof.Machine.execAddi sd sa imm s
  | .mul sd sa sb => Sys2Proof.Machine.execMul sd sa sb s
  | .mulh sd sa sb uns => Sys2Proof.Machine.execMulh sd sa sb uns s
  | .and sd sa sb => Sys2Proof.Machine.execAnd sd sa sb s
  | .or sd sa sb => Sys2Proof.Machine.execOr sd sa sb s
  | .xor sd sa sb => Sys2Proof.Machine.execXor sd sa sb s
  | .andi sd sa imm => Sys2Proof.Machine.execAndi sd sa imm s
  | .ori sd sa imm => Sys2Proof.Machine.execOri sd sa imm s
  | .xori sd sa imm => Sys2Proof.Machine.execXori sd sa imm s
  | .shl sd sa sb => Sys2Proof.Machine.execShl sd sa sb s
  | .shr sd sa sb => Sys2Proof.Machine.execShr sd sa sb s
  | .sar sd sa sb => Sys2Proof.Machine.execSar sd sa sb s
  | .shli sd sa n => Sys2Proof.Machine.execShli sd sa n s
  | .shri sd sa n => Sys2Proof.Machine.execShri sd sa n s
  | .sari sd sa n => Sys2Proof.Machine.execSari sd sa n s
  | .rori sd sa n => Sys2Proof.Machine.execRori sd sa n s
  | .min sd sa sb uns => Sys2Proof.Machine.execMin sd sa sb uns s
  | .max sd sa sb uns => Sys2Proof.Machine.execMax sd sa sb uns s
  | .slt sd sa sb uns => Sys2Proof.Machine.execSlt sd sa sb uns s
  | .slti sd sa imm => Sys2Proof.Machine.execSlti sd sa imm s
  | .lui sd imm => Sys2Proof.Machine.execLui sd imm s
  | .clz sd sa => Sys2Proof.Machine.execClz sd sa s
  | .popc sd sa => Sys2Proof.Machine.execPopc sd sa s
  | .sel sd sa sb sc => Sys2Proof.Machine.execSel sd sa sb sc s
  | .div sd sa sb rem uns => Sys2Proof.Machine.execDiv sd sa sb rem uns s
  | .kmov kd sa beat => Sys2Proof.Machine.execKmov kd sa beat s
  | .skmov sd ka beat => Sys2Proof.Machine.execSkmov sd ka beat s
  | .kop kd ka kb op => Sys2Proof.Machine.execKop kd ka kb op s
  | .kpopc sd ka all => Sys2Proof.Machine.execKpopc sd ka all s
  | .kfirst sd ka last => Sys2Proof.Machine.execKfirst sd ka last s
  | .smov sd code => Sys2Proof.Machine.execSmov sd code s
  | .smovWrite sa code => Sys2Proof.Machine.execSmovWrite sa code s
  | .smovw sd sa n => Sys2Proof.Machine.execSmovw sd sa n s
  | .sld sd ca imm => Sys2Proof.Machine.execSld sd ca imm s
  | .sst sd ca imm => Sys2Proof.Machine.execSst sd ca imm s
  | .sldc cd ca sb f => Sys2Proof.Machine.execSldc cd ca sb f s
  | .sstc cd ca sb f => Sys2Proof.Machine.execSstc cd ca sb f s
  | .xlate b ca => Sys2Proof.Machine.execXlate b ca s
  | .xlateLim b sb => Sys2Proof.Machine.execXlateLim b sb s
  | .xdrop b => Sys2Proof.Machine.execXdrop b s
  | .xdropAll => Sys2Proof.Machine.execXdropAll s
  | .map cd ca sb slot => Sys2Proof.Machine.execMap cd ca sb slot s
  | .unmap slot => Sys2Proof.Machine.execUnmap slot s
  | .unmapAll => Sys2Proof.Machine.execUnmapAll s
  | .cflush ca sb inv => Sys2Proof.Machine.execCflush ca sb inv s
  | .cinv ca sb => Sys2Proof.Machine.execCinv ca sb s
  | .cdiscard ca sb => Sys2Proof.Machine.execCdiscard ca sb s
  | .cpin ca sb => Sys2Proof.Machine.execCpin ca sb s
  | .cunpin ca sb => Sys2Proof.Machine.execCunpin ca sb s
  | .pref ca sb l1 => Sys2Proof.Machine.execPref ca sb l1 s
  | .commit => Sys2Proof.Machine.execCommit s
  | .commitClose => Sys2Proof.Machine.execCommitClose s
  | .solo sa => Sys2Proof.Machine.execSolo sa s
  | .soloEnd => Sys2Proof.Machine.execSoloEnd s
  | .soloGet sd => Sys2Proof.Machine.execSoloGet sd s
  | .tcopy cd ca sb nobar nt => Sys2Proof.Machine.execTcopy cd ca sb nobar nt s
  | .tcopyG cd ca sb nobar nt => Sys2Proof.Machine.execTcopyG cd ca sb nobar nt s
  | .tstore cd ca sb nobar nt => Sys2Proof.Machine.execTstore cd ca sb nobar nt s
  | .tmcast cd ca sb nobar nt => Sys2Proof.Machine.execTmcast cd ca sb nobar nt s
  | .treduce cd ca sb op nobar nt => Sys2Proof.Machine.execTreduce cd ca sb op nobar nt s
  | .tstat sd => Sys2Proof.Machine.execTstat sd s
  | .tstatDone sd sa => Sys2Proof.Machine.execTstatDone sd sa s
  | .tstatDrop => Sys2Proof.Machine.execTstatDrop s
  | .celaunch cd ca sb die engine => Sys2Proof.Machine.execCelaunch cd ca sb die engine s
  | .celaunchDetach cd ca sb die engine => Sys2Proof.Machine.execCelaunchDetach cd ca sb die engine s
  | .cestat sd => Sys2Proof.Machine.execCestat sd s
  | .cestatDone sd sa => Sys2Proof.Machine.execCestatDone sd sa s
  | .cestatDrop => Sys2Proof.Machine.execCestatDrop s
  | .binit ca sb z keep => Sys2Proof.Machine.execBinit ca sb z keep s
  | .arrive ca sb w => Sys2Proof.Machine.execArrive ca sb w s
  | .expect ca sb w => Sys2Proof.Machine.execExpect ca sb w s
  | .waitph ca sb sr => Sys2Proof.Machine.execWaitph ca sb sr s
  | .waitphy cd ca sb sr => Sys2Proof.Machine.execWaitphy cd ca sb sr s
  | .btest ca sb sr => Sys2Proof.Machine.execBtest ca sb sr s
  | .spawn ca => Sys2Proof.Machine.execSpawn ca s
  | .joindec ca sr => Sys2Proof.Machine.execJoindec ca sr s
  | .launch ca sb => Sys2Proof.Machine.execLaunch ca sb s
  | .cget ca sb f => Sys2Proof.Machine.execCget ca sb f s
  | .cseta cd ca sb exact => Sys2Proof.Machine.execCseta cd ca sb exact s
  | .cinc cd ca sb w exact => Sys2Proof.Machine.execCinc cd ca sb w exact s
  | .cinci cd ca imm => Sys2Proof.Machine.execCinci cd ca imm s
  | .csetb cd ca sb w exact => Sys2Proof.Machine.execCsetb cd ca sb w exact s
  | .csetbi cd ca imm => Sys2Proof.Machine.execCsetbi cd ca imm s
  | .candp cd ca sb => Sys2Proof.Machine.execCandp cd ca sb s
  | .cseal cd ca ck => Sys2Proof.Machine.execCseal cd ca ck s
  | .csealSentry cd ca => Sys2Proof.Machine.execCsealSentry cd ca s
  | .cunseal cd ca ck => Sys2Proof.Machine.execCunseal cd ca ck s
  | .ctest ca sb f => Sys2Proof.Machine.execCtest ca sb f s
  | .ctestSubset cd ca sb => Sys2Proof.Machine.execCtestSubset cd ca sb s
  | .cmov cd ca => Sys2Proof.Machine.execCmov cd ca s
  | .cclr cd => Sys2Proof.Machine.execCclr cd s
  | .cclrTag cd => Sys2Proof.Machine.execCclrTag cd s
  | .revoke ca => Sys2Proof.Machine.execRevoke ca s
  | .revokeClear ca => Sys2Proof.Machine.execRevokeClear ca s
  | .rsweep sd => Sys2Proof.Machine.execRsweep sd s
  | .trap code => Sys2Proof.Machine.execTrap code s
  | .tret s1 => Sys2Proof.Machine.execTret s1 s
  | .tretSkip s1 => Sys2Proof.Machine.execTretSkip s1 s
  | .frec sd ix => Sys2Proof.Machine.execFrec sd ix s
  | .frecCap cd => Sys2Proof.Machine.execFrecCap cd s
  | .pgmap ca sb => Sys2Proof.Machine.execPgmap ca sb s
  | .idemb sa => Sys2Proof.Machine.execIdemb sa s
  | .ideme => Sys2Proof.Machine.execIdeme s
  | .prmpt sd => Sys2Proof.Machine.execPrmpt sd s
  | .prmptNow => Sys2Proof.Machine.execPrmptNow s
  | .sysrd sd n => Sys2Proof.Machine.execSysrd sd n s
  | .syswr sa n => Sys2Proof.Machine.execSyswr sa n s
  | .moncfg sd sa sb => Sys2Proof.Machine.execMoncfg sd sa sb s
  | .monrd sd sa f => Sys2Proof.Machine.execMonrd sd sa f s
  | .pclear sd sa => Sys2Proof.Machine.execPclear sd sa s
  | .scrub ca sb => Sys2Proof.Machine.execScrub ca sb s
  | .fabcfgWin ca sb => Sys2Proof.Machine.execFabcfgWin ca sb s
  | .fabcfgWinrm ca sb => Sys2Proof.Machine.execFabcfgWinrm ca sb s
  | .fabcfgMcast ca sb => Sys2Proof.Machine.execFabcfgMcast ca sb s
  | .fabcfgPlane ca sb => Sys2Proof.Machine.execFabcfgPlane ca sb s
  | .fabcfgEp ca sb => Sys2Proof.Machine.execFabcfgEp ca sb s
  | .fabcfgRegion ca sb => Sys2Proof.Machine.execFabcfgRegion ca sb s
  | .attest cd ca sb => Sys2Proof.Machine.execAttest cd ca sb s
  | .lnop pred neg => Sys2Proof.Machine.execLnop pred neg s
  | .mov h m => Sys2Proof.Machine.execMov h m s
  | .movi h imm m => Sys2Proof.Machine.execMovi h imm m s
  | .iadd h m => Sys2Proof.Machine.execIadd h m s
  | .isub h m => Sys2Proof.Machine.execIsub h m s
  | .iaddi h imm m => Sys2Proof.Machine.execIaddi h imm m s
  | .imul h m => Sys2Proof.Machine.execImul h m s
  | .imulh h m => Sys2Proof.Machine.execImulh h m s
  | .imad h m => Sys2Proof.Machine.execImad h m s
  | .imadw h m => Sys2Proof.Machine.execImadw h m s
  | .iabs h m => Sys2Proof.Machine.execIabs h m s
  | .imin h m => Sys2Proof.Machine.execImin h m s
  | .imax h m => Sys2Proof.Machine.execImax h m s
  | .andLane h m => Sys2Proof.Machine.execAndLane h m s
  | .orLane h m => Sys2Proof.Machine.execOrLane h m s
  | .xorLane h m => Sys2Proof.Machine.execXorLane h m s
  | .bool3 h m => Sys2Proof.Machine.execBool3 h m s
  | .shlLane h m => Sys2Proof.Machine.execShlLane h m s
  | .shrLane h m => Sys2Proof.Machine.execShrLane h m s
  | .sarLane h m => Sys2Proof.Machine.execSarLane h m s
  | .wshift h m => Sys2Proof.Machine.execWshift h m s
  | .extr h m => Sys2Proof.Machine.execExtr h m s
  | .insr h m => Sys2Proof.Machine.execInsr h m s
  | .popcLane h m => Sys2Proof.Machine.execPopcLane h m s
  | .clzLane h m => Sys2Proof.Machine.execClzLane h m s
  | .bitrev h m => Sys2Proof.Machine.execBitrev h m s
  | .bswz h m => Sys2Proof.Machine.execBswz h m s
  | .icmp h m => Sys2Proof.Machine.execIcmp h m s
  | .selLane h m => Sys2Proof.Machine.execSelLane h m s
  | .idot4 h m => Sys2Proof.Machine.execIdot4 h m s
  | .isad h m => Sys2Proof.Machine.execIsad h m s
  | .nbr h m => Sys2Proof.Machine.execNbr h m s
  | .lbcast h m => Sys2Proof.Machine.execLbcast h m s
  | .fadd h m => Sys2Proof.Machine.execFadd h m s
  | .fsub h m => Sys2Proof.Machine.execFsub h m s
  | .fmul h m => Sys2Proof.Machine.execFmul h m s
  | .ffma h m => Sys2Proof.Machine.execFfma h m s
  | .fmin h m => Sys2Proof.Machine.execFmin h m s
  | .fmax h m => Sys2Proof.Machine.execFmax h m s
  | .fcmp h m => Sys2Proof.Machine.execFcmp h m s
  | .fclass h m => Sys2Proof.Machine.execFclass h m s
  | .fdiv h m => Sys2Proof.Machine.execFdiv h m s
  | .fsqrt h m => Sys2Proof.Machine.execFsqrt h m s
  | .frcp h m => Sys2Proof.Machine.execFrcp h m s
  | .frsq h m => Sys2Proof.Machine.execFrsq h m s
  | .fexp2 h m => Sys2Proof.Machine.execFexp2 h m s
  | .flog2 h m => Sys2Proof.Machine.execFlog2 h m s
  | .fsin h m => Sys2Proof.Machine.execFsin h m s
  | .fcos h m => Sys2Proof.Machine.execFcos h m s
  | .ftanh h m => Sys2Proof.Machine.execFtanh h m s
  | .frnd h m => Sys2Proof.Machine.execFrnd h m s
  | .fscale h m => Sys2Proof.Machine.execFscale h m s
  | .pkadd h m => Sys2Proof.Machine.execPkadd h m s
  | .pkmul h m => Sys2Proof.Machine.execPkmul h m s
  | .pkfma h m => Sys2Proof.Machine.execPkfma h m s
  | .dadd h m => Sys2Proof.Machine.execDadd h m s
  | .dmul h m => Sys2Proof.Machine.execDmul h m s
  | .dfma h m => Sys2Proof.Machine.execDfma h m s
  | .cvt h m => Sys2Proof.Machine.execCvt h m s
  | .pack h m => Sys2Proof.Machine.execPack h m s
  | .unpack h m => Sys2Proof.Machine.execUnpack h m s
  | .qblk h m => Sys2Proof.Machine.execQblk h m s
  | .dqblk h m => Sys2Proof.Machine.execDqblk h m s
  | .vcget h m => Sys2Proof.Machine.execVcget h m s
  | .vcseta h m => Sys2Proof.Machine.execVcseta h m s
  | .vcinc h m => Sys2Proof.Machine.execVcinc h m s
  | .vcsetb h m => Sys2Proof.Machine.execVcsetb h m s
  | .vcandp h m => Sys2Proof.Machine.execVcandp h m s
  | .vctest h m => Sys2Proof.Machine.execVctest h m s
  | .vcmov h m => Sys2Proof.Machine.execVcmov h m s
  | .vcclr h m => Sys2Proof.Machine.execVcclr h m s
  | .vcderive h m => Sys2Proof.Machine.execVcderive h m s
  | .ld h m => Sys2Proof.Machine.execLd h m s
  | .st h m => Sys2Proof.Machine.execSt h m s
  | .ldc h m => Sys2Proof.Machine.execLdc h m s
  | .ldcX h m => Sys2Proof.Machine.execLdcX h m s
  | .stc h m => Sys2Proof.Machine.execStc h m s
  | .stcX h m => Sys2Proof.Machine.execStcX h m s
  | .ldx h m => Sys2Proof.Machine.execLdx h m s
  | .stx h m => Sys2Proof.Machine.execStx h m s
  | .lds h m => Sys2Proof.Machine.execLds h m s
  | .sts h m => Sys2Proof.Machine.execSts h m s
  | .atom h m => Sys2Proof.Machine.execAtom h m s
  | .red h m => Sys2Proof.Machine.execRed h m s
  | .atoms h m => Sys2Proof.Machine.execAtoms h m s
  | .matchL h m => Sys2Proof.Machine.execMatchL h m s
  | .ldsum h m => Sys2Proof.Machine.execLdsum h m s
  | .stm h m => Sys2Proof.Machine.execStm h m s
  | .redsp h m => Sys2Proof.Machine.execRedsp h m s
  | .stt h m => Sys2Proof.Machine.execStt h m s
  | .mloop h m => Sys2Proof.Machine.execMloop h m s
  | .mstep h m => Sys2Proof.Machine.execMstep h m s
  | .mzero h m => Sys2Proof.Machine.execMzero h m s
  | .mlda h m => Sys2Proof.Machine.execMlda h m s
  | .msta h m => Sys2Proof.Machine.execMsta h m s
  | .mjoin h m => Sys2Proof.Machine.execMjoin h m s
  | .mjoinDrop h m => Sys2Proof.Machine.execMjoinDrop h m s
  | .mctxAcq h m => Sys2Proof.Machine.execMctxAcq h m s
  | .mctxRel h m => Sys2Proof.Machine.execMctxRel h m s
  | .mscale h m => Sys2Proof.Machine.execMscale h m s
  | .mchk h m => Sys2Proof.Machine.execMchk h m s
  | .mepi h m => Sys2Proof.Machine.execMepi h m s
  | .yieldDelayExpiry core slot split => Sys2Proof.Machine.execYieldDelayExpiry core slot split s
  | .soloCountExpiry core slot => Sys2Proof.Machine.execSoloCountExpiry core slot s
  | .waitphRelease core slot split => Sys2Proof.Machine.execWaitphRelease core slot split s
  | .groupReactivation group => Sys2Proof.Machine.execGroupReactivation group s
  | .revocationEpochComplete => Sys2Proof.Machine.execRevocationEpochComplete s
  | .attestAnswer core slot => Sys2Proof.Machine.execAttestAnswer core slot s
  | .matrixOperationStart core ctx => Sys2Proof.Machine.execMatrixOperationStart core ctx s
  | .matrixStep core ctx => Sys2Proof.Machine.execMatrixStep core ctx s
  | .tceOperationStart core => Sys2Proof.Machine.execTceOperationStart core s
  | .tceElement core op => Sys2Proof.Machine.execTceElement core op s
  | .ceListStart die engine => Sys2Proof.Machine.execCeListStart die engine s
  | .enop => Sys2Proof.Machine.execEnop s
  | .esend f data => Sys2Proof.Machine.execEsend f data s
  | .eput f dstOff srcOff => Sys2Proof.Machine.execEput f dstOff srcOff s
  | .eget f dstOff srcOff => Sys2Proof.Machine.execEget f dstOff srcOff s
  | .ered f dstOff srcOff => Sys2Proof.Machine.execEred f dstOff srcOff s
  | .emcast f dstOff srcOff => Sys2Proof.Machine.execEmcast f dstOff srcOff s
  | .ewait f => Sys2Proof.Machine.execEwait f s
  | .ewaitRelease die engine ctx => Sys2Proof.Machine.execEwaitRelease die engine ctx s
  | .earrive f => Sys2Proof.Machine.execEarrive f s
  | .esig f operand => Sys2Proof.Machine.execEsig f operand s
  | .eadd f => Sys2Proof.Machine.execEadd f s
  | .ebr f => Sys2Proof.Machine.execEbr f s
  | .eloop f => Sys2Proof.Machine.execEloop f s
  | .enput f w => Sys2Proof.Machine.execEnput f w s
  | .enget f w => Sys2Proof.Machine.execEnget f w s
  | .esnap f w1 w2 => Sys2Proof.Machine.execEsnap f w1 w2 s
  | .eend => Sys2Proof.Machine.execEend s
  | .qnop after => Sys2Proof.Machine.execQnop after s
  | .qlaunch after block sem count => Sys2Proof.Machine.execQlaunch after block sem count s
  | .qtask after shelf block sem count => Sys2Proof.Machine.execQtask after shelf block sem count s
  | .qwait after cmp sem operand mask => Sys2Proof.Machine.execQwait after cmp sem operand mask s
  | .qwaitReread q => Sys2Proof.Machine.execQwaitReread q s
  | .qwaitPoll q => Sys2Proof.Machine.execQwaitPoll q s
  | .qsignal after op sem operand => Sys2Proof.Machine.execQsignal after op sem operand s
  | .qgraph after op obj => Sys2Proof.Machine.execQgraph after op obj s
  | .qphase after op obj => Sys2Proof.Machine.execQphase after op obj s
  | .qjob after op obj => Sys2Proof.Machine.execQjob after op obj s
  | .qcancel after kind obj => Sys2Proof.Machine.execQcancel after kind obj s
  | .qcount after kind obj target => Sys2Proof.Machine.execQcount after kind obj target s
  | .qjump after target => Sys2Proof.Machine.execQjump after target s
  | .qprio after prio => Sys2Proof.Machine.execQprio after prio s
  | .qwrWrite q v => Sys2Proof.Machine.execQwrWrite q v s
  | .queueEnable q ctl => Sys2Proof.Machine.execQueueEnable q ctl s
  | .queueDisable q ctl => Sys2Proof.Machine.execQueueDisable q ctl s
  | .lvcancel n => Sys2Proof.Machine.execLvcancel n s
  | .invalidationGo ctl => Sys2Proof.Machine.execInvalidationGo ctl s
  | .translationInvalidationComplete => Sys2Proof.Machine.execTranslationInvalidationComplete s
  | .registerWrite off size v => Sys2Proof.Machine.execRegisterWrite off size v s
  | .dispatchPlace => Sys2Proof.Machine.execDispatchPlace s
  | .taskPop core slot => Sys2Proof.Machine.execTaskPop core slot s
  | .shelfFullTimeout shelf => Sys2Proof.Machine.execShelfFullTimeout shelf s
  | .queueFullTimeout q => Sys2Proof.Machine.execQueueFullTimeout q s
  | .pgraceExpiry => Sys2Proof.Machine.execPgraceExpiry s
  | .pslackExpiry gang => Sys2Proof.Machine.execPslackExpiry gang s
  | .gangSaveComplete gang => Sys2Proof.Machine.execGangSaveComplete gang s
  | .clusterDomainMove cluster dom => Sys2Proof.Machine.execClusterDomainMove cluster dom s
  | .windowCommit core slot => Sys2Proof.Machine.execWindowCommit core slot s
  | .storeDrain => Sys2Proof.Machine.execStoreDrain s
  | .lineFill node line data tags version => Sys2Proof.Machine.execLineFill node line data tags version s
  | .validationReply node sub version => Sys2Proof.Machine.execValidationReply node sub version s
  | .walkComplete die => Sys2Proof.Machine.execWalkComplete die s
  | .walkStarvationTimeout die ix => Sys2Proof.Machine.execWalkStarvationTimeout die ix s
  | .dieProxyForward ix => Sys2Proof.Machine.execDieProxyForward ix s
  | .proxyPhaseUpdate ix => Sys2Proof.Machine.execProxyPhaseUpdate ix s
  | .apertureRequest r => Sys2Proof.Machine.execApertureRequest r s
  | .validationRequest asker pcid sub stamp write => Sys2Proof.Machine.execValidationRequest asker pcid sub stamp write s
  | .epochBump node sub => Sys2Proof.Machine.execEpochBump node sub s
  | .contributionArrival c => Sys2Proof.Machine.execContributionArrival c s
  | .sparsePairArrival head gen index value => Sys2Proof.Machine.execSparsePairArrival head gen index value s
  | .mergeTableTimeout win index => Sys2Proof.Machine.execMergeTableTimeout win index s
  | .multicastPacketArrival ix => Sys2Proof.Machine.execMulticastPacketArrival ix s
  | .ualinkFlitReceive f => Sys2Proof.Machine.execUalinkFlitReceive f s
  | .ucieFlitReceive tagOk replay consumers => Sys2Proof.Machine.execUcieFlitReceive tagOk replay consumers s
  | .portTraining x => Sys2Proof.Machine.execPortTraining x s
  | .sealRekey x => Sys2Proof.Machine.execSealRekey x s
  | .stompNotice tag => Sys2Proof.Machine.execStompNotice tag s
  | .requestRetryTimeout tag => Sys2Proof.Machine.execRequestRetryTimeout tag s
  | .peerlostTimeout tag => Sys2Proof.Machine.execPeerlostTimeout tag s
  | .switchPortsDown node => Sys2Proof.Machine.execSwitchPortsDown node s
  | .homeTagRecordExpiry node tag => Sys2Proof.Machine.execHomeTagRecordExpiry node tag s
  | .ueInboundPut region off data => Sys2Proof.Machine.execUeInboundPut region off data s
  | .ueInboundGet region off n => Sys2Proof.Machine.execUeInboundGet region off n s
  | .cxlMemRead pa => Sys2Proof.Machine.execCxlMemRead pa s
  | .cxlMemWrite pa data => Sys2Proof.Machine.execCxlMemWrite pa data s
  | .hostSnoop line data => Sys2Proof.Machine.execHostSnoop line data s
  | .ideKm cache mem => Sys2Proof.Machine.execIdeKm cache mem s
  | .nodeset node => Sys2Proof.Machine.execNodeset node s
  | .ctxcreate pcid mask dom => Sys2Proof.Machine.execCtxcreate pcid mask dom s
  | .ctxassign slot die first count => Sys2Proof.Machine.execCtxassign slot die first count s
  | .ctxload slot src dst va => Sys2Proof.Machine.execCtxload slot src dst va s
  | .ctxseal slot => Sys2Proof.Machine.execCtxseal slot s
  | .pageout slot va hpa => Sys2Proof.Machine.execPageout slot va hpa s
  | .pagein slot va hpa region => Sys2Proof.Machine.execPagein slot va hpa region s
  | .ctxdestroy slot => Sys2Proof.Machine.execCtxdestroy slot s
  | .doeStatus slot => Sys2Proof.Machine.execDoeStatus slot s
  | .quote pcid nonce user => Sys2Proof.Machine.execQuote pcid nonce user s
  | .extend x => Sys2Proof.Machine.execExtend x s
  | .linkattest x => Sys2Proof.Machine.execLinkattest x s
  | .uekey endpoint blob => Sys2Proof.Machine.execUekey endpoint blob s
  | .debugnonce => Sys2Proof.Machine.execDebugnonce s
  | .debug token => Sys2Proof.Machine.execDebug token s
  | .pstate p => Sys2Proof.Machine.execPstate p s
  | .p3Entry => Sys2Proof.Machine.execP3Entry s
  | .reset => Sys2Proof.Machine.execReset s
  | .coldReset => Sys2Proof.Machine.execColdReset s
  | .warmReset => Sys2Proof.Machine.execWarmReset s
  | .scrubRecordComplete => Sys2Proof.Machine.execScrubRecordComplete s
  | .thermalTrip => Sys2Proof.Machine.execThermalTrip s
  | .lifetimeCounterFlush => Sys2Proof.Machine.execLifetimeCounterFlush s
  | .monitorSample die src core value => Sys2Proof.Machine.execMonitorSample die src core value s
  | .illegalScalarWord w code => Sys2Proof.Machine.execIllegalScalarWord w code s
  | .scalarFetchFault kind detail addr home => Sys2Proof.Machine.execScalarFetchFault kind detail addr home s
  | .unassignedCeCommand w addr kind detail => Sys2Proof.Machine.execUnassignedCeCommand w addr kind detail s
  | .unassignedQueueOp op code detail => Sys2Proof.Machine.execUnassignedQueueOp op code detail s
  | .accessAnswer tag a => Sys2Proof.Machine.execAccessAnswer tag a s
  | .ueResponse list data ok => Sys2Proof.Machine.execUeResponse list data ok s
  | .ueTransportFailure list => Sys2Proof.Machine.execUeTransportFailure list s
  | .backInvalidationResponse line => Sys2Proof.Machine.execBackInvalidationResponse line s
  | .linkDown port => Sys2Proof.Machine.execLinkDown port s
  | .powerRemoved => Sys2Proof.Machine.execPowerRemoved s
  | .clearSequenceComplete cluster => Sys2Proof.Machine.execClearSequenceComplete cluster s
  | .p3ExitComplete => Sys2Proof.Machine.execP3ExitComplete s
  | .gangRestoreComplete gang => Sys2Proof.Machine.execGangRestoreComplete gang s
  | .hourPowered => Sys2Proof.Machine.execHourPowered s

end Sys2Proof.Machine
end

