-- ==== Sys2Proof/Machine/Inputs.lean ====
section
/-! DEFINITION. What happens to the machine from outside, or by chance, beside the rows of the table: errors of storage, fills and
evictions of the caches, messages of other nodes, and the vector mask (spec/15_traps_contexts.md R410; spec/08_sequential_order.md R243, R245,
R246, R248; spec/02_instruction_words.md R67; spec/09_atomics_reductions.md R265, R267, R269; spec/11_matrix.md R328;
spec/14_queue_commands.md R400; log 16). -/

namespace Sys2Proof.Machine

/-- The code caches of a core without the lines that they give up (R67, R410). -/
def loseCode (s : State) (core : Nat) : State := { s with codeCache := s.codeCache.filter fun e => e.1 / 2 ^ 74 != core }

/-- A code line comes into a core's code caches ahead of any fetch of its words, which then may give these values (R67). A line of another node
brings the words that its home sends. -/
def fillCode (s : State) (core pcid va : Nat) (words : List Word) : State :=
  let base := va / 128 * 128
  let put (t : State) (k w : Nat) : State := { t with codeCache := aset 0 t.codeCache (codeKey core pcid (base + 4 * k)) (w + 1) }
  if base / 2 ^ 56 = 1 && nbits base 47 9 != s.fab.node.toNat then (words.take 32).zipIdx.foldl (fun t e => put t e.2 e.1.toNat) s
  else
    let pod : Bool := base / 2 ^ 56 = 1
    match walk s (ctxOf s pcid) pod (if pod then base % 2 ^ 47 else base) with
    | .ok l => (below 32).foldl (fun t k => put t k (ramNat s.ram { l.loc (if pod then base % 2 ^ 47 else base) with
        a := (l.loc (if pod then base % 2 ^ 47 else base)).a + 4 * k } 4)) s
    | .error _ => s

/-- A fill finds no evictable way in its L1 set: with an older window the executing one closes; without one a line leaves the L1, and the slice holds
its bits (R245, R246). -/
def l1Full (s : State) (core slot : Nat) (line : Loc) : State :=
  match grpAt s core slot with
  | none => s
  | some g =>
    if g.wins.length ≥ 2 then setGrp s { g with wins := closeWins g.wins }
    else setGrp s (modExec g fun w => if w.reads.contains line then { w with passed := (line :: w.passed).eraseDups } else w)

/-- The windows of a die that hold read-set bits of these lines, by group and start. -/
def bitHolders (s : State) (die : Nat) (lines : List Loc) : List (Nat × Nat) :=
  (s.grps.filter fun g => g.core / 72 = die && g.live).flatMap fun g =>
    (g.wins.filter fun w => lines.any w.reads.contains).map fun w => (g.uid, w.start)

/-- The youngest of windows. -/
def youngest (l : List (Nat × Nat)) : Option (Nat × Nat) := l.find? fun x => l.all fun y => y.2 ≤ x.2

/-- An L2 fill for a group finds every way of its set holding read-set bits: the youngest window with bits there rolls back; where that is the
group's own executing window, the group enters SOLO mode (R246). -/
def l2Full (s : State) (core slot : Nat) (lines : List Loc) : State :=
  match grpAt s core slot with
  | none => s
  | some g =>
    let hs := bitHolders s (core / 72) lines
    if lines.isEmpty || !lines.all fun l => !(bitHolders s (core / 72) [l]).isEmpty then s
    else match youngest hs with
      | none => s
      | some (uid, start) => match grpOf s uid with
        | none => s
        | some h =>
          let s1 := rollGrp s uid (h.wins.findIdx fun w => w.start = start)
          let own : Bool := uid = g.uid && (match g.wins.getLast? with | some w => w.start = start && !w.closed | none => false)
          if own then escalate (modGrp s1 uid fun y => { y with solo := some 256, rbRun := 0 }) core else s1

/-- A live node has acknowledged an epoch bump (R248). -/
def bumpAcked (s : State) (node sub : Nat) : State :=
  let f (b : Nat × List Nat) : Nat × List Nat := if b.1 = sub then (b.1, b.2.erase node) else b
  { s with fab := { s.fab with bumps := (s.fab.bumps.map f).filter fun b => !b.2.isEmpty } }

/-- A node gives back a hold, which it names by the sub-page of the pod space (R243). -/
def releaseHold (s : State) (node sub : Nat) : State :=
  match s.fab.holds.find? fun h => h.node = node && h.off = sub with
  | some h => { s with fab := { s.fab with holds := s.fab.holds.erase h } }
  | none => s

/-- One input. -/
def runInput (s : State) (x : Input) : State :=
  match x with
  | .corrected => lifeInc s 2
  | .damage d => if s.bad.contains d then s else { s with bad := s.bad ++ [d] }
  | .wrongColumn wg pos => modMat s wg pos fun c => { c with damaged := true }
  | .codeDrop core => loseCode s core
  | .codeFill core pcid va words => fillCode s core pcid va words
  | .l1Full core slot line => l1Full s core slot line
  | .l2Full core slot lines => l2Full s core slot lines
  | .bumpAck node sub => bumpAcked s node sub
  | .release node sub => releaseHold s node sub
  | .merged win off => mergedAway s win off
  | .roundEvent => roundEvent s
  | .fabWin node block apply =>
    let r := fabWinHere s block
    if apply then r.1 else { s with outbox := s.outbox ++ [.fabAnswer node r.2] }
  | .fabWinrm _ win => removeWin s win
  | .fabMcast block => match mcEntry block with | some e => setMcast s e | none => s
  | .fabPlane block => match planeBlock block with | some m => setPlanes s m | none => s
  | .vectorMask m => { s with chip := { s.chip with msixMask := m } }

end Sys2Proof.Machine
end

