-- ==== Sys2Proof/Machine/Agenda.lean ====
section
/-! DEFINITION. Turns: which instruction or event the machine performs next, and the placing of a word where the next turn
fetches it (spec/08_sequential_order.md R231, R232; spec/16_protection_links.md R468, R469; log 1, 7, 35). -/

namespace Sys2Proof.Machine

/-- The rows that happen by themselves, or that the outside causes: those that no stream encodes. -/
def isEvent : Instr → Bool
  | .yieldDelayExpiry _ _ _ | .soloCountExpiry _ _ | .waitphRelease _ _ _ | .groupReactivation _
  | .revocationEpochComplete | .attestAnswer _ _ | .matrixOperationStart _ _ | .matrixStep _ _ | .tceOperationStart _
  | .tceElement _ _ | .ceListStart _ _ | .ewaitRelease _ _ _ | .qwaitReread _ | .qwaitPoll _ | .qwrWrite _ _ | .queueEnable _ _
  | .queueDisable _ _ | .lvcancel _ | .invalidationGo _ | .translationInvalidationComplete | .registerWrite _ _ _
  | .dispatchPlace | .taskPop _ _ | .shelfFullTimeout _ | .queueFullTimeout _ | .pgraceExpiry | .pslackExpiry _
  | .gangSaveComplete _ | .clusterDomainMove _ _ | .windowCommit _ _ | .storeDrain | .lineFill _ _ _ _ _
  | .validationReply _ _ _ | .walkComplete _ | .walkStarvationTimeout _ _ | .dieProxyForward _ | .proxyPhaseUpdate _
  | .apertureRequest _ | .validationRequest _ _ _ _ _ | .epochBump _ _ | .contributionArrival _ | .sparsePairArrival _ _ _ _
  | .mergeTableTimeout _ _ | .multicastPacketArrival _ | .ualinkFlitReceive _ | .ucieFlitReceive _ _ _ | .portTraining _
  | .sealRekey _ | .stompNotice _ | .requestRetryTimeout _ | .peerlostTimeout _ | .switchPortsDown _ | .homeTagRecordExpiry _ _
  | .ueInboundPut _ _ _ | .ueInboundGet _ _ _ | .cxlMemRead _ | .cxlMemWrite _ _ | .hostSnoop _ _ | .ideKm _ _ | .nodeset _
  | .ctxcreate _ _ _ | .ctxassign _ _ _ _ | .ctxload _ _ _ _ | .ctxseal _ | .pageout _ _ _ | .pagein _ _ _ _ | .ctxdestroy _
  | .doeStatus _ | .quote _ _ _ | .extend _ | .linkattest _ | .uekey _ _ | .debugnonce | .debug _ | .pstate _ | .p3Entry
  | .reset | .coldReset | .warmReset | .scrubRecordComplete | .thermalTrip | .lifetimeCounterFlush | .monitorSample _ _ _ _
  | .accessAnswer _ _ | .ueResponse _ _ _ | .ueTransportFailure _ | .backInvalidationResponse _ | .linkDown _ | .powerRemoved
  | .clearSequenceComplete _ | .p3ExitComplete | .gangRestoreComplete _ | .hourPowered => true
  | _ => false

/-- A found instruction is executed; a turn that finds none leaves the state it names. -/
def runPick (p : Pick) : Host.Outcome State Fault Refusal :=
  match p with
  | .idle s => .next s
  | .run s i => match exec i s with
    | .next t => .next (noteTurn s t)
    | r => r

/-- One turn. The agents move only while the chip runs; an event that its power state rules out does not happen. -/
noncomputable def runTurn (s0 : State) (t : Turn) : Host.Outcome State Fault Refusal :=
  let s := { s0 with actor := .none }
  match t with
  | .input x => .next (if s.power = .off then s else runInput s x)
  | .event i => if isEvent i && eventOn s.power i then exec i s else .next s
  | .slot core slot => if s.power = .run then runPick (scalarTurn core slot s) else .next s
  | .lane core slot => if s.power = .run then runPick (laneTurn core slot s) else .next s
  | .queue q => if s.power = .run then runPick (queueTurn q s) else .next s
  | .ce die engine ctx cmd => if s.power = .run then runPick (ceTurn die engine ctx cmd s) else .next s

/-- The next turn: the first of the agenda, or any turn where the agenda is empty. -/
def nextTurn (s : State) : Turn × State :=
  match s.agenda with
  | t :: rest => (t, { s with agenda := rest })
  | [] => let d := draw s; (Config.freeTurn d.1, d.2)

/-! A word placed where the next turn fetches it. A program comes to the machine through queues and memory that the host sets up;
this stands for that (log 35). -/

/-- The context, its tables and the address of the placed word. -/
def placePcid : Nat := 65535
def placeRoot : Nat := 0x2000
def placeTable : Nat := 0x20000
def placeAt : Nat := 0x10000

/-- Memory with the tables of the placed context: one 16 GiB page for everything, at its own physical address. -/
def placeMem (m : Memory) (bytes : List Byte) : Memory :=
  wrBytes (wrBytes (wrBytes m placeAt bytes) placeRoot (leBytes 8 (placeTable + 1))) placeTable (leBytes 8 0x1F3)

/-- The context in force, with nothing remembered of it. -/
def placeCtx (s : State) (bytes : List Byte) : State :=
  let desc : CtxDesc := { valid := true, root := placeRoot, podRoot := 0, handler := 0, pool := 0, prot := false, key := 0 }
  { s with ram := { s.ram with hbm := placeMem s.ram.hbm bytes }, ctxs := aset ctxNone s.ctxs placePcid desc,
           tlb := s.tlb.filter fun e => e.pcid != placePcid, codeCache := [], power := .run }

/-- The kernel of the placed group: one group on core 0 that holds a matrix context. -/
def placeKernel : KDesc :=
  { task := false, accs := true, idem := false, latency := 3, gang := 1, regs := 64, groups := 1, scratch := 65536, entry := 0, size := 0,
    laneBase := 0, laneSize := 0, params := [], argMap := [] }

/-- A launch of it that has been accepted. -/
def placeLaunch (uid : Nat) : Lnch :=
  { uid := uid, queue := 0, pcid := placePcid, prio := 0, graph := none, phase := none, job := none, hidden := 1, shelf := 0, recIx := 0,
    sem := 0, kd := placeKernel, root := rootCap 0x7FFF, pcc := withAddr (rootCap 0x7FFF) placeAt, lcc := withAddr (rootCap 0x7FFF) placeAt,
    params := [], args := [], stack := 0, stackSize := 0, hPcc := capNull, hLcc := capNull, hData := capNull, hMap := capNull, count := 1,
    next := 0, host := true, cancelled := false, complete := false }

/-- The group, in slot 0 of core 0. -/
def placeGroup (s : State) : State :=
  let l := placeLaunch s.uid
  let s1 := { s with grps := s.grps.filter fun g => g.core != 0, launches := s.launches ++ [l], uid := s.uid + 1 }
  placeGang s1 l [0]

/-- A lane block of one word at the head of the lane queue of the placed group. -/
def placeBlock (s : State) (w : LaneWord) : State :=
  { s with grps := s.grps.map fun g =>
      if g.core = 0 && g.slot = 0 then
        { g with g := { g.g with laneQ := [{ split := 0, pc := placeAt, base := placeAt, words := [w], next := 0, mask := allLanes, s := [], c := [],
                                             splits := 1, full := true, receiver := false, compacting := false, todo := none, lat := [],
                                             noWatch := false, pre := none }] } }
      else g }

/-- A command list of the placed group that runs in context 0 of engine 0, with its next command at the placed address. -/
def placeList (s : State) : State :=
  match grpAt s 0 0 with
  | none => s
  | some g =>
    let l : CeList :=
      { uid := s.uid, die := 0, engine := 0, ctx := some 0, owner := some g.uid, group := g.uid, gang := g.gang, wg := g.wg, launch := g.launch,
        pcid := placePcid, ticket := 1, image := withAddr (rootCap 0x7FFF) (placeAt - 128), e := List.replicate 16 capNull,
        n := List.replicate 8 0, pc := placeAt, st := .running, waiting := false, cmds := [], word := 0, word1 := 0, word2 := 0, stop := none }
    { s with ces := s.ces ++ [l], uid := s.uid + 1 }

/-- Queue 0 enabled for the placed context, with one record at the placed address; the QP serves it next. -/
def placeQueue (s : State) : State :=
  setQue { s with chip := { s.chip with lastServed := 63 } } 0
    { queNone with base := BitVec.ofNat 64 placeAt, ctl := BitVec.ofNat 32 (placePcid * 2 ^ 16 + 0x164), wr := 1, stat := 1, root := rootCap 0x7FFF }

/-- The next step is a turn. -/
def placeTurn (s : State) (t : Turn) : State := { s with agenda := t :: s.agenda }

end Sys2Proof.Machine
end

