-- ==== Sys2Proof/Machine/Step.lean ====
section
/-! DEFINITION. One step of the machine: the next turn (spec/08_sequential_order.md R231, R232; log 1). -/

namespace Sys2Proof.Machine

/-- One step: the next turn of the agenda is taken and performed. -/
noncomputable def step (s : State) : Host.Outcome State Fault Refusal :=
  let n := nextTurn s
  runTurn n.2 n.1

/-- The state with an instruction's bits where the next step fetches its instruction, all bits above them 0 (log 35). -/
def State.withFetchWord (s : State) (nbits w : Nat) : State :=
  let bytes := leBytes 32 w
  let t := placeCtx s bytes
  match streamOf nbits with
  | .scalar => placeTurn (placeGroup t) (.slot 0 0)
  | .lane => placeTurn (placeBlock (placeGroup t) (BitVec.ofNat 96 w)) (.lane 0 0)
  | .ce => placeTurn (placeList (placeGroup t)) (.ce 0 0 0 none)
  | .queue => placeTurn (placeQueue t) (.queue 0)

end Sys2Proof.Machine
end

