-- ==== Sys2Proof/Safety.lean ====
section
/-! DEFINITION. What counts as a safe run: every step ends in a next state, and the state keeps its canonical form and the values
that the spec rules out stay out (spec/16_protection_links.md R446; log 4). -/

namespace Sys2Proof

open Machine

/-- Whether an outcome is a next state. -/
def Safety.goesOn : Host.Outcome State Fault Refusal → Bool
  | .next _ => true
  | .fault _ => false
  | .refused _ => false

/-- A run of n steps in which no step stops. -/
def Safety.SafeFor : Nat → State → Prop
  | 0, _ => True
  | n + 1, s => ∃ t, step s = .next t ∧ Safety.SafeFor n t

/-- Device memory, host memory and every scratchpad are in canonical form. -/
def Safety.ramOk (r : Ram) : Bool := r.hbm.wf && r.host.wf && r.pads.all fun p => p.2.mem.wf

/-- The memory of a state is in canonical form. -/
def Safety.memOk (s : State) : Bool := Safety.ramOk s.ram

end Sys2Proof
end

