-- ==== Sys2Proof/Certificates/Slice0/Obligations.lean ====
section
/-! DEFINITION. What the provers are asked to show: statements about the machine, from the rules of spec/. -/

open Sys2Proof Sys2Proof.Machine

namespace Sys2Proof.Claims

/-! How a scalar instruction ends. -/

/-- A scalar instruction of split x of group g is what the machine executes. -/
def Runs (s : State) (g : Grp) (x : Split) : Prop := actorSplit s = some (g, x)

/-- The registers after a write of v to s register d of split x of group g, when they read f before (R38, R79, R81): s0 stays 0, and
the activity mask never takes a lane that another split holds. -/
def put (g : Grp) (x : Split) (f : SReg → Word) (d : SReg) (v : Word) (r : SReg) : Word :=
  if r = 0 then 0
  else if d.toNat ≥ 61 ∧ r.toNat ≥ 61 then (if r = d then v else f r) &&& ~~~ (beat (g.g.foreign x.idx) (r.toNat - 61))
  else if r = d then v else f r

/-- The registers of split x after several writes in order. -/
def puts (g : Grp) (x : Split) (ws : List (SReg × Word)) : SReg → Word := ws.foldl (fun f w => put g x f w.1 w.2) (sGet x)

/-- The writes would claim a lane that a queued block of another split has still to write (R81). -/
def Seizes (g : Grp) (x : Split) (ws : List (SReg × Word)) : Prop :=
  ∃ b ∈ g.g.laneQ, b.split ≠ x.idx ∧ ∃ r : SReg, 61 ≤ r.toNat ∧ beat b.mask (r.toNat - 61) &&& (puts g x ws r &&& ~~~ sGet x r) ≠ 0

/-- What a scalar instruction of split x of group g leaves when it retires, in a state that is otherwise s (R79, R81, R83): the PCC
is p, the registers read f, x has issued after every other split, a count of SOLO mode is one less, and the rest of the split, the
other splits and all other state, memory included, are as in g and s. -/
def Retires (s : State) (g : Grp) (x : Split) (p : Cap) (f : SReg → Word) (t : State) : Prop :=
  ∃ g' x', t = setGrp s g' ∧ { g' with g := g.g, solo := g.solo } = g ∧ g'.solo = g.solo.map (· - 1) ∧
    { g'.g with splits := [] } = { g.g with splits := [] } ∧ g'.g.split x.idx = some x' ∧
    { x' with s := x.s, act := x.act, issued := x.issued, noWatch := x.noWatch } = { x with pcc := p } ∧ (∀ r, sGet x' r = f r) ∧
    (∀ j, j ≠ x.idx → g'.g.split j = g.g.split j) ∧ ∀ y ∈ g.g.splits, y.issued < x'.issued

/-- PCC at the word k words on, or back. -/
def pccAt (x : Split) (k : Int) : Cap := withAddr x.pcc ((x.pc : Int) + 4 * k)

/-- The instruction completes in state s: it retires with the writes ws at the PCC p, the state being otherwise s1, the group g and its
split x. -/
def CompletesIn (i : Instr) (s s1 : State) (g : Grp) (x : Split) (p : Cap) (ws : List (SReg × Word)) : Prop :=
  ∃ t, exec i s = .next t ∧ Retires s1 g x p (puts g x ws) t

/-- The instruction completes, and only the group differs from what it was. -/
def Completes (i : Instr) (s : State) (g : Grp) (x : Split) (p : Cap) (ws : List (SReg × Word)) : Prop := CompletesIn i s s g x p ws

end Sys2Proof.Claims

open Sys2Proof.Claims

namespace Sys2Proof.Claims

/-! Scalar integer and mask instructions. -/

/-- An exact integer as a 32-bit word, wrapped or clamped to the signed range. -/
def word (sat : Bool) (v : Int) : Word := BitVec.ofInt 32 (if sat then max (-2147483648) (min 2147483647 v) else v)

/-- A word read as an exact integer, unsigned or signed. -/
def int (uns : Bool) (x : Word) : Int := if uns then (x.toNat : Int) else x.toInt

/-- The results of R103, R104 and R105: the destination and its value, from the registers of the issuing split. -/
def alu (x : Split) : Instr → Option (SReg × Word)
  | .add d a b sat => some (d, word sat ((sGet x a).toInt + (sGet x b).toInt))
  | .sub d a b sat => some (d, word sat ((sGet x a).toInt - (sGet x b).toInt))
  | .addi d a imm => some (d, word false ((sGet x a).toInt + imm.toInt))
  | .mul d a b => some (d, word false ((sGet x a).toInt * (sGet x b).toInt))
  | .mulh d a b uns => some (d, word false (int uns (sGet x a) * int uns (sGet x b) / 4294967296))
  | .and d a b => some (d, sGet x a &&& sGet x b)
  | .or d a b => some (d, sGet x a ||| sGet x b)
  | .xor d a b => some (d, sGet x a ^^^ sGet x b)
  | .andi d a imm => some (d, sGet x a &&& imm.signExtend 32)
  | .ori d a imm => some (d, sGet x a ||| imm.zeroExtend 32)
  | .xori d a imm => some (d, sGet x a ^^^ imm.zeroExtend 32)
  | .shl d a b => some (d, if (sGet x b).toNat % 256 ≥ 32 then 0 else sGet x a <<< ((sGet x b).toNat % 256))
  | .shr d a b => some (d, if (sGet x b).toNat % 256 ≥ 32 then 0 else sGet x a >>> ((sGet x b).toNat % 256))
  | .sar d a b => some (d, if (sGet x b).toNat % 256 ≥ 32 then (if (sGet x a).msb then 0xFFFFFFFF else 0)
                           else (sGet x a).sshiftRight ((sGet x b).toNat % 256))
  | .shli d a n => some (d, sGet x a <<< n.toNat)
  | .shri d a n => some (d, sGet x a >>> n.toNat)
  | .sari d a n => some (d, (sGet x a).sshiftRight n.toNat)
  | .rori d a n => some (d, (sGet x a).rotateRight n.toNat)
  | .min d a b uns => some (d, BitVec.ofInt 32 (min (int uns (sGet x a)) (int uns (sGet x b))))
  | .max d a b uns => some (d, BitVec.ofInt 32 (max (int uns (sGet x a)) (int uns (sGet x b))))
  | .slt d a b uns => some (d, if int uns (sGet x a) < int uns (sGet x b) then 1 else 0)
  | .slti d a imm => some (d, if (sGet x a).toInt < imm.toInt then 1 else 0)
  | .lui d imm => some (d, BitVec.ofNat 32 (imm.toNat * 8192))
  | .clz d a => some (d, (List.range 33).foldl (fun n k => if (sGet x a).toNat < 2 ^ (32 - k) then BitVec.ofNat 32 k else n) 0)
  | .popc d a => some (d, BitVec.ofNat 32 ((List.range 32).countP fun k => (sGet x a).getLsbD k))
  | .sel d a b c => some (d, if sGet x c ≠ 0 then sGet x a else sGet x b)
  | _ => none

/-- The lanes of a mask in ascending order. -/
def lanesIn (m : LaneMask) : List Nat := (List.range 96).filter fun l => m.getLsbD l

/-- The three words of a mask from s register a. -/
def maskAt (x : Split) (a : SReg) : LaneMask := sGet x (a + 2) ++ sGet x (a + 1) ++ sGet x a

/-- The operations of KOP (R108). -/
def kop (op : BitVec 3) (a b : LaneMask) : LaneMask :=
  if op = 0 then a &&& b else if op = 1 then a ||| b else if op = 2 then a ^^^ b else if op = 3 then a &&& ~~~ b
  else if op = 4 then a ||| ~~~ b else if op = 5 then ~~~ a else a

/-- What a k register takes (R108). -/
def kval (g : Grp) (x : Split) : Instr → Option (KReg × LaneMask)
  | .kmov d a beat => some (d, if beat = 3 then maskAt x a else setBeat (kGet g.g d.toNat) beat.toNat (sGet x a))
  | .kop d a b op => some (d, kop op (kGet g.g a.toNat) (kGet g.g b.toNat))
  | _ => none

/-- What s registers take from a k register, from the special registers and in a run (R107, R108, R110, R97). -/
def sval (s : State) (g : Grp) (x : Split) : Instr → Option (List (SReg × Word))
  | .skmov d a b =>
    let k := kGet g.g a.toNat
    some (if b = 3 then [(d, beat k 0), (d + 1, beat k 1), (d + 2, beat k 2)] else [(d, beat k b.toNat)])
  | .kpopc d a all => some [(d, BitVec.ofNat 32 (lanesIn (if all then kGet g.g a.toNat else kGet g.g a.toNat &&& x.act)).length)]
  | .kfirst d a last =>
    let ls := lanesIn (kGet g.g a.toNat &&& x.act)
    some [(d, match (if last then ls.getLast? else ls.head?) with | some l => BitVec.ofNat 32 l | none => 0xFFFFFFFF)]
  | .smov d c => some [(d, if c = 0 then BitVec.ofNat 32 g.gidx
      else if c = 1 then (match wgBy s g.wg with | some w => BitVec.ofNat 32 w.wgid | none => 0)
      else if c = 2 then (match gangBy s g.gang with | some w => BitVec.ofNat 32 w.gangid | none => 0)
      else if c = 3 then BitVec.ofNat 32 g.core else if c = 4 then BitVec.ofNat 32 (g.core / 8)
      else if c = 5 then BitVec.ofNat 32 (g.core / 72) else if c = 6 then s.fab.node.zeroExtend 32 else if c = 7 then s.fab.incarn
      else if c = 8 then BitVec.ofNat 32 x.idx else if c = 9 then g.g.status else if c = 10 then g.rbcount
      else if c = 11 then 0x0000FFFF else 0)]
  | .smovw d a n => some ((List.range n.toNat).map fun k => (d + BitVec.ofNat 6 k, sGet x (a + BitVec.ofNat 6 k)))
  | .splitq d =>
    let live (j : Nat) : Bool := (g.g.split j).isSome
    let parked (j : Nat) : Bool := (g.g.split j).any fun y =>
      y.st = .merge || (y.st = .handler && g.frame.any fun f => f.parked.any fun p => p.1 = j && p.2 = .merge)
    some [(d, BitVec.ofNat 32 (x.idx + 4 * g.g.splits.length +
      ((List.range 4).map fun j => (live j).toNat * 2 ^ (8 + j) + (parked j).toNat * 2 ^ (12 + j)).sum))]
  | .lcb _ => none
  | _ => none

end Sys2Proof.Claims

/-- Every scalar integer instruction of R103 to R105 but DIV retires: its destination takes the value of the rule, and every other
register, all memory and all other state stay. -/
def Sys2Proof.Claims.ScalarIntegerResult : Prop :=
  ∀ (i : Instr) (s : State) (g : Grp) (x : Split) (d : SReg) (v : Word),
    Runs s g x → alu x i = some (d, v) → ¬ Seizes g x [(d, v)] → Completes i s g x (pccAt x 1) [(d, v)]

/-- A write of a scalar integer instruction that claims a lane of another split's queued block does not retire: nothing changes, and the
instruction is tried again (R81). -/
def Sys2Proof.Claims.MaskClaimWaits : Prop :=
  ∀ (i : Instr) (s : State) (g : Grp) (x : Split) (d : SReg) (v : Word),
    Runs s g x → alu x i = some (d, v) → Seizes g x [(d, v)] → exec i s = .next s

/-- DIV (R106): the quotient truncated towards zero or the remainder with the sign of the dividend; a divisor of 0 gives all ones or the
dividend and sets STATUS.DIVZ, and only then does a status bit change. -/
def Sys2Proof.Claims.DivideResult : Prop :=
  ∀ (s : State) (g : Grp) (x : Split) (d a b : SReg) (rem uns : Bool) (v : Word),
    Runs s g x →
    v = (if sGet x b = 0 then (if rem then sGet x a else 0xFFFFFFFF)
         else if rem then BitVec.ofInt 32 ((int uns (sGet x a)).tmod (int uns (sGet x b)))
         else BitVec.ofInt 32 ((int uns (sGet x a)).tdiv (int uns (sGet x b)))) →
    ¬ Seizes g x [(d, v)] →
    Completes (.div d a b rem uns) s { g with g := { g.g with status := if sGet x b = 0 then g.g.status ||| 2 else g.g.status } } x
      (pccAt x 1) [(d, v)]

/-- KMOV and KOP (R108): the k register takes the value in the lanes of the activity mask only, and k0 takes nothing; everything else,
memory included, stays. -/
def Obligations.MaskRegisterResult : Prop :=
  ∀ (i : Instr) (s : State) (g : Grp) (x : Split) (d : KReg) (v : LaneMask),
    Runs s g x → i.wf = true → kval g x i = some (d, v) →
    ∃ k, Completes i s { g with g := { g.g with k := k } } x (pccAt x 1) [] ∧
      ∀ n, kGet { g.g with k := k } n = if n = d.toNat ∧ d ≠ 0 then (kGet g.g n &&& ~~~ x.act) ||| (v &&& x.act) else kGet g.g n

/-- SKMOV, KPOPC, KFIRST, SMOV, SMOVW and SPLITQ (R97, R107, R108, R110, R112): the destination registers take the values of the rules,
and every other register, all memory and all other state stay. -/
def Sys2Proof.Claims.ScalarTransferResult : Prop :=
  ∀ (i : Instr) (s : State) (g : Grp) (x : Split) (ws : List (SReg × Word)),
    Runs s g x → i.wf = true → sval s g x i = some ws → ¬ Seizes g x ws →
    Completes i s g x (pccAt x 1) ws

/-- SMOV to STATUS clears the bits written as one, of bits 6 to 0, and SMOV to RBCOUNT writes it (R110, R111, R112). -/
def Sys2Proof.Claims.SpecialRegisterWrite : Prop :=
  ∀ (s : State) (g : Grp) (x : Split) (a : SReg), Runs s g x →
    Completes (.smovWrite a 9) s { g with g := { g.g with status := g.g.status &&& ~~~ (sGet x a &&& 0x7F) } } x (pccAt x 1) [] ∧
    Completes (.smovWrite a 10) s { g with rbcount := sGet x a } x (pccAt x 1) []

namespace Sys2Proof.Claims

/-! Scalar control. -/

/-- The target of a relative branch of k words before it is made an address (R89). -/
def dest (x : Split) (k : Int) : Int := (x.pc : Int) + 4 * k

/-- The target of a relative branch lies within the bounds of the PCC (R89). -/
def Reaches (x : Split) (k : Int) : Prop := capBase x.pcc ≤ dest x k ∧ dest x k + 4 ≤ capTop x.pcc

/-- A conditional branch: whether it is taken, its offset in words and the registers it writes (R90, R91). -/
def branch (g : Grp) (x : Split) : Instr → Option (Prop × Int × List (SReg × Word))
  | .br off => some (True, off.toInt, [])
  | .brc c a off =>
    let v := (sGet x a).toInt
    some ((c = 0 ∧ v = 0) ∨ (c = 1 ∧ v ≠ 0) ∨ (c = 2 ∧ v < 0) ∨ (c = 3 ∧ v ≥ 0) ∨ (c = 4 ∧ v ≤ 0) ∨ (c = 5 ∧ v > 0), off.toInt, [])
  | .brk c k off =>
    let m := kGet g.g k.toNat
    let some_ (b : Bool) : Prop := ∃ l < 96, x.act.getLsbD l = true ∧ m.getLsbD l = b
    some ((c = 0 ∧ some_ true) ∨ (c = 1 ∧ ¬ some_ false) ∨ (c = 2 ∧ ¬ some_ true) ∨ (c = 3 ∧ some_ false), off.toInt, [])
  | .dbnz a off => some (sGet x a - 1 ≠ 0, off.toInt, [(a, sGet x a - 1)])
  | _ => none

/-- A scalar instruction of split x traps in state s: the trap t is taken at its word, with the split's activity mask (R411, R413). -/
def Traps (i : Instr) (s0 s : State) (g : Grp) (x : Split) (t : TrapInfo) : Prop :=
  exec i s0 = .next (takeTrap s g.uid x.idx { t with mask := x.act, undone := x.act }
    { lane := false, engine := false, matrix := false, op := 0, w1 := actorWord s0, w2 := 0, w3 := 0, pc := x.pc, ix := 0 })

/-- A capability fault of a fetch: its detail, the capability, the address and the missing permission (R89, R92, R411). -/
def fetchFault (c : Cap) (detail : Nat) (a : Int) (missing : Nat) : TrapInfo :=
  { kind := 3, detail := detail, access := 4, cap := c, addr := (a % 2 ^ 64).toNat, missing := missing }

/-- What is wrong with a jump through c to the address a, an offset being added or not (R92): the detail and the permission. -/
def jumpFault (c : Cap) (a : Int) (offset : Bool) : Option (Nat × Nat) :=
  if c.tag = false then some (1, 0)
  else if cOtype c ≠ 0 ∧ cOtype c ≠ 63 then some (2, 0)
  else if cHas c 2 = false then some (3, 2)
  else if cOtype c = 63 ∧ offset = true then some (2, 0)
  else if a % 4 ≠ 0 then some (13, 0)
  else if ¬ (capBase c ≤ a ∧ a + 4 ≤ capTop c) then some (4, 0)
  else none

/-- The jumps of R92: the code pointer, the byte offset and the register that takes the link. -/
def jump (x : Split) : Instr → Option (Cap × Int × Option CReg)
  | .calli d a => some (cGet x a, 0, some d)
  | .ret a => some (cGet x a, 0, none)
  | .jmpi a b => some (cGet x a, (sGet x b).toInt, none)
  | _ => none

/-- A group whose split x has the capability v in c register d, if one is named (R79). -/
def withC (g : Grp) (x : Split) (d : Option CReg) (v : Cap) : Grp :=
  match d with | some d => { g with g := g.g.setSplit (cSet x d v) } | none => g
def splitC (x : Split) (d : Option CReg) (v : Cap) : Split := match d with | some d => cSet x d v | none => x

/-- The group's splits have four indices, each used once (R79, R93). -/
def SplitsOk (g : Grp) : Prop := (g.g.splits.map (·.idx)).Nodup ∧ ∀ y ∈ g.g.splits, y.idx < 4

/-- No engine thread of a multicast, no window and no region stands in the way of an instruction that commits first: the commit of the
group's windows gives s1, where its group is g1 and its split x1 (R86, R241, R256, R273). -/
def Settles (s : State) (g : Grp) (x : Split) (s1 : State) (g1 : Grp) (x1 : Split) : Prop :=
  commitAll s g.uid = (s1, .done) ∧ grpOf s1 g.uid = some g1 ∧ g1.g.split x.idx = some x1 ∧
    ∀ m ∈ s1.fab.mcThreads, m.group ≠ g.uid

/-- No idempotent region holds the group back (R429). -/
def NoRegion (g : Grp) : Prop := g.region = none ∨ g.frame ≠ none

end Sys2Proof.Claims

/-- SNOP is the scalar word 0 and has no effect but to retire: the program counter moves to the next word, and no register, no memory and no other
state changes (R113). -/
def Obligations.SnopDoesNothing : Prop :=
  (∀ w : Word, decodeScalar w = .ok .snop ↔ w = 0) ∧
  ∀ (s : State) (g : Grp) (x : Split), Runs s g x → Completes .snop s g x (pccAt x 1) []

/-- BR, BRC, BRK and DBNZ (R89, R90, R91): the target when the condition holds and the target lies within the PCC's bounds, else the next
word; DBNZ writes its register, every other register and all other state stay. -/
def Sys2Proof.Claims.BranchResult : Prop :=
  ∀ (i : Instr) (s : State) (g : Grp) (x : Split) (c : Prop) (k : Int) (ws : List (SReg × Word)),
    Runs s g x → i.wf = true → branch g x i = some (c, k, ws) → ¬ Seizes g x ws →
    (c → Reaches x k → Completes i s g x (pccAt x k) ws) ∧ (¬ c → Completes i s g x (pccAt x 1) ws)

/-- A relative branch or call whose target does not lie within the PCC's bounds raises CAPFAULT detail 4 with the target address (R89). -/
def Sys2Proof.Claims.BranchTargetFault : Prop :=
  ∀ (s : State) (g : Grp) (x : Split), Runs s g x →
    (∀ (i : Instr) (c : Prop) (k : Int) (ws : List (SReg × Word)), i.wf = true → branch g x i = some (c, k, ws) → c → ¬ Reaches x k →
      Traps i s s g x (fetchFault x.pcc 4 (dest x k) 0)) ∧
    (∀ off : BitVec 25, ¬ Reaches x off.toInt → Traps (.call off) s s g x (fetchFault x.pcc 4 (dest x off.toInt) 0))

/-- BDIV (R93, R94): with no lane for the target the next word; with every lane the target; else, while fewer than four splits are live, a
new split of the lowest free index, younger than every live split, takes the target's lanes with a copy of the registers, and the
issuing split goes on with the others. With four live splits it raises DIVERGE. -/
def Sys2Proof.Claims.DivideSplits : Prop :=
  ∀ (s : State) (g : Grp) (x : Split) (neg : Bool) (k : KReg) (off : BitVec 15) (t : LaneMask), Runs s g x →
    t = x.act &&& (if neg then ~~~ kGet g.g k.toNat else kGet g.g k.toNat) →
    (t = 0 → Completes (.bdiv neg k off) s g x (pccAt x 1) []) ∧
    (t ≠ 0 → ¬ Reaches x off.toInt → Traps (.bdiv neg k off) s s g x (fetchFault x.pcc 4 (dest x off.toInt) 0)) ∧
    (t ≠ 0 → Reaches x off.toInt → x.act &&& ~~~ t = 0 → Completes (.bdiv neg k off) s g x (pccAt x off.toInt) []) ∧
    (t ≠ 0 → Reaches x off.toInt → x.act &&& ~~~ t ≠ 0 → (∀ j < 4, g.g.split j ≠ none) → Traps (.bdiv neg k off) s s g x { kind := 11, detail := 0 }) ∧
    (t ≠ 0 → Reaches x off.toInt → x.act &&& ~~~ t ≠ 0 → ∀ j < 4, g.g.split j = none → (∀ l < j, g.g.split l ≠ none) →
      ∃ (g1 : Grp) (y : Split),
        Completes (.bdiv neg k off) s g1 { x with act := x.act &&& ~~~ t } (pccAt x 1) [] ∧
        { g1 with g := { g1.g with splits := g.g.splits } } = g ∧ g1.g.split j = some y ∧ (∀ l, l ≠ j → l ≠ x.idx → g1.g.split l = g.g.split l) ∧
        { y with idx := x.idx, act := x.act, withheld := x.withheld, pcc := x.pcc, age := x.age, issued := x.issued, noWatch := x.noWatch } = x ∧
        y.idx = j ∧ y.act = t ∧ y.pcc = pccAt x off.toInt ∧ ∀ z ∈ g.g.splits, z.age < y.age)

/-- CALL (R92): c30 takes the link and the PCC the relative target. -/
def Sys2Proof.Claims.CallResult : Prop :=
  ∀ (s : State) (g : Grp) (x : Split) (off : BitVec 25), Runs s g x → Reaches x off.toInt →
    Completes (.call off) s (withC g x (some 30) (withOtype (pccAt x 1) 63)) (cSet x 30 (withOtype (pccAt x 1) 63)) (pccAt x off.toInt) []

/-- CALLI, RET and JMPI (R92): the checks in order, then the link and the PCC; the target is read before the link is written. -/
def Sys2Proof.Claims.JumpResult : Prop :=
  ∀ (i : Instr) (s : State) (g : Grp) (x : Split) (c : Cap) (off : Int) (d : Option CReg), Runs s g x → jump x i = some (c, off, d) →
    (jumpFault c (cAddr c + off) (off ≠ 0) = none →
      Completes i s (withC g x d (withOtype (pccAt x 1) 63)) (splitC x d (withOtype (pccAt x 1) 63)) (withOtype (withAddr c (cAddr c + off)) 0) []) ∧
    (∀ n m, jumpFault c (cAddr c + off) (off ≠ 0) = some (n, m) → Traps i s s g x (fetchFault c n (cAddr c + off) m))

/-- LCB and LCB.get (R88). -/
def Sys2Proof.Claims.LaneCodeBase : Prop :=
  ∀ (s : State) (g : Grp) (x : Split) (c : CReg), Runs s g x →
    Completes (.lcbGet c) s (withC g x (some c) x.lcc) (cSet x c x.lcc) (pccAt x 1) [] ∧
    ((cGet x c).tag = true → cOtype (cGet x c) = 0 → cHas (cGet x c) 2 = true →
      Completes (.lcb c) s { g with g := g.g.setSplit { x with lcc := cGet x c } } { x with lcc := cGet x c } (pccAt x 1) []) ∧
    (¬ ((cGet x c).tag = true ∧ cOtype (cGet x c) = 0 ∧ cHas (cGet x c) 2 = true) → ∃ t, t.kind = 3 ∧ t.cap = cGet x c ∧ Traps (.lcb c) s s g x t)

/-- EXEC and EXECW (R42, R84, R87, R177): while the lane queue has a free entry and the block lies within the LCC, whose checks pass, REMOTE
among them for an aperture address, and its words are fetched, they join the queue with the registers and the mask of the split as they
stand. -/
def Sys2Proof.Claims.BlockEnqueued : Prop :=
  ∀ (i : Instr) (s : State) (g : Grp) (x : Split) (len : BitVec 5) (off : BitVec 16) (s1 : State) (ws : List Word) (g1 : Grp),
    Runs s g x → i = .execBlk len off ∨ i = .execwBlk len off → g.g.laneQ.length < 8 →
    x.lcc.tag = true → cOtype x.lcc = 0 → cHas x.lcc 2 = true → cAddr x.lcc % 4 = 0 →
    (isAperture ((cAddr x.lcc : Int) + 12 * off.toNat) = true → cHas x.lcc 9 = true) → capBase x.lcc ≤ (cAddr x.lcc : Int) + 12 * off.toNat → (cAddr x.lcc : Int) + 12 * (off.toNat + len.toNat + 1) ≤ capTop x.lcc →
    fetchWords s g x.lcc (cAddr x.lcc + 12 * off.toNat) (3 * (len.toNat + 1)) = .ok s1 ws →
    grpOf s1 g.uid = some g1 → g1.g = g.g →
    ∃ b : LaneBlock, CompletesIn i s (dropAns s1 g.uid) { g1 with g := { g.g with laneQ := g.g.laneQ ++ [b] } } x (pccAt x 1) [] ∧
      b.split = x.idx ∧ b.words = laneWords ws ∧ b.next = 0 ∧ b.mask = x.act ∧ b.s = x.s ∧ b.c = x.c

/-- VREAD (R51, R109, R410): the lane's value when the split holds the lane, 0 when not; a dead register gives the poison value and sets
STATUS.POISONSEEN. A lane that an error has damaged gives SPOILED with its detail, and a register or a lane out of range is ILLEGAL
code 3. -/
def Sys2Proof.Claims.LaneRegisterRead : Prop :=
  ∀ (s : State) (g : Grp) (x : Split) (d a b : SReg) (n l : Nat) (v : Word), Runs s g x → n = (sGet x a).toNat → l = (sGet x b).toNat →
    (n < 256 → n < g.regs → l < 96 → x.act.getLsbD l = true → (∀ e, .vreg g.uid n l e ∉ s.bad) →
      v = (if g.g.dead.getLsbD n then 0x7FA00DEA else rl (aget zeroRow g.g.v n) l) → ¬ Seizes g x [(d, v)] →
      Completes (.vread d a b) s { g with g := { g.g with status := if g.g.dead.getLsbD n then g.g.status ||| 1 else g.g.status } } x (pccAt x 1) [(d, v)]) ∧
    (n < 256 → n < g.regs → l < 96 → x.act.getLsbD l = false → ¬ Seizes g x [(d, 0)] → Completes (.vread d a b) s g x (pccAt x 1) [(d, 0)]) ∧
    (∀ e, n < 256 → n < g.regs → l < 96 → x.act.getLsbD l = true → s.bad = [.vreg g.uid n l e] →
      Traps (.vread d a b) s s g x { kind := 9, detail := e }) ∧
    (¬ (n < 256 ∧ n < g.regs ∧ l < 96) → Traps (.vread d a b) s s g x { kind := 1, detail := 3 })

/-- YIELD (R98): the split goes behind the others, and with a count it is not ready for so many clocks, 65,535 at most. -/
def Sys2Proof.Claims.YieldResult : Prop :=
  ∀ (s : State) (g : Grp) (x : Split) (a : SReg) (n : Nat), Runs s g x → n = Nat.min (sGet x a).toNat 65535 →
    (n = 0 → Completes (.yieldS a) s g x (pccAt x 1) []) ∧
    (n ≠ 0 → Completes (.yieldS a) s { g with g := g.g.modSplit x.idx fun y => { y with st := .yield n } } { x with st := .yield n } (pccAt x 1) [])

namespace Sys2Proof.Claims

/-- A group that stands to g as a scalar instruction that retires leaves it, but for its splits (R79, R83, R255). -/
def SameButSplits (g g' : Grp) : Prop :=
  { g' with g := g.g, solo := g.solo } = g ∧ g'.solo = g.solo.map (· - 1) ∧ { g'.g with splits := [] } = { g.g with splits := [] }

/-- A split but for its stamp of issue and its watch mark. -/
def SameIssue (x x' : Split) : Prop := { x' with issued := x.issued, noWatch := x.noWatch } = x

/-- The address of a split's word. -/
def at_ (x : Split) : Nat := cAddr x.pcc

/-- Split z is what MERGE leaves of the splits of group g parked at the address a, of which k is the lowest index (R95). -/
def Merged (g : Grp) (a k : Nat) (z : Split) : Prop :=
  ∃ y, g.g.split k = some y ∧ SameIssue { y with st := .ready, act := z.act, withheld := z.withheld, pcc := withAddr y.pcc (a + 4) } z ∧
    ∀ l < 96, z.act.getLsbD l = true ↔ ∃ w ∈ g.g.splits, at_ w = a ∧ w.act.getLsbD l = true

/-- Lane l of a v register as a group reads it (R51). -/
def lv (g : GCore) (n l : Nat) : Word := rl (vGet g n) l

/-- The selected register units and the k registers of the lanes h of the partner p and the lanes t of the receiver r, exchanged
between them; a selected register that is live in either group is live in both (R99). -/
def Exchanged (p r p' r' : GCore) (regs : Nat) (units : Word) (h t : List Nat) : Prop :=
  (∀ n < 256, n < regs → units.getLsbD (n / 8) = true →
    (∀ i a b : Nat, h[i]? = some a → t[i]? = some b → lv r' n b = lv p n a ∧ lv p' n a = lv r n b) ∧
    r'.dead.getLsbD n = (p.dead.getLsbD n && r.dead.getLsbD n) ∧ p'.dead.getLsbD n = (p.dead.getLsbD n && r.dead.getLsbD n)) ∧
  (∀ q < 64, 4 * q < regs → units.getLsbD (q / 2) = true → ∀ i a b : Nat, h[i]? = some a → t[i]? = some b →
    (aget 0 r'.qtags q).getLsbD b = (aget 0 p.qtags q).getLsbD a ∧ (aget 0 p'.qtags q).getLsbD a = (aget 0 r.qtags q).getLsbD b) ∧
  (∀ k, 1 ≤ k → k ≤ 15 → ∀ i a b : Nat, h[i]? = some a → t[i]? = some b →
    (aget 0 r'.k k).getLsbD b = (aget 0 p.k k).getLsbD a ∧ (aget 0 p'.k k).getLsbD a = (aget 0 r.k k).getLsbD b) ∧
  (∀ n l, n < 256 → l < 96 → (l ∉ t ∨ ¬ (n < regs ∧ units.getLsbD (n / 8) = true) → lv r' n l = lv r n l) ∧
    (l ∉ h ∨ ¬ (n < regs ∧ units.getLsbD (n / 8) = true) → lv p' n l = lv p n l)) ∧
  (∀ q l, l < 96 → (l ∉ t ∨ ¬ (4 * q < regs ∧ units.getLsbD (q / 2) = true) → (aget 0 r'.qtags q).getLsbD l = (aget 0 r.qtags q).getLsbD l) ∧
    (l ∉ h ∨ ¬ (4 * q < regs ∧ units.getLsbD (q / 2) = true) → (aget 0 p'.qtags q).getLsbD l = (aget 0 p.qtags q).getLsbD l)) ∧
  (∀ k l, l < 96 → (l ∉ t ∨ k = 0 ∨ k > 15 → (aget 0 r'.k k).getLsbD l = (aget 0 r.k k).getLsbD l) ∧
    (l ∉ h ∨ k = 0 ∨ k > 15 → (aget 0 p'.k k).getLsbD l = (aget 0 p.k k).getLsbD l)) ∧
  { r' with v := r.v, dead := r.dead, qtags := r.qtags, k := r.k } = r ∧ { p' with v := p.v, dead := p.dead, qtags := p.qtags, k := p.k } = p

/-- The lanes of a list as a mask. -/
def InMask (m : LaneMask) (ls : List Nat) : Prop := ∀ l < 96, m.getLsbD l = decide (l ∈ ls)

end Sys2Proof.Claims

/-- MERGE (R95): the split parks; while some other live split is not parked nothing more happens, and once every live split is parked those
at the lowest address go on as one, of the lowest index among them, with the union of their lanes at the next word. -/
def Sys2Proof.Claims.MergeResult : Prop :=
  ∀ (s : State) (g : Grp) (x : Split), Runs s g x → SplitsOk g →
    ∃ t g', exec .merge s = .next t ∧ t = setGrp s g' ∧ SameButSplits g g' ∧
      ((∃ y ∈ g.g.splits, y.idx ≠ x.idx ∧ y.st ≠ .merge) →
        (∃ z, g'.g.split x.idx = some z ∧ SameIssue { x with st := .merge } z) ∧ ∀ j, j ≠ x.idx → g'.g.split j = g.g.split j) ∧
      ((∀ y ∈ g.g.splits, y.idx ≠ x.idx → y.st = .merge) →
        ∀ a k, (∀ y ∈ g.g.splits, a ≤ at_ y) → (∃ y, g.g.split k = some y ∧ at_ y = a) → (∀ y ∈ g.g.splits, at_ y = a → k ≤ y.idx) →
          (∃ z, g'.g.split k = some z ∧ Merged g a k z) ∧
          (∀ j y, j ≠ k → g.g.split j = some y → at_ y = a → g'.g.split j = none) ∧
          (∀ j y, j ≠ x.idx → g.g.split j = some y → at_ y ≠ a → g'.g.split j = some y) ∧
          (at_ x ≠ a → ∃ z, g'.g.split x.idx = some z ∧ SameIssue { x with st := .merge } z))

/-- EXIT (R76, R86, R96, R429): after the commit, a split among others leaves the group, its lanes become idle and an idempotent region
closes; while the others are not all parked at MERGE nothing more happens. -/
def Sys2Proof.Claims.ExitLeavesSplits : Prop :=
  ∀ (s : State) (g : Grp) (x : Split) (s1 : State) (g1 : Grp) (x1 : Split), Runs s g x → Settles s g x s1 g1 x1 → SplitsOk g1 →
    pendingStop s1 g1 = none → (∃ y ∈ g1.g.splits, y.idx ≠ x.idx ∧ y.st ≠ .merge) →
    ∃ t g', exec .exit s = .next t ∧ t = setGrp s1 g' ∧ SameButSplits { g1 with region := none } g' ∧
      g'.g.split x.idx = none ∧ ∀ j, j ≠ x.idx → g'.g.split j = g1.g.split j

/-- EXIT of a group's last split, whose engine work has ended and which holds no matrix context, ends the group (R96, R345, R353): when
groups of its workgroup remain and none is paired with it by COMPACT, nothing else changes. -/
def Sys2Proof.Claims.ExitEndsGroup : Prop :=
  ∀ (s : State) (g : Grp) (x : Split) (s1 : State) (g1 : Grp) (x1 : Split), Runs s g x → Settles s g x s1 g1 x1 → g1.g.splits = [x1] →
    pendingStop s1 g1 = none → engineBusy s1 g1 = false → (matOf s1 g1).holder ≠ some g1.uid →
    g1.task = false → g1.g.compact = none → (∀ o, pairOf s1 g1 = some o → inRendezvous o = none) →
    (∃ h ∈ s1.grps, h.wg = g1.wg ∧ h.task = false ∧ h.ended = false ∧ h.uid ≠ g1.uid) →
    exec .exit s = .next (modGrp s1 g.uid fun h => { h with ended := true, wins := [], region := none })

/-- VWRITE (R52, R109, R172, R410): the lane takes the value when the split holds it; the register is then live, the quad tag of the lane
clear and the lane no longer damaged. Nothing happens in a lane that the split does not hold, and a register or a lane out of range is ILLEGAL code 3. -/
def Sys2Proof.Claims.LaneRegisterWrite : Prop :=
  ∀ (s : State) (g : Grp) (x : Split) (d a b : SReg) (n l : Nat), Runs s g x → n = (sGet x a).toNat → l = (sGet x b).toNat →
    (n < 256 → n < g.regs → l < 96 → x.act.getLsbD l = true → ∀ g1, keptHit g [n] = false → (matVRegs s g).contains n = false →
      takeCkpt s g [n] [] = some g1 →
      ∃ c s1, CompletesIn (.vwrite d a b) s s1 { g1 with g := c } x (pccAt x 1) [] ∧
        { s1 with bad := s.bad } = s ∧ (∀ e, e ∈ s1.bad ↔ e ∈ s.bad ∧ ∀ y, e ≠ .vreg g.uid n l y) ∧
        { c with v := g.g.v, dead := g.g.dead, qtags := g.g.qtags } = g.g ∧
        (∀ m j, m < 256 → j < 96 → lv c m j = if m = n ∧ j = l then sGet x d else lv g.g m j) ∧
        (∀ m, c.dead.getLsbD m = (decide (m ≠ n) && g.g.dead.getLsbD m)) ∧
        ∀ q j, j < 96 → (aget 0 c.qtags q).getLsbD j = ((aget 0 g.g.qtags q).getLsbD j && !decide (q = n / 4 ∧ j = l))) ∧
    (n < 256 → n < g.regs → l < 96 → x.act.getLsbD l = false → Completes (.vwrite d a b) s g x (pccAt x 1) []) ∧
    (¬ (n < 256 ∧ n < g.regs ∧ l < 96) → Traps (.vwrite d a b) s s g x { kind := 1, detail := 3 })

/-- COMPACT without an exchange (R86, R99): it answers 0 in a receiver with a live record, or with no partner, or with one that has ended;
where the other group of the pair has not issued its COMPACT the split waits for it; with several live splits it raises DIVERGE. -/
def Sys2Proof.Claims.CompactAlone : Prop :=
  ∀ (s : State) (g : Grp) (x : Split) (s1 : State) (g1 : Grp) (x1 : Split) (d a : SReg), Runs s g x → NoRegion g → Settles s g x s1 g1 x1 →
    (g1.g.splits.length > 1 → Traps (.compact d a) s s1 g1 x1 { kind := 11, detail := 0 }) ∧
    (g1.g.splits.length ≤ 1 → (g1.g.compact ≠ none ∨ pairOf s1 g1 = none ∨ ∃ o, pairOf s1 g1 = some o ∧ o.ended = true) →
      ¬ Seizes g1 x1 [(d, 0)] → CompletesIn (.compact d a) s s1 g1 x1 (pccAt x1 1) [(d, 0)]) ∧
    (g1.g.splits.length ≤ 1 → g1.g.compact = none → ∀ o, pairOf s1 g1 = some o → o.ended = false → (∀ y ∈ o.g.splits, ∀ q u, y.st ≠ .rendezvous q u) →
      exec (.compact d a) s = .next (setGrp s1 { g1 with g := g1.g.modSplit x1.idx fun y => { y with st := .rendezvous d.toNat (sGet x1 a) } }))

/-- COMPACT at the rendezvous (R99, R308), once no matrix operation has still to read a selected register. Two groups of one core with room
take part in the exchange: the partner's lanes, ascending, against the lowest lanes that the receiver does not hold; the receiver answers
1, holds those lanes and the record; the partner parks with its lanes moved. With the groups on two cores, or with too many lanes, both
answer 0. -/
def Sys2Proof.Claims.CompactMeets : Prop :=
  ∀ (s : State) (g : Grp) (x : Split) (s1 : State) (g1 o : Grp) (x1 y : Split) (d a e : SReg) (w : Word), Runs s g x → NoRegion g →
    Settles s g x s1 g1 x1 → g1.g.splits = [x1] → g1.g.compact = none → pairOf s1 g1 = some o → o.ended = false → o.g.splits = [y] →
    y.st = .rendezvous e.toNat w → grpOf s1 o.uid = some o → o.uid ≠ g1.uid → s1.bad = [] →
    (∀ n ∈ matVRegs s1 g1 ++ matVRegs s1 o, (if g1.gidx % 2 = 0 then sGet x1 a else w).getLsbD (n / 8) = false) →
    ∃ t, exec (.compact d a) s = .next t ∧
      ∀ r p rx px rd pd units, (if g1.gidx % 2 = 0 then (r, p, rx, px, rd, pd, units) = (g1, o, x1, y, d, e, sGet x1 a)
          else (r, p, rx, px, rd, pd, units) = (o, g1, y, x1, e, d, w)) →
        ((r.core ≠ p.core ∨ (lanesIn rx.act).length + (lanesIn px.act).length > 96) →
          ∃ s2, Retires s1 r { rx with st := .ready } (pccAt rx 1) (puts r rx [(rd, 0)]) s2 ∧
            Retires s2 p { px with st := .ready } (pccAt px 1) (puts p px [(pd, 0)]) t) ∧
        (r.core = p.core → (lanesIn rx.act).length + (lanesIn px.act).length ≤ 96 →
          ∃ s2 rc pc m rec_, Exchanged p.g r.g pc rc r.regs units rec_.h rec_.s ∧
            rec_.h = lanesIn px.act ∧ rec_.s = (lanesIn (~~~ rx.act)).take rec_.h.length ∧ rec_.partner = p.uid ∧ rec_.units = units ∧
            InMask m rec_.s ∧
            Retires s1 { r with g := { rc with compact := some rec_ } } { rx with st := .ready, act := rx.act ||| m } (pccAt rx 1)
              (puts r { rx with act := rx.act ||| m } [(rd, 1)]) s2 ∧
            t = setGrp s2 { p with g := { pc with splits := [{ px with st := .partner pd.toNat }] } })

/-- UNCOMPACT (R100, R101, R308): 0 with no live record. With one, once no matrix operation has still to read a selected register, the same
lanes are exchanged back, the partner resumes with the lanes that the
receiver still held and 2, and the receiver loses the moved lanes and answers 1. -/
def Sys2Proof.Claims.UncompactResult : Prop :=
  ∀ (s : State) (g : Grp) (x : Split) (s1 : State) (g1 : Grp) (x1 : Split) (d : SReg), Runs s g x → NoRegion g → Settles s g x s1 g1 x1 →
    g1.g.splits = [x1] →
    (g1.g.compact = none → ¬ Seizes g1 x1 [(d, 0)] → CompletesIn (.uncompact d) s s1 g1 x1 (pccAt x1 1) [(d, 0)]) ∧
    (∀ rec_ p px pd, g1.g.compact = some rec_ → grpOf s1 rec_.partner = some p → p.uid ≠ g1.uid → p.g.splits = [px] →
      px.st = .partner (pd : SReg).toNat → rec_.h.Nodup → rec_.s.Nodup → rec_.h.length = rec_.s.length →
      (∀ l ∈ rec_.h, l < 96) → (∀ l ∈ rec_.s, l < 96) → s1.bad = [] →
      (∀ n ∈ matVRegs s1 g1 ++ matVRegs s1 p, rec_.units.getLsbD (n / 8) = false) →
      ∃ s2 rc pc back m, Exchanged p.g g1.g pc rc g1.regs rec_.units rec_.h rec_.s ∧ InMask m rec_.s ∧
        (∀ l < 96, back.getLsbD l = true ↔ ∃ i b : Nat, rec_.h[i]? = some l ∧ rec_.s[i]? = some b ∧ x1.act.getLsbD b = true) ∧
        Retires s1 { p with g := pc } { px with st := .ready, act := back } (pccAt px 1) (puts p { px with act := back } [(pd, 2)]) s2 ∧
        (¬ Seizes g1 { x1 with act := x1.act &&& ~~~ m } [(d, 1)] →
          CompletesIn (.uncompact d) s s2 { g1 with g := { rc with compact := none } } { x1 with act := x1.act &&& ~~~ m } (pccAt x1 1) [(d, 1)]))

namespace Sys2Proof.Claims

/-! Scalar capability instructions. -/

/-- A capability fault of an instruction that makes no access: its detail, the capability and the missing permission (R178, R411). -/
def capFlt (c : Cap) (detail : Nat) (missing : Nat) : TrapInfo := { kind := 3, detail := detail, cap := c, missing := missing }

/-- The address form of R180: the fault of a sealed source, or of an exact form that leaves the region; else x with the address a, untagged
outside the region. -/
def addrRule (x : Cap) (a : Int) (exact : Bool) : Option TrapInfo × Cap :=
  let inside := decide (capRegionLo x ≤ a ∧ a < capRegionLo x + 2 ^ (cE x + 17))
  (if x.tag = true ∧ cOtype x ≠ 0 then some (capFlt x 2 0)
   else if x.tag = true ∧ exact = true ∧ inside = false then some (capFlt x 5 0) else none,
   { withAddr x a with tag := x.tag && inside })

/-- The bounds form of R180: the fault of a sealed source, or of an exact form whose bounds leave x or have no exact encoding; else x with
the address a and the bounds that encode [a, a + k), or its own bounds where those are unrepresentable, untagged outside x. -/
def boundsRule (x : Cap) (a k : Int) (exact : Bool) : Option TrapInfo × Cap :=
  let outside := decide (a < capBase x ∨ a + k > capTop x)
  let hard := decide (x.tag = true ∧ exact = true)
  let fits := match encBounds a (a + k) with | none => false | some (b, t, _) => decide (b = a ∧ t = a + k)
  (if x.tag = true ∧ cOtype x ≠ 0 then some (capFlt x 2 0)
   else if hard && outside then some (capFlt x 4 0) else if hard && !fits then some (capFlt x 5 0) else none,
   match encBounds a (a + k) with
   | none => { withAddr x a with tag := false }
   | some (b, t, e) =>
     { withBounds (withAddr x a) e (b / 2 ^ e % 2 ^ 17).toNat (t / 2 ^ e % 2 ^ 17).toNat with
       tag := x.tag && !outside && decide (capBase x ≤ b ∧ t ≤ capTop x) })

/-- The number in s[b] and s[b+1], and the same read as signed. -/
def pairU (x : Split) (b : SReg) : Int := (sGet x b).toNat + (sGet x (b + 1)).toNat * 2 ^ 32
def pairS (x : Split) (b : SReg) : Int := if pairU x b < 2 ^ 63 then pairU x b else pairU x b - 2 ^ 64

/-- An authority to seal or to unseal (R183). -/
def authFault (k : Cap) (perm : Nat) : Option TrapInfo :=
  if k.tag = false then some (capFlt k 1 0) else if cOtype k ≠ 0 then some (capFlt k 2 0)
  else if cHas k perm = false then some (capFlt k 3 perm)
  else if ¬ (capBase k ≤ cAddr k ∧ (cAddr k : Int) < capTop k) then some (capFlt k 4 0) else none

/-- The fault of CSEAL.sentry, CSEAL and CUNSEAL of c, with the authority q (R182, R183). -/
def sentryFault (c : Cap) : Option TrapInfo :=
  if c.tag = false then some (capFlt c 1 0) else if cOtype c ≠ 0 then some (capFlt c 2 0)
  else if cHas c 2 = false then some (capFlt c 3 2) else none
def sealFault (c q : Cap) : Option TrapInfo :=
  if c.tag = false then some (capFlt c 1 0) else if cOtype c ≠ 0 then some (capFlt c 2 0)
  else if authFault q 6 ≠ none then authFault q 6
  else if 1 ≤ cAddr q ∧ cAddr q ≤ 62 then none else some (capFlt q 6 0)
def unsealFault (c q : Cap) : Option TrapInfo :=
  if c.tag = false then some (capFlt c 1 0) else if ¬ (1 ≤ cOtype c ∧ cOtype c ≤ 62) then some (capFlt c 6 0)
  else if authFault q 7 ≠ none then authFault q 7
  else if cAddr q ≠ cOtype c then some (capFlt q 6 0) else none

/-- The derivations of R180, R182 and R183: the c register written, the fault that leaves it, if one, and else its value. -/
def derives (x : Split) : Instr → Option (CReg × Option TrapInfo × Cap)
  | .cseta d a b ex => some (d, addrRule (cGet x a) (pairU x b) ex)
  | .cinc d a b w ex => some (d, addrRule (cGet x a) (cAddr (cGet x a) + if w then pairS x b else (sGet x b).toInt) ex)
  | .cinci d a imm => some (d, addrRule (cGet x a) (cAddr (cGet x a) + imm.toInt) false)
  | .csetb d a b w ex => some (d, boundsRule (cGet x a) (cAddr (cGet x a)) (if w then pairU x b else (sGet x b).toNat) ex)
  | .csetbi d a imm => some (d, boundsRule (cGet x a) (cAddr (cGet x a)) imm.toNat false)
  | .candp d a b =>
    some (d, if (cGet x a).tag = true ∧ cOtype (cGet x a) ≠ 0 then some (capFlt (cGet x a) 2 0) else none,
      withPerms (cGet x a) (cPerms (cGet x a) &&& (sGet x b).truncate 16 &&& 0x7FFF))
  | .cmov d a => some (d, none, cGet x a)
  | .cclr d => some (d, none, { bits := 0, tag := false })
  | .cclrTag d => some (d, none, { cGet x d with tag := false })
  | .csealSentry d a => some (d, sentryFault (cGet x a), withOtype (cGet x a) 63)
  | .cseal d a k => some (d, sealFault (cGet x a) (cGet x k), withOtype (cGet x a) (cAddr (cGet x k)))
  | .cunseal d a k =>
    let c := withOtype (cGet x a) 0
    some (d, unsealFault (cGet x a) (cGet x k), if cHas (cGet x k) 13 then c else withPerms c (cPerms (cGet x a) &&& ~~~ 0x2000))
  | _ => none

/-- The source register of the derivations that neither seal nor unseal. -/
def copies : Instr → Option CReg
  | .cseta _ a _ _ | .cinc _ a _ _ _ | .cinci _ a _ | .csetb _ a _ _ _ | .csetbi _ a _ | .candp _ a _ | .cmov _ a => some a
  | .cclrTag d => some d
  | _ => none

/-- The field of a capability that CGET reads (R169, R181). -/
def capRead (c : Cap) (f : Nat) : Int :=
  let ok : Int := if cE c > 47 then 0 else 1
  let base := ok * (capBase c % 2 ^ 64)
  let top := ok * (capTop c % 2 ^ 64)
  let len := ok * (capTop c - capBase c)
  if f = 0 then cAddr c else if f = 1 then cAddr c / 2 ^ 32 else if f = 2 then base else if f = 3 then base / 2 ^ 32
  else if f = 4 then top else if f = 5 then top / 2 ^ 32 else if f = 6 then len else if f = 7 then len / 2 ^ 32
  else if f = 8 then (cPerms c).toNat else if f = 9 then cOtype c else if f = 10 then c.tag.toNat
  else if f = 11 then (cSP c).toNat + 2 * (c.bits.getLsbD 105).toNat else if f = 12 then cE c else cAddr c - base

/-- CTEST (R184). -/
def testRule (c d : Cap) (f : Nat) : Prop :=
  (f = 0 ∧ c.tag = true) ∨ (f = 1 ∧ cOtype c ≠ 0) ∨ (f = 2 ∧ cOtype c = 63) ∨
  (f = 3 ∧ c.tag = d.tag ∧ capBase d ≤ capBase c ∧ capTop c ≤ capTop d ∧ ∀ p < 16, cHas c p = true → cHas d p = true) ∨
  (f = 4 ∧ capBase c ≤ cAddr c ∧ (cAddr c : Int) < capTop c) ∨ (f = 5 ∧ cSP c = true)

/-- What the reads of R181 and R184 say of a value v for s[b]. -/
def reads (x : Split) (v : Word) : Instr → Option (SReg × Prop)
  | .cget a b f => some (b,
      (f.toNat ≤ 13 → v = BitVec.ofInt 32 (capRead (cGet x a) f.toNat)) ∧
      (f.toNat ≥ 14 → ∃ e, (∀ e', (∃ n : Nat, n ≤ 2 ^ 17 - 1 ∧ (sGet x b).toNat ≤ n * 2 ^ e') ↔ e ≤ e') ∧
        v = if f = 14 then BitVec.ofNat 32 (((sGet x b).toNat + 2 ^ e - 1) / 2 ^ e * 2 ^ e) else ~~~ BitVec.ofNat 32 (2 ^ e - 1)))
  | .ctest a b f => some (b, (v = 1 ∧ testRule (cGet x a) capNull f.toNat) ∨ (v = 0 ∧ ¬ testRule (cGet x a) capNull f.toNat))
  | .ctestSubset d a b => some (b, (v = 1 ∧ testRule (cGet x a) (cGet x d) 3) ∨ (v = 0 ∧ ¬ testRule (cGet x a) (cGet x d) 3))
  | _ => none

end Sys2Proof.Claims

/-- CSETA, CINC, CINCI, CSETB, CSETBI, CANDP, CMOV, CCLR, CCLR.tag, CSEAL, CSEAL.sentry and CUNSEAL (R180, R182, R183): the destination
takes the value of the rule and nothing else changes, or the first failing check raises CAPFAULT and c[cd] stays. -/
def Sys2Proof.Claims.CapabilityDerivation : Prop :=
  ∀ (i : Instr) (s : State) (g : Grp) (x : Split) (d : CReg) (fault : Option TrapInfo) (v : Cap), Runs s g x → derives x i = some (d, fault, v) →
    (fault = none → Completes i s (withC g x (some d) v) (cSet x d v) (pccAt x 1) []) ∧ (∀ t, fault = some t → Traps i s s g x t)

/-- CGET, CTEST and CTEST.subset (R181, R184): s[sb] takes the value of the rule; they never fault, and nothing else changes. -/
def Obligations.CapabilityRead : Prop :=
  ∀ (i : Instr) (s : State) (g : Grp) (x : Split) (b : SReg) (q : Prop), Runs s g x → i.wf = true → (∃ v, reads x v i = some (b, q)) →
    ∃ v q', reads x v i = some (b, q') ∧ q' ∧ (¬ Seizes g x [(b, v)] → Completes i s g x (pccAt x 1) [(b, v)])

/-- The capabilities that the address and bounds forms, CANDP, CMOV and CCLR.tag derive grant nothing that their source does not: a
derived tag needs a tagged unsealed source or a copy, permissions only shrink, and otype and SP stay (R179, R180, R182). -/
def Sys2Proof.Claims.DerivationGrantsNothing : Prop :=
  ∀ (i : Instr) (x : Split) (d a : CReg) (v : Cap), derives x i = some (d, none, v) → copies i = some a →
    (v.tag = true → (cGet x a).tag = true) ∧ (∀ p < 16, cHas v p = true → cHas (cGet x a) p = true) ∧
    cOtype v = cOtype (cGet x a) ∧ cSP v = cSP (cGet x a)

/-- REVOKE and REVOKE.clear over granules of this node (R189, R190, R195): after the commit and the checks, with every page translated, the
bits of all the granules change together; a mark sets REVSTAT.MARKED, and a clear needs REVSTAT.CLEAROK. Memory stays. -/
def Sys2Proof.Claims.RevokeResult : Prop :=
  ∀ (s : State) (g : Grp) (x : Split) (s1 : State) (g1 : Grp) (x1 : Split) (a : CReg) (clear : Bool) (c : Cap) (s2 : State) (ps : List Tgt),
    Runs s g x → NoRegion g → Settles s g x s1 g1 x1 → c = cGet x1 a → c.tag = true → cOtype c = 0 → cHas c 14 = true →
    capBase c / 2 ^ 56 % 2 = 0 → cSP c = false → capBase c % 4096 = 0 → capTop c % 4096 = 0 →
    pageTgts s1 (agtOf s1 g1) (capBase c).toNat ((capTop c - capBase c) / 4096).toNat = .ok s2 ps → thereRuns ps = [] →
    (clear = true → s2.rev.sweepDone = true ∧ s2.rev.marked = false ∨ hereGrans ps = []) →
    ∃ s3 g3 x3, CompletesIn (if clear then .revokeClear a else .revoke a) s s3 g3 x3 (pccAt x3 1) [] ∧
      grpOf s3 g.uid = some g3 ∧ g3.g = g1.g ∧ x3 = x1 ∧ s3.ram = s2.ram ∧
      (∀ k, aget false s3.rev.bitmap k = if k ∈ hereGrans ps then !clear else aget false s2.rev.bitmap k) ∧
      s3.rev.marked = (s2.rev.marked || (!clear && decide (hereGrans ps ≠ []))) ∧
      { s3.rev with bitmap := s2.rev.bitmap, marked := s2.rev.marked } = s2.rev

/-- RSWEEP (R192, R193): with SYS on the PCC, s[sd] takes the epoch after this one. With no sweep running that epoch starts, and the
registers of the issuing group have passed the load barrier; with one running a sweep is queued. Memory stays. -/
def Sys2Proof.Claims.SweepResult : Prop :=
  ∀ (s : State) (g : Grp) (x : Split) (s1 : State) (g1 : Grp) (x1 : Split) (d : SReg), Runs s g x → NoRegion g → Settles s g x s1 g1 x1 →
    (cHas x1.pcc 8 = false → Traps (.rsweep d) s s1 g1 x1 (capFlt x1.pcc 3 8)) ∧
    (cHas x1.pcc 8 = true → s1.rev.sweepDone = true → ∀ g2 x2, grpOf (startEpoch s1) g.uid = some g2 → g2.g.split x.idx = some x2 →
      ¬ Seizes g2 x2 [(d, s1.rev.epoch + 1)] →
      CompletesIn (.rsweep d) s (startEpoch s1) g2 x2 (pccAt x2 1) [(d, s1.rev.epoch + 1)] ∧
      (startEpoch s1).rev.epoch = s1.rev.epoch + 1 ∧ (startEpoch s1).rev.marked = false ∧ (startEpoch s1).rev.sweepDone = false ∧
      (startEpoch s1).rev.bitmap = s1.rev.bitmap ∧ (startEpoch s1).rev.done = s1.rev.done ∧ (startEpoch s1).ram = s1.ram ∧
      ∀ r, cGet x2 r = barrier s1 (pcidOf s1 g1.launch) (cGet x1 r)) ∧
    (cHas x1.pcc 8 = true → s1.rev.sweepDone = false → ¬ Seizes g1 x1 [(d, s1.rev.epoch + 1)] →
      CompletesIn (.rsweep d) s { s1 with rev := { s1.rev with queued := true } } g1 x1 (pccAt x1 1) [(d, s1.rev.epoch + 1)])

namespace Sys2Proof.Claims

/-! Scalar memory accesses. -/

/-- The value that SSTC stores passes the checks of R174 at the places of the access; the other forms make no such check. -/
def StoreAllowed (i : Instr) (s : State) (g : Grp) (x : Split) (ps : List Piece) (s1 : State) : Prop :=
  match i with
  | .sstc d a b f => storeCapCheck s g (cGet x a) (cGet x d) (cAddr (cGet x a) + (sGet x b).toInt + 16 * f.toInt) ps = .ok s1 ()
  | _ => s1 = s

/-- A scalar access of a group outside SOLO mode passes the watchpoints, the checks of its capability and its translation (s1, with the
places ps, none on an uncached page), and joins a window: the state is then s2 and the group g2 (R177, R217, R237, R418). -/
def Enters (i : Instr) (s : State) (g : Grp) (x : Split) (sp : AccSpec) (a : Acc) (s1 : State) (ps : List Piece) (s2 : State) (g2 : Grp) : Prop :=
  watchTrap g x.noWatch sp.access x.act [a] = none ∧ x.part = none ∧ soloOn g = false ∧
  (∃ s0, resolveAcc s g sp a = .ok s0 ps ∧ StoreAllowed i s0 g x ps s1) ∧ (∀ p ∈ ps, p.uc = false) ∧
  ∃ g1, grpOf s1 g.uid = some g1 ∧ enterMem s1 g1 ps [] [] (fun _ => none) (fun s g => some (s, g)) = some (s2, g2)

/-- A scalar access may begin outside windows, in state s0: the group has no window, and it is in SOLO mode, or a place of the access is on
an uncached page and no idempotent region and no multicast thread of the group stands in the way (R222, R241, R255, R273). -/
def Begins (i : Instr) (s : State) (g : Grp) (x : Split) (sp : AccSpec) (a : Acc) (s0 : State) : Prop :=
  watchTrap g x.noWatch sp.access x.act [a] = none ∧ x.part = none ∧ g.wins = [] ∧
  if soloOn g = true then s0 = s
  else NoRegion g ∧ (∀ m ∈ s0.fab.mcThreads, m.group ≠ g.uid) ∧
    ∃ t ps, resolveAcc s g sp a = .ok t ps ∧ StoreAllowed i t g x ps s0 ∧ ∃ p ∈ ps, p.uc = true

/-- The next event of such an access, k of whose bytes are done, covers n bytes: in state s1 its places are ps, and no line of them is held
(R216, R217, R231, R242). -/
def NextEvent (i : Instr) (s0 : State) (g : Grp) (x : Split) (sp : AccSpec) (a : Acc) (k n : Nat) (s1 : State) (ps : List Piece) : Prop :=
  n = eventBytes sp.unit a k ∧
  ∃ s2 s3 qs, resolveAcc s0 g { sp with use := sp.use.at_ .whole } a = .ok s2 qs ∧ StoreAllowed i s2 g x qs s3 ∧
    resolveAcc s3 g { sp with use := sp.use.at_ .unit, align := 1 } (a.unit sp.unit k) = .ok s1 ps ∧
    blocked s1 g.uid (sp.access != 1) (ps.flatMap (pieceLines s1)) = none

/-- A scalar access is performed outside windows from its first event on, of n bytes with the places ps. -/
def EntersDirect (i : Instr) (s : State) (g : Grp) (x : Split) (sp : AccSpec) (a : Acc) (n : Nat) (s1 : State) (ps : List Piece) : Prop :=
  ∃ s0, Begins i s g x sp a s0 ∧ NextEvent i s0 g x sp a 0 n s1 ps

/-- The data of a scalar load are at hand in state s3, in its window, or outside windows at its last event, after which `part` holds what its
events gave (R216, R231). -/
def ReadsAll (i : Instr) (s : State) (g : Grp) (x : Split) (sp : AccSpec) (a : Acc) (s3 : State) (g3 : Grp) (m : MemMode) (part : Part)
    (ps : List Piece) : Prop :=
  (m = .window ∧ part = { lane := 0, got := [], done := 0 } ∧
    ∃ s1 s2, Enters i s g x sp a s1 ps s2 g3 ∧ s3 = noteAccess s2 g.uid .window true ps) ∨
  (m = .direct ∧ watchTrap g x.noWatch sp.access x.act [a] = none ∧ ∃ p0 s0 n s1 us,
    ((p0 = { lane := 0, got := [], done := 0 } ∧ Begins i s g x sp a s0) ∨ (x.part = some p0 ∧ p0.lane = 0 ∧ s0 = s)) ∧
    NextEvent i s0 g x sp a p0.done n s1 us ∧
    part = { p0 with got := p0.got ++ unitRead s1 g (sp.cap16 || sp.caps) us, done := p0.done + n } ∧ a.n ≤ part.done ∧
    ps = part.pieces ∧ s3 = setPart s1 g.uid x.idx none ∧ grpOf s3 g.uid = some g3)

/-- The split with no access under way. -/
def noPart (x : Split) : Split := { x with part := none }

/-- A group stands as it did but for its windows, and its split x has no access under way. -/
def SameButPart (g g' : Grp) (x : Split) : Prop :=
  { g' with wins := g.wins, rbNext := g.rbNext, g := g.g } = g ∧ g'.g = g.g.setSplit (noPart x)

/-- A group that has joined a window stands as it did but for its windows. -/
def SameButWins (g g' : Grp) : Prop := { g' with wins := g.wins, rbNext := g.rbNext } = g

/-- The access of a scalar memory instruction (R220, R221, R282, R283): n bytes at the address of its capability with its offset. -/
def accOf (x : Split) : Instr → Option (AccSpec × Acc)
  | .sld _ a imm => some ({ need := [0], access := 1 }, { l := 0, x := cGet x a, va := cAddr (cGet x a) + imm.toInt, n := 4, b := none })
  | .sst _ a imm => some ({ need := [1], access := 2, use := .store }, { l := 0, x := cGet x a, va := cAddr (cGet x a) + imm.toInt, n := 4, b := none })
  | .sldc _ a b f => some ({ need := [0], access := 1, cap16 := true },
      { l := 0, x := cGet x a, va := cAddr (cGet x a) + (sGet x b).toInt + 16 * f.toInt, n := 16, b := none })
  | .sstc _ a b f => some ({ need := [1], access := 2, cap16 := true, use := .store },
      { l := 0, x := cGet x a, va := cAddr (cGet x a) + (sGet x b).toInt + 16 * f.toInt, n := 16, b := none })
  | .binit a _ _ _ | .arrive a _ _ | .expect a _ _ => some ({ need := [10, 0, 1], access := 3, align := 16, sp := some true, use := .atomic, atom := 16 },
      { l := 0, x := cGet x a, va := cAddr (cGet x a), n := 16, b := none })
  | .btest a _ _ => some ({ need := [0], access := 1, align := 16, sp := some true, atom := 16 },
      { l := 0, x := cGet x a, va := cAddr (cGet x a), n := 16, b := none })
  | _ => none

/-- The number that an access reads, the bytes in address order with the lowest first (R215), as the group sees memory (R240). -/
def seen (s : State) (g : Grp) (m : MemMode) (ps : List Piece) : Nat := leNat (ps.flatMap (viewOf s g m).bytes)

/-- The stores of bytes to the places of an access, in address order; a place of another node is a write under its authorisation (R215). -/
def byteStores : List Piece → List Byte → List BufOp
  | [], _ => []
  | p :: ps, b => (match p.loc.sp with
      | .remote node => .remote node p.loc.a p.n p.au (.write (b.take p.n))
      | _ => .write p.loc (b.take p.n) 0) :: byteStores ps (b.drop p.n)

/-- The store of a capability at a granule (R174). -/
def capStore (p : Piece) (v : Cap) : BufOp :=
  match p.loc.sp with | .remote node => .remote node p.loc.a 16 p.au (.capWrite v) | _ => .writeCap p.loc v

/-- The operations that a store form buffers or performs at the places of its access (R174, R279, R282). -/
def storeOp (x : Split) : Instr → Option (List Piece → List BufOp)
  | .sst d _ _ => some fun ps => byteStores ps (leBytes 4 (sGet x d).toNat)
  | .sstc d _ _ _ => some fun ps => (ps.take 1).map fun p => capStore p (cGet x d)
  | .binit _ b z keep => some fun ps => (ps.take 1).map fun p => .bar p.loc (.init ((sGet x b).truncate 16) z keep)
  | .arrive _ b w => some fun ps => (ps.take 1).map fun p => .bar p.loc (.arrive (if w then pairS x b else (sGet x b).toNat))
  | .expect _ b w => some fun ps => (ps.take 1).map fun p => .bar p.loc (.expect (if w then pairS x b else (sGet x b).toNat))
  | _ => none

/-- The fault of a store of a tagged capability v through c at local places of a group (R174): the detail and the permission. -/
def capStoreFault (s : State) (g : Grp) (c v : Cap) (ps : List Piece) : Option (Nat × Nat) :=
  if v.tag = false then none
  else if cHas c 4 = false then some (3, 4)
  else if cHas v 13 = false ∧ cHas c 5 = false then some (9, 0)
  else if ps.any fun p => decide (p.loc.sp = .host) || (cSP v && decide (p.loc.sp = .hbm) &&
      !(match (resolve s.ram p.loc).sp with | .pad w => (gangBy s g.gang).any fun y => y.wgs.contains w | _ => false)) then some (8, 0)
  else none

/-- The fields of a barrier object in its 16 bytes (R277). -/
def barFields (b : List Byte) : Nat × Nat × Nat × Int :=
  (leNat (b.take 2), leNat ((b.drop 2).take 2), leNat ((b.drop 4).take 4),
   if leNat (b.drop 8) < 2 ^ 63 then (leNat (b.drop 8) : Int) else (leNat (b.drop 8) : Int) - 2 ^ 64)

/-- addb of R279. -/
def addBytes (b k : Int) : Int := if b = -(2 ^ 63) then b else max (-(2 ^ 63 - 1)) (min (2 ^ 63 - 1) (b + k))

/-- The completion check of R279. -/
def phaseCheck (r e p : Nat) (b : Int) : Nat × Nat × Nat × Int :=
  if r = 0 ∧ b = 0 then (e, e, (p + 1) % 2 ^ 32, b) else (r, e, p, b)

/-- The operations of R279 on the fields remaining, expected, phase and bytes. -/
def barRule (f : Nat × Nat × Nat × Int) : BarOp → Nat × Nat × Nat × Int
  | .init n z keep => if z = true ∧ (f.1 ≠ 0 ∨ f.2.1 ≠ 0) then f else (n.toNat, n.toNat, if keep then f.2.2.1 else 0, 0)
  | .arrive k => phaseCheck (f.1 - 1) f.2.1 f.2.2.1 (addBytes f.2.2.2 k)
  | .expect k => phaseCheck f.1 f.2.1 f.2.2.1 (addBytes f.2.2.2 k)
  | .count m => phaseCheck f.1 f.2.1 f.2.2.1 (addBytes f.2.2.2 (-m))
  | .error => phaseCheck f.1 f.2.1 f.2.2.1 (-(2 ^ 63))

/-- What BTEST answers for phase p (R280, R285). -/
def testPhase (f : Nat × Nat × Nat × Int) (p : Word) : Word :=
  let d := (f.2.2.1 + 2 ^ 32 - p.toNat) % 2 ^ 32
  if 1 ≤ d ∧ d < 2 ^ 31 then 0 else if f.2.2.2 = -(2 ^ 63) then 1 else 2

end Sys2Proof.Claims

/-- SLD, SLDC and BTEST in a window (R175, R215, R220, R221, R285): the destination takes what the group sees at the places of the access;
nothing is stored, and memory is as the translation left it. -/
def Sys2Proof.Claims.ScalarLoadResult : Prop :=
  ∀ (i : Instr) (s : State) (g : Grp) (x : Split) (sp : AccSpec) (a : Acc) (s1 : State) (ps : List Piece) (s2 : State) (g2 : Grp)
    (s3 : State), Runs s g x → accOf x i = some (sp, a) → Enters i s g x sp a s1 ps s2 g2 → s3 = noteAccess s2 g.uid .window true ps →
    ∃ g3, grpOf s3 g.uid = some g3 ∧ SameButWins g g3 ∧ s3.ram = s1.ram ∧
      (∀ d c imm, i = .sld d c imm → ¬ Seizes g3 x [(d, BitVec.ofNat 32 (seen s3 g2 .window ps))] →
        CompletesIn i s (dropAns s3 g.uid) g3 x (pccAt x 1) [(d, BitVec.ofNat 32 (seen s3 g2 .window ps))]) ∧
      (∀ c b r, i = .btest c b r → pendingStop s g = none → ∀ v, v = testPhase (barFields (ps.flatMap (viewOf s3 g2 .window).bytes)) (sGet x b) →
        ¬ Seizes g3 x [(r, v)] → CompletesIn i s s3 g3 x (pccAt x 1) [(r, v)]) ∧
      (∀ d c b f, i = .sldc d c b f → ∃ g4, SameButWins g g4 ∧
        CompletesIn i s (dropAns (noteGran s3 g.uid .window ((viewOf s3 g2 .window).cap (cGet x c) ps)) g.uid)
          (withC g4 x (some d) ((viewOf s3 g2 .window).cap (cGet x c) ps)) (cSet x d ((viewOf s3 g2 .window).cap (cGet x c) ps)) (pccAt x 1) [])

/-- SLD, SLDC and BTEST outside windows (R216, R222, R231, R255): an access that is one event gives what its place holds; a longer SLD
performs its first event, keeps what that gave, and has not retired. -/
def Sys2Proof.Claims.ScalarLoadDirect : Prop :=
  ∀ (i : Instr) (s : State) (g : Grp) (x : Split) (sp : AccSpec) (a : Acc) (n : Nat) (s1 : State) (p : Piece),
    Runs s g x → SplitsOk g → accOf x i = some (sp, a) → EntersDirect i s g x sp a n s1 [p] →
    (∀ d c imm, i = .sld d c imm → n = 4 → ∀ v, v = BitVec.ofNat 32 (seen s1 g .direct [p]) → ¬ Seizes g x [(d, v)] →
      CompletesIn i s (dropAns s1 g.uid) g x (pccAt x 1) [(d, v)]) ∧
    (∀ d c imm, i = .sld d c imm → n < 4 →
      exec i s = .next (dropAns (setPart s1 g.uid x.idx (some { lane := 0, got := [(p.loc, (viewOf s1 g .direct).bytes p, false)], done := n })) g.uid)) ∧
    (∀ c b r, i = .btest c b r → pendingStop s g = none → ∀ v, v = testPhase (barFields ((viewOf s1 g .direct).bytes p)) (sGet x b) →
      ¬ Seizes g x [(r, v)] → CompletesIn i s s1 g x (pccAt x 1) [(r, v)]) ∧
    (∀ d c b f, i = .sldc d c b f → ∀ v, v = (viewOf s1 g .direct).cap (cGet x c) [p] →
      CompletesIn i s (dropAns s1 g.uid) (withC g x (some d) v) (cSet x d v) (pccAt x 1) [])

/-- SST, SSTC, BINIT, ARRIVE and EXPECT (R174, R220, R221, R279, R282, R284): in a window the operations on the places of the access are
buffered in order; outside windows an access that is one event performs its operation. No register changes. -/
def Sys2Proof.Claims.ScalarStoreResult : Prop :=
  ∀ (i : Instr) (s : State) (g : Grp) (x : Split) (sp : AccSpec) (a : Acc) (s1 : State) (ps : List Piece) (ops : List Piece → List BufOp),
    Runs s g x → SplitsOk g → accOf x i = some (sp, a) → storeOp x i = some ops →
    (∀ (s2 : State) (g2 : Grp) (s4 : State), Enters i s g x sp a s1 ps s2 g2 →
      s4 = (ops ps).foldl (fun t o => emit t g.uid .window o) (noteAccess s2 g.uid .window false ps) →
      ∃ s5 g4, grpOf s4 g.uid = some g4 ∧ SameButWins g g4 ∧ CompletesIn i s s5 g4 x (pccAt x 1) [] ∧ (s5 = s4 ∨ s5 = dropAns s4 g.uid)) ∧
    (∀ (p : Piece) (s4 : State), ps = [p] → EntersDirect i s g x sp a a.n s1 ps → s4 = (ops ps).foldl (fun t o => perform t g.uid o) s1 →
      ∃ s5 g4, grpOf s4 g.uid = some g4 ∧ SameButWins g g4 ∧ CompletesIn i s s5 g4 x (pccAt x 1) [] ∧ (s5 = s4 ∨ s5 = dropAns s4 g.uid))

/-- A store of a tagged capability v through c (R174): at places of this node it is allowed unless STORECAP is missing (detail 3), v is local
and STORELOCAL is missing (9), or a place is a host page, or v names the scratchpad and a place is device memory outside the mappings of
the gang (8). An untagged value is stored anywhere. -/
def Sys2Proof.Claims.CapabilityStoreRule : Prop :=
  ∀ (s : State) (g : Grp) (c v : Cap) (va : Int) (ps : List Piece), (∀ p ∈ ps, ∀ n, p.loc.sp ≠ .remote n) →
    (capStoreFault s g c v ps = none → storeCapCheck s g c v va ps = .ok s ()) ∧
    (∀ d m, capStoreFault s g c v ps = some (d, m) →
      storeCapCheck s g c v va ps = .fault s { kind := 3, detail := d, cap := c, addr := (va % 2 ^ 64).toNat, access := 2, missing := m })

/-- A store in a window is buffered, and nothing else changes: memory, tags and the other groups stay (R240). -/
def Sys2Proof.Claims.WindowBuffers : Prop :=
  ∀ (s : State) (g : Grp) (w : Window) (older : List Window) (o : BufOp) (t : State), grpOf s g.uid = some g → g.wins = older ++ [w] →
    t = emit s g.uid .window o →
    grpOf t g.uid = some { g with wins := older ++ [{ w with buf := w.buf ++ [o] }] } ∧ (∀ u, u ≠ g.uid → grpOf t u = grpOf s u) ∧
    { t with grps := s.grps } = s

/-- A store performed (R173, R240, R312): its bytes read back from its place, no other byte of this node's memory changes, and the tags of
the granules it touches are clear. -/
def Sys2Proof.Claims.StorePerformed : Prop :=
  ∀ (s : State) (g : Grp) (l : Loc) (d : List Byte), grpOf s g.uid = some g → (∀ n, l.sp ≠ .remote n) →
    (∀ i j, i < j → j < d.length → resolve s.ram { l with a := l.a + i } ≠ resolve s.ram { l with a := l.a + j }) →
    ∀ t, t = perform s g.uid (.write l d 0) →
      ramRead t.ram l d.length = d ∧
      (∀ p : Loc, (∀ i < d.length, p ≠ resolve s.ram { l with a := l.a + i }) → byteAt t.ram p = byteAt s.ram p) ∧
      (∀ i < d.length, tagAt t.ram (resolve s.ram { l with a := l.a + i }) = false) ∧ t.ram.maps = s.ram.maps

/-- A barrier operation performed does to the object what R279 says, as one event, and to no other byte. -/
def Obligations.BarrierOperation : Prop :=
  ∀ (r : Ram) (w a : Nat) (op : BarOp),
    barFields (ramRead (barRam r { sp := .pad w, a := a } op) { sp := .pad w, a := a } 16) =
      barRule (barFields (ramRead r { sp := .pad w, a := a } 16)) op ∧
    ∀ p : Loc, (∀ i < 16, p ≠ { sp := .pad w, a := a + i }) → byteAt (barRam r { sp := .pad w, a := a } op) p = byteAt r p

/-- A scalar access that matches a watchpoint, fails its checks, its translation or the check of the capability it stores traps with the
failure, and stores nothing (R174, R177, R217, R418); one to an uncached page in an idempotent region is ILLEGAL code 11 (R429). -/
def Sys2Proof.Claims.ScalarAccessTraps : Prop :=
  ∀ (i : Instr) (s : State) (g : Grp) (x : Split) (sp : AccSpec) (a : Acc) (s1 : State) (t : TrapInfo), Runs s g x →
    accOf x i = some (sp, a) → (∀ c b r, i = .btest c b r → pendingStop s g = none) →
    (watchTrap g x.noWatch sp.access x.act [a] = some t → Traps i s s g x t) ∧
    (watchTrap g x.noWatch sp.access x.act [a] = none → x.part = none → soloOn g = false →
      (resolveAcc s g sp a = .fault s1 t → Traps i s (dropAns s1 g.uid) g x t) ∧
      (∀ d c b f s0 ps, i = .sstc d c b f → resolveAcc s g sp a = .ok s0 ps →
        storeCapCheck s0 g (cGet x c) (cGet x d) a.va ps = .fault s1 t → Traps i s (dropAns s1 g.uid) g x t) ∧
      (∀ s0 ps, resolveAcc s g sp a = .ok s0 ps → StoreAllowed i s0 g x ps s1 → (∃ p ∈ ps, p.uc = true) → ¬ NoRegion g →
        Traps i s s1 g x { kind := 1, detail := 11 })) ∧
    (watchTrap g x.noWatch sp.access x.act [a] = none → x.part = none → soloOn g = true → g.wins = [] →
      resolveAcc s g { sp with use := sp.use.at_ .whole } a = .fault s1 t → Traps i s (setPart (dropAns s1 g.uid) g.uid x.idx none) g x t)

/-- The checks at use in the order of R177: tag, seal, permissions with the lowest that is missing, bounds, alignment of a capability
access, and the space that the instruction asks. -/
def Obligations.ChecksAtUse : Prop :=
  ∀ (c : Cap) (need : List Nat) (a : Int) (n access : Nat) (cap16 : Bool) (sp : Option Bool) (pad : Nat → Option Nat) (need' : List Nat) (inPad : Prop),
    need' = (if a / 2 ^ 56 % 2 = 1 then need ++ [9] else need) →
    (inPad ↔ (cSP c = true → 0 ≤ a ∧ a < 2 ^ 25 ∧ ∃ z, pad (a / 2 ^ 21).toNat = some z ∧ a % 2 ^ 21 + n ≤ z)) →
    let flt (d m : Nat) : Except TrapInfo Unit := .error { kind := 3, detail := d, cap := c, addr := (a % 2 ^ 64).toNat, access := access, missing := m }
    (c.tag = false → checkUse c need a n access cap16 sp pad = flt 1 0) ∧
    (c.tag = true → cOtype c ≠ 0 → checkUse c need a n access cap16 sp pad = flt 2 0) ∧
    (c.tag = true → cOtype c = 0 → ∀ p ∈ need', cHas c p = false → (∀ q ∈ need', q < p → cHas c q = true) →
      checkUse c need a n access cap16 sp pad = flt 3 p) ∧
    (c.tag = true → cOtype c = 0 → (∀ p ∈ need', cHas c p = true) →
      (¬ (capBase c ≤ a ∧ a + n ≤ capTop c ∧ inPad) → checkUse c need a n access cap16 sp pad = flt 4 0) ∧
      (capBase c ≤ a → a + n ≤ capTop c → inPad →
        (cap16 = true → a % 16 ≠ 0 → checkUse c need a n access cap16 sp pad = flt 10 0) ∧
        ((cap16 = true → a % 16 = 0) →
          (sp = some (!cSP c) → checkUse c need a n access cap16 sp pad = flt 4 0) ∧
          (sp ≠ some (!cSP c) → checkUse c need a n access cap16 sp pad = .ok ()))))

/-- XLATE, XLATE.lim, XDROP and XDROP.all (R207, R208): a b register takes the translation of the capability, its limit is read, and it is
emptied; while an enqueued lane instruction that names the register has not issued, XLATE and XDROP wait. Memory stays. -/
def Sys2Proof.Claims.TranslationRegisters : Prop :=
  ∀ (s : State) (g : Grp) (x : Split) (b : BRegIx) (c : CReg) (d : SReg), Runs s g x →
    (bBusy g b.toNat = true → exec (.xlate b c) s = .next s ∧ exec (.xdrop b) s = .next s) ∧
    (bBusy g b.toNat = false → Completes (.xdrop b) s { g with g := { g.g with b := aset bNone g.g.b b.toNat bNone } } x (pccAt x 1) []) ∧
    ((∀ n < 8, bBusy g n = false) → Completes .xdropAll s { g with g := { g.g with b := [] } } x (pccAt x 1) []) ∧
    (bBusy g b.toNat = false → (cGet x c).tag = true → cOtype (cGet x c) = 0 → capBase (cGet x c) ≤ cAddr (cGet x c) →
      (cAddr (cGet x c) : Int) ≤ capTop (cGet x c) → ∀ s1 r, xlateReg s g (cGet x c) = (s1, r) →
      CompletesIn (.xlate b c) s s1 { g with g := { g.g with b := aset bNone g.g.b b.toNat r } } x (pccAt x 1) [] ∧ s1.ram = s.ram ∧
        r.cap = cGet x c ∧ (r.limit.toNat : Int) ≤ capTop (cGet x c) - cAddr (cGet x c)) ∧
    ((bGet g.g b.toNat).stale = false → ∀ v, v = (if (bGet g.g b.toNat).cap.tag = true then (bGet g.g b.toNat).limit else 0) →
      ¬ Seizes g x [(d, v)] → Completes (.xlateLim b d) s g x (pccAt x 1) [(d, v)])

/-- UNMAP and UNMAP.all (R226): after the commit the slot's mapping, or every mapping of the workgroup, ends; a task's workgroup has none. -/
def Sys2Proof.Claims.UnmapResult : Prop :=
  ∀ (s : State) (g : Grp) (x : Split) (s1 : State) (g1 : Grp) (x1 : Split) (k : BitVec 3) (t : State) (g2 : Grp), Runs s g x → NoRegion g →
    Settles s g x s1 g1 x1 → grpOf t g.uid = some g2 → g2.g = g1.g →
    (t = (if g1.task then s1 else unmapSlot s1 g1.wg k.toNat) → CompletesIn (.unmap k) s t g2 x1 (pccAt x1 1) []) ∧
    (t = (if g1.task then s1 else unmapWg s1 g1.wg) → CompletesIn .unmapAll s t g2 x1 (pccAt x1 1) [])

/-- MAP (R224): with both capabilities checked, the sizes and places legal and no overlap with another live mapping, the slot's old mapping
ends, and the pages of the range become rows of the scratchpad from the given place on, in order. -/
def Sys2Proof.Claims.MapResult : Prop :=
  ∀ (s : State) (g : Grp) (x : Split) (s1 : State) (g1 : Grp) (x1 : Split) (d a : CReg) (b : SReg) (k : BitVec 3) (s2 : State) (ps : List (Nat × Nat))
    (len : Nat) (c p : Cap) (t : State) (g3 : Grp),
    Runs s g x → NoRegion g → Settles s g x s1 g1 x1 → c = cGet x1 a → p = cGet x1 d → len = (sGet x1 b).toNat →
    checkUse c [11, 0, 1] (cAddr c) len 5 false (some false) (gangPad s1 g1.gang) = .ok () → check7 s1 (pcidOf s1 g1.launch) c (cAddr c) 5 = none →
    checkUse p [0, 1] (cAddr p) len 5 false (some true) (gangPad s1 g1.gang) = .ok () →
    cAddr p / 2 ^ 21 % 16 = wgIndex s1 g1 → cAddr c % 128 = 0 → cAddr p % 128 = 0 → len % 128 = 0 → 128 ≤ len → len ≤ 262144 →
    mapPieces s1 g1 c (cAddr c) 66 len = .ok s2 (some ps) →
    (∀ q ∈ ps, ∀ e ∈ s2.ram.maps, ¬ (e.wg = g1.wg ∧ e.slot = k.toNat) → ¬ (q.1 < e.pa + e.len ∧ e.pa < q.1 + q.2)) →
    t = (mapEnts g1.wg k.toNat (cAddr p % 2 ^ 21) ps).foldl mapOne (unmapSlot s2 g1.wg k.toNat) → grpOf t g.uid = some g3 → g3.g = g1.g →
    ∃ t', CompletesIn (.map d a b k) s t' g3 x1 (pccAt x1 1) [] ∧ t' = { t with owners := t'.owners }

/-- A mapping keeps what the range held (R224): read by its addresses in memory or by its rows, each byte is as before. -/
def Sys2Proof.Claims.MapKeepsContents : Prop :=
  ∀ (s : State) (m : MapEnt), (∀ e ∈ s.ram.maps, ∀ k < m.len, ¬ (e.pa ≤ m.pa + k ∧ m.pa + k < e.pa + e.len)) →
    ramRead (mapOne s m).ram (hbmLoc m.pa) m.len = ramRead s.ram (hbmLoc m.pa) m.len ∧
    ramRead (mapOne s m).ram { sp := .pad m.wg, a := m.off } m.len = ramRead s.ram (hbmLoc m.pa) m.len

namespace Sys2Proof.Claims

/-- The range of a cache instruction, which is not empty, passes its checks and its pages translate, and the homes of its remote pages allow
it: the state is then s1 and the places of the range ps (R228, R229, R230). -/
def Ranged (s : State) (g : Grp) (c : Cap) (len : Nat) (need : List Nat) (kind : ChkKind) (s1 : State) (ps : List (Tgt × Nat)) : Prop :=
  len ≠ 0 ∧ checkUse c need (cAddr c) len (chkAccess kind) false (some false) (fun _ => none) = .ok () ∧
  ∃ s0, pagesOf s (agtOf s g) c (cAddr c) (chkAccess kind) (len / 4096 + 2) len = .ok s0 ps ∧
    piecesCheck s0 { cap := c, stated := 0 } (agtOf s g) (chkAccess kind) kind
      (ps.filter fun p => match p.1 with | .there _ _ => true | .here _ _ => false) = .ok s1 ()

/-- The lines of a cache instruction's places (R24, R228). -/
def rangeLines (ps : List (Tgt × Nat)) : List Loc := ps.flatMap tgtLines

/-- A line lies at this node. -/
def Local (l : Loc) : Prop := ∀ n, l.sp ≠ .remote n

/-- The contents of a line of device memory have 128 bytes and 8 tags (R24, R172). -/
def ImgOk (i : LineImg) : Prop := i.data.length = 128 ∧ i.tags.length = 8

/-- A scalar cache instruction: its capability register and its length register. -/
def cacheRegs : Instr → Option (CReg × SReg)
  | .cflush a b _ | .cinv a b | .cdiscard a b | .cpin a b | .cunpin a b | .pref a b _ => some (a, b)
  | _ => none

/-- The operations of SPAWN's record r with its parent's join word (R298). -/
def spawnOps (r : TaskRec) : Option Piece → List BufOp
  | none => [.spawn none (recShelf r) r]
  | some p => match p.loc.sp with
    | .remote node => [.remote node p.loc.a 4 p.au (.atomic .add .z32 1 0), .spawn none (recShelf r) r]
    | _ => [.spawn (some p.loc) (recShelf r) r]

end Sys2Proof.Claims

/-- CFLUSH, CFLUSH.inv and CUNPIN (R228, R230): memory stays; no line of the range is left that differs from its home's memory, with .inv
no guest line of the range stays, and CUNPIN leaves no pin of the context on a line of the range. -/
def Sys2Proof.Claims.FlushAndUnpin : Prop :=
  ∀ (s : State) (g : Grp) (x : Split) (a : CReg) (b : SReg) (s1 : State) (ps : List (Tgt × Nat)) (s2 : State), Runs s g x →
    Ranged s g (cGet x a) (sGet x b).toNat [0] .read s1 ps → s2 = dropAns s1 g.uid →
    ∃ g2, grpOf s2 g.uid = some g2 ∧ SameButWins g g2 ∧
    (∀ inv, ∃ t, CompletesIn (.cflush a b inv) s t g2 x (pccAt x 1) [] ∧ t.ram = s1.ram ∧
      (∀ l ∈ rangeLines ps, ∀ k, dirtyKey l = some k → aget [] t.dirty k = []) ∧
      (inv = true → ∀ y ∈ t.fab.guest, (⟨.remote y.node, y.line⟩ : Loc) ∉ rangeLines ps) ∧ { t with dirty := s2.dirty, fab := s2.fab } = s2) ∧
    ∃ t, CompletesIn (.cunpin a b) s t g2 x (pccAt x 1) [] ∧ { t with pins := s2.pins } = s2 ∧
      ∀ p, p ∈ t.pins ↔ p ∈ s2.pins ∧ ¬ (p.pcid = pcidOf s1 g.launch ∧ p.line ∈ rangeLines ps)

/-- CINV (R67, R228): no code cache of the node keeps a code word of the context in the lines of the range; nothing else changes. -/
def Sys2Proof.Claims.CodeInvalidate : Prop :=
  ∀ (s : State) (g : Grp) (x : Split) (a : CReg) (b : SReg) (s1 : State) (ps : List (Tgt × Nat)) (ld : Bool) (lo hi : Nat) (s2 : State), Runs s g x →
    ld = cHas (cGet x a) 0 → Ranged s g (cGet x a) (sGet x b).toNat [if ld then 0 else 2] (if ld then .read else .fetch) s1 ps →
    lo = cAddr (cGet x a) / 128 * 128 → hi = (cAddr (cGet x a) + (sGet x b).toNat + 127) / 128 * 128 → s2 = dropAns s1 g.uid →
    ∃ g2 t, grpOf s2 g.uid = some g2 ∧ SameButWins g g2 ∧ CompletesIn (.cinv a b) s t g2 x (pccAt x 1) [] ∧ { t with codeCache := s2.codeCache } = s2 ∧
      (∀ core va, lo ≤ va → va < hi → va < 2 ^ 58 → pcidOf s1 g.launch < 2 ^ 16 → aget 0 t.codeCache (codeKey core (pcidOf s1 g.launch) va) = 0) ∧
      ∀ e, e ∈ t.codeCache ↔ e ∈ s2.codeCache ∧ ¬ (e.1 / 2 ^ 58 % 2 ^ 16 = pcidOf s1 g.launch ∧ lo ≤ e.1 % 2 ^ 58 ∧ e.1 % 2 ^ 58 < hi)

/-- CDISCARD over lines of this node (R229): the lines that lie wholly inside the range are discarded in order, as one instruction, once none
is held. -/
def Sys2Proof.Claims.DiscardResult : Prop :=
  ∀ (s : State) (g : Grp) (x : Split) (s1 : State) (g1 : Grp) (x1 : Split) (a : CReg) (b : SReg) (s2 : State) (ps : List (Tgt × Nat)) (c : Cap)
    (len : Nat) (ls inside : List Loc) (t : State),
    Runs s g x → NoRegion g → Settles s g x s1 g1 x1 → c = cGet x1 a → len = (sGet x1 b).toNat → Ranged s1 g1 c len [1] .write s2 ps →
    ls = (rangeLines ps).drop (if cAddr c % 128 = 0 then 0 else 1) → inside = ls.take (ls.length - if (cAddr c + len) % 128 = 0 then 0 else 1) →
    (∀ l ∈ inside, Local l) → blocked s2 g1.uid true (inside.flatMap fun l => linesOf s2.ram l 128) = none →
    t = inside.foldl (fun u l => discardLine u g1.uid (pcidOf s2 g1.launch) l) (dropAns s2 g1.uid) →
    ∃ g3, grpOf t g.uid = some g3 ∧ SameButWins g1 g3 ∧ CompletesIn (.cdiscard a b) s t g3 x1 (pccAt x1 1) []

/-- A discarded line of device memory then holds what its home's memory held: its present contents, or older ones that had not been written
back (R229); while a revocation epoch runs its tags pass the load barrier (R194). No byte outside the line changes. -/
def Sys2Proof.Claims.DiscardedLine : Prop :=
  ∀ (s : State) (u pcid : Nat) (l : Loc) (t : State), l.sp = .hbm → l.a % 128 = 0 → t = discardLine s u pcid l →
    (∀ e ∈ s.ram.maps, ∀ k < 128, ¬ (e.pa ≤ l.a + k ∧ l.a + k < e.pa + e.len)) → (∀ i ∈ aget [] s.dirty (l.a / 128), ImgOk i) →
    (∃ i ∈ lineImg s.ram l :: aget [] s.dirty (l.a / 128), (lineImg t.ram l).data = i.data ∧
      (∀ k < 8, (lineImg t.ram l).tags.getD k false = true → i.tags.getD k false = true) ∧ (s.rev.sweepDone = true → lineImg t.ram l = i)) ∧
    aget [] t.dirty (l.a / 128) = [] ∧ ∀ p : Loc, (∀ k < 128, p ≠ hbmLoc (l.a + k)) → byteAt t.ram p = byteAt s.ram p

/-- CPIN over lines of this node (R230): the lines join the pins of the context on the die while their slice has room, and s[sb] takes 128
times the lines of the range that the context has pinned. Memory stays. -/
def Sys2Proof.Claims.PinResult : Prop :=
  ∀ (s : State) (g : Grp) (x : Split) (a : CReg) (b : SReg) (s1 : State) (ps : List (Tgt × Nat)) (s2 t : State) (n : Nat), Runs s g x →
    Ranged s g (cGet x a) (sGet x b).toNat [0] .read s1 ps → (∀ l ∈ rangeLines ps, Local l) → s2 = dropAns s1 g.uid →
    t = (rangeLines ps).foldl (fun u l => pinLine u (pcidOf s1 g.launch) (g.core / 72) l) s2 →
    n = (rangeLines ps).countP (fun l => decide (∃ p ∈ t.pins, p.pcid = pcidOf s1 g.launch ∧ p.line = l)) →
    ∃ g2, grpOf s2 g.uid = some g2 ∧ SameButWins g g2 ∧ (¬ Seizes g2 x [(b, BitVec.ofNat 32 (128 * n))] →
    CompletesIn (.cpin a b) s t g2 x (pccAt x 1) [(b, BitVec.ofNat 32 (128 * n))]) ∧ { t with pins := s2.pins } = s2 ∧
      ∀ p ∈ t.pins, p ∈ s2.pins ∨ (p.pcid = pcidOf s1 g.launch ∧ p.die = g.core / 72 ∧ p.line ∈ rangeLines ps)

/-- A cache instruction with length 0 does nothing, and PREF never faults and changes nothing that a program reads: only walks that wait
and requests for lines of other nodes are added (R228). -/
def Sys2Proof.Claims.PrefetchAndEmptyRange : Prop :=
  ∀ (s : State) (g : Grp) (x : Split) (a : CReg) (b : SReg), Runs s g x →
    (∀ i, cacheRegs i = some (a, b) → sGet x b = 0 → (∀ a' b', i ≠ .cdiscard a' b') →
      Completes i s g x (pccAt x 1) []) ∧
    ∀ l1, ∃ t, CompletesIn (.pref a b l1) s t g x (pccAt x 1) [] ∧ { t with walks := s.walks, fab := s.fab, outbox := s.outbox, uid := s.uid } = s

/-- SPAWN (R296, R298): with the record read, well formed, its parent's join word checked, and its shelf serving the context with room, the
increment and the push are one operation of the window or of the moment; no register changes. A malformed record is CAPFAULT detail 15 and
a shelf that does not serve the context SCOPEFAULT detail 10. -/
def Sys2Proof.Claims.SpawnResult : Prop :=
  ∀ (s : State) (g : Grp) (x : Split) (a : CReg) (sp : AccSpec) (s3 : State) (g3 : Grp) (m : MemMode) (part : Part) (ps : List Piece)
    (s4 : State) (r : TaskRec) (s5 : State) (par : Option Piece) (s6 : State),
    Runs s g x → SplitsOk g → sp = { need := [0], access := 1, align := 64, caps := true } →
    ReadsAll (.spawn a) s g x sp { l := 0, x := cGet x a, va := cAddr (cGet x a), n := 64, b := none } s3 g3 m part ps →
    readRecord s3 g3 m part (cGet x a) ps = (s4, r) →
    (recBad r = true → Traps (.spawn a) s s4 g x { kind := 3, detail := 15, cap := cGet x a, addr := cAddr (cGet x a), access := 1 }) ∧
    (recBad r = false → spawnParent s4 g3 r = .ok s5 par →
      (shelfServes s5 (recShelf r) (pcidOf s5 g.launch) = false →
        Traps (.spawn a) s (dropAns s5 g.uid) g x { kind := 5, detail := 10, cap := cGet x a }) ∧
      (shelfServes s5 (recShelf r) (pcidOf s5 g.launch) = true → shelfFull s5 (recShelf r) = false →
        (m = .window → spawnEmit s5 g.uid (pcidOf s5 g.launch) m par (recShelf r) r =
          .ok ((spawnOps r par).foldl (fun t o => emit t g.uid .window o) s5) ()) ∧
        (spawnEmit s5 g.uid (pcidOf s5 g.launch) m par (recShelf r) r = .ok s6 () →
          ∃ g6, grpOf s6 g.uid = some g6 ∧ SameButPart g g6 x ∧ CompletesIn (.spawn a) s (dropAns s6 g.uid) g6 (noPart x) (pccAt x 1) [])))

namespace Sys2Proof.Claims

/-! Ordering, engine issue and engine status. -/

/-- The count that SOLO starts with (R257). -/
def soloFor (v : Word) : Nat := if v = 0 then 256 else if v.toNat > 65535 then 65535 else v.toNat

/-- What TSTAT.done and CESTAT.done answer on the conditions of the operations at or before a ticket (R346, R366). -/
def doneRule (l : List EngSt) (v : Word) : Prop :=
  let open_ := ∃ c ∈ l, c = .queued ∨ c = .running ∨ c = .stopped
  (v = 0 ∧ open_) ∨ (v = 2 ∧ ¬ open_ ∧ EngSt.error ∈ l) ∨ (v = 1 ∧ ¬ open_ ∧ EngSt.error ∉ l)

/-- Ticket t is at or before ticket T (R346). -/
def atOrBefore (T t : Word) : Prop := (T - t).toNat < 2 ^ 31

/-- The operations and the lists of a group whose tickets are at or before T. -/
def opsTo (s : State) (g : Grp) (T : Word) : List EngSt :=
  (s.tces.filter fun o => decide (o.group = g.uid ∧ (T - o.ticket).toNat < 2 ^ 31)).map (·.st)
def listsTo (s : State) (g : Grp) (T : Word) : List EngSt :=
  (s.ces.filter fun l => decide (l.group = g.uid ∧ (T - l.ticket).toNat < 2 ^ 31)).map (·.st)

/-- What the instructions that act as COMMIT first and then change only the group leave: the group and the writes. v is the answer of
TSTAT.done and CESTAT.done. -/
def afterCommit (s1 : State) (g1 : Grp) (x1 : Split) (v : Word) : Instr → Option (Grp × List (SReg × Word) × Prop)
  | .commit => some (g1, [], True)
  | .solo a => some ({ g1 with solo := some (soloFor (sGet x1 a)) }, [], True)
  | .tstat d => some (g1, [(d, g1.tceTicket)], True)
  | .cestat d => some (g1, [(d, g1.ceTicket)], True)
  | .tstatDone d a => some (g1, [(d, v)], doneRule (opsTo s1 g1 (sGet x1 a)) v)
  | .cestatDone d a => some (g1, [(d, v)], doneRule (listsTo s1 g1 (sGet x1 a)) v)
  | _ => none

/-- The tensor copy instructions: the kind, the registers, and whether no barrier is used (R333). -/
def tceForm : Instr → Option (TceKind × CReg × CReg × SReg × Bool)
  | .tcopy d a b n _ => some (.copy, d, a, b, n)
  | .tcopyG d a b n _ => some (.copyG, d, a, b, n)
  | .tstore d a b n _ => some (.store, d, a, b, n)
  | .tmcast d a b n _ => some (.mcast, d, a, b, n)
  | .treduce d a b op n _ => if op = 0 then some (.reduce .add, d, a, b, n) else if op = 1 then some (.reduce .min, d, a, b, n)
                             else if op = 2 then some (.reduce .max, d, a, b, n) else none
  | _ => none

/-- CELAUNCH and its detached form: the registers, the die, the engine, and whether the list is detached (R351). -/
def ceForm : Instr → Option (CReg × CReg × SReg × Bool × BitVec 4 × Bool)
  | .celaunch d a b die e => some (d, a, b, die, e, false)
  | .celaunchDetach d a b die e => some (d, a, b, die, e, true)
  | _ => none

/-- The group is whole: one split that holds every lane, and no live pairing (R304). -/
def Whole (g : Grp) (x : Split) : Prop :=
  g.g.splits = [x] ∧ x.act = BitVec.allOnes 96 ∧ g.g.compact = none

end Sys2Proof.Claims

/-- COMMIT, SOLO, TSTAT, TSTAT.done, CESTAT and CESTAT.done (R256, R257, R346, R366): after the commit the registers and the count of the
rule, and nothing else. COMMIT.close, SOLO.end and SOLO.get do not commit. -/
def Sys2Proof.Claims.OrderingResult : Prop :=
  (∀ (i : Instr) (s : State) (g : Grp) (x : Split) (s1 : State) (g1 g2 : Grp) (x1 : Split) (v : Word) (ws : List (SReg × Word)) (q : Prop),
    Runs s g x → Settles s g x s1 g1 x1 → pendingStop s1 g1 = none → afterCommit s1 g1 x1 v i = some (g2, ws, q) → q → ¬ Seizes g2 x1 ws →
    g1.wins = [] ∧ CompletesIn i s s1 g2 x1 (pccAt x1 1) ws) ∧
  ∀ (s : State) (g : Grp) (x : Split) (d : SReg), Runs s g x →
    Completes .commitClose s { g with wins := g.wins.map fun w => { w with closed := true } } x (pccAt x 1) [] ∧
    Completes .soloEnd s { g with solo := none } x (pccAt x 1) [] ∧
    ∀ v, v = BitVec.ofNat 32 (g.solo.getD 0) → ¬ Seizes g x [(d, v)] → Completes (.soloGet d) s g x (pccAt x 1) [(d, v)]

/-- TSTAT.drop and CESTAT.drop (R346, R366): after the commit the group's stopped operations, or its stopped lists, end with an error; the
others stay as they are. -/
def Sys2Proof.Claims.DropResult : Prop :=
  ∀ (s : State) (g : Grp) (x : Split) (s1 : State) (g1 : Grp) (x1 : Split), Runs s g x → Settles s g x s1 g1 x1 →
    ((s1.tces.map (·.uid)).Nodup → ∃ t g2, CompletesIn .tstatDrop s t g2 x1 (pccAt x1 1) [] ∧ g2.g = g1.g ∧ t.ces = s1.ces ∧
      t.tces = s1.tces.map fun o => if o.group = g1.uid ∧ o.st = .stopped then { o with st := .error, stop := none } else o) ∧
    ((s1.ces.map (·.uid)).Nodup → ∃ t g2, CompletesIn .cestatDrop s t g2 x1 (pccAt x1 1) [] ∧ g2.g = g1.g ∧ t.tces = s1.tces ∧
      t.ces = s1.ces.map fun l => if l.owner = some g1.uid ∧ l.st = .stopped then { l with st := .error, stop := none, cmds := [], ctx := none } else l)

/-- TCOPY, TCOPY.g, TSTORE, TMCAST and TREDUCE (R331, R333, R338, R339): a whole group whose checks pass in their order has the operation
that the record describes issued, in its window or at once as the next ticket of the group; no register changes. -/
def Sys2Proof.Claims.TensorCopyIssued : Prop :=
  ∀ (i : Instr) (s : State) (g : Grp) (x : Split) (kind : TceKind) (cd ca : CReg) (sb : SReg) (nobar : Bool) (c : Cap)
    (s3 : State) (g3 : Grp) (m : MemMode) (part : Part) (ps : List Piece) (h : Shape) (o : TceOp) (s4 : State),
    Runs s g x → Whole g x → tceForm i = some (kind, cd, ca, sb, nobar) → c = cGet x ca →
    checkUse c [0, 1, 10, 12] (cAddr c) 128 6 false (some true) (gangPad s g.gang) = .ok () → cAddr c % 16 = 0 →
    (soloOn g = true → tceQueued s g.core < 64) →
    ReadsAll i s g x { need := [], access := 1, sp := some true } { l := 0, x := c, va := cAddr c, n := 128, b := none } s3 g3 m part ps →
    parseShape kind (ps.flatMap (viewOf s3 g3 m part.got).bytes) = some h →
    (∀ p ∈ (globNeeds kind).zip [cGet x cd, cGet x (cd + 1)], globCheck p.2 p.1 = none) →
    o = { uid := s3.uid, core := g.core, group := g.uid, wg := g.wg, gang := g.gang, pcid := pcidOf s3 g.launch, ticket := 0, word := actorWord s3,
          kind := kind, shape := h, gcap := cGet x cd, gcap2 := if kind = .copyG then cGet x (cd + 1) else capNull, ccap := c,
          row := (sGet x sb).toNat % 2 ^ 21, bar := (sGet x (sb + 1)).toNat % 2 ^ 21, dstOff := (sGet x sb).toInt, srcOff := (sGet x (sb + 2)).toInt,
          recv := if kind = .mcast then (sGet x (sb + 3)).truncate 16 else 0, nobar := nobar, st := .queued, next := 0, got := [], tag := false,
          put := 0, uncounted := 0, cnt := 0, stop := none } →
    placeCheck s3 o (sGet x sb) (sGet x (sb + 1)) (sGet x (sb + 3)) = none →
    s4 = emit { s3 with uid := s3.uid + 1 } g.uid m (.tce o) →
    (∃ g4, grpOf s4 g.uid = some g4 ∧ g4.g = g.g.setSplit (noPart x) ∧ CompletesIn i s s4 g4 (noPart x) (pccAt x 1) []) ∧
      (m = .direct → s4.tces = s3.tces ++ [{ o with ticket := g3.tceTicket + 1 }])

/-- CELAUNCH and CELAUNCH.detach (R349, R351, R352): the list of the image, with the slots of the image and the registers and with the two
counters of the launch, is issued to its engine; its counter stands at the byte after the slots; no register changes. -/
def Sys2Proof.Claims.ListIssued : Prop :=
  ∀ (i : Instr) (s : State) (g : Grp) (x : Split) (cd ca : CReg) (sb : SReg) (die : Bool) (e : BitVec 4) (detach : Bool) (c : Cap)
    (s3 : State) (g3 : Grp) (m : MemMode) (part : Part) (ps : List Piece) (slots : List Cap) (l : CeList) (s4 s5 : State),
    Runs s g x → Whole g x → ceForm i = some (cd, ca, sb, die, e, detach) → c = cGet x ca →
    checkUse c [0, 12] (cAddr c) 128 6 false none (gangPad s g.gang) = .ok () → cAddr c % 8 = 0 →
    (soloOn g = true → ceQueued s die.toNat e.toNat < 16) →
    ReadsAll i s g x { need := [0, 12], access := 1, caps := cAddr c % 16 = 0 } { l := 0, x := c, va := cAddr c, n := 128, b := none } s3 g3 m part ps →
    slots = imageSlots (viewOf s3 g3 m part.got) c ps →
    l = { uid := s3.uid, die := die.toNat, engine := e.toNat, ctx := none, owner := if detach then none else some g.uid, group := g.uid,
          gang := g.gang, wg := g.wg, launch := g.launch, pcid := pcidOf s3 g.launch, ticket := 0, image := c,
          e := slots ++ [cGet x cd, cGet x (cd + 1), cGet x (cd + 2), cGet x (cd + 3), cGet x (cd + 4), cGet x (cd + 5), cGet x (cd + 6), cGet x (cd + 7)],
          n := [(sGet x sb).zeroExtend 64, (sGet x (sb + 1)).zeroExtend 64, 0, 0, 0, 0, 0, 0], pc := cAddr c + 128, st := .queued,
          waiting := false, cmds := [], word := 0, word1 := 0, word2 := 0, stop := none } →
    s4 = slots.foldl (fun t v => noteGran t g.uid m v) (dropAns s3 g.uid) →
    s5 = emit { s4 with uid := s4.uid + 1 } g.uid m (.ce l) →
    (∃ g5, grpOf s5 g.uid = some g5 ∧ g5.g = g.g.setSplit (noPart x) ∧ CompletesIn i s s5 g5 (noPart x) (pccAt x 1) []) ∧
      (m = .direct → s5.ces = s3.ces ++ [{ l with ticket := g3.ceTicket + 1 }])

namespace Sys2Proof.Claims

/-! Waits, joins and launches. -/

/-- WAITPH and WAITPHY: the object, the phase, the result, and the continuation of WAITPHY (R286, R287). -/
def waitForm : Instr → Option (CReg × SReg × SReg × Option CReg)
  | .waitph a b r => some (a, b, r, none)
  | .waitphy d a b r => some (a, b, r, some d)
  | _ => none

/-- A proxy of the die for the object has not yet received a phase that passes p (R292). -/
def Late (s : State) (die : Nat) (l : Loc) (p : Word) : Prop :=
  ∃ y ∈ s.proxies, l.sp = .pad y.wg ∧ y.off = l.a ∧ y.die = die ∧ ¬ (1 ≤ (y.phase - p).toNat ∧ (y.phase - p).toNat < 2 ^ 31)

/-- The wait on an object is over with the result v (R285, R286). -/
def Over (s : State) (g : Grp) (l : Loc) (p v : Word) : Prop :=
  heldLine s g.uid false (linesOf s.ram l 16) = false ∧ v = testPhase (barFields (ramRead s.ram l 16)) p ∧ v ≠ 2 ∧ (v = 0 → ¬ Late s (g.core / 72) l p)

end Sys2Proof.Claims

/-- WAITPH and WAITPHY (R285, R286, R287, R288): after the commit, a wait that is over gives its result and goes on, WAITPHY at its
continuation; else WAITPH parks its split, and the group of a WAITPHY, or of a WAITPH in a lent slot, that finds a save slot gives its own
slot up and is written to its area of the save slot. -/
def Obligations.WaitResult : Prop :=
  ∀ (i : Instr) (s : State) (g : Grp) (x : Split) (a : CReg) (b r : SReg) (k : Option CReg) (l : Loc) (s1 : State) (g1 : Grp) (x1 : Split)
    (p : Word) (cont : Cap) (yields : Prop), Runs s g x → waitForm i = some (a, b, r, k) → pendingStop s g = none → waitObj s g (cGet x a) = .ok l →
    Settles s g x s1 g1 x1 → p = sGet x1 b → (k = none → cont = pccAt x 1) → (yields ↔ k ≠ none ∨ lentSlot s g = true) →
    (yields → g.g.splits = [x] ∧ g.g.compact = none) →
    (∀ d, k = some d → jumpFault (cGet x d) (cAddr (cGet x d)) false = none ∧ cont = withOtype (withAddr (cGet x d) (cAddr (cGet x d))) 0) →
    (∀ v, Over s1 g1 l p v → ¬ Seizes g1 x1 [(r, v)] → CompletesIn i s s1 g1 x1 cont [(r, v)]) ∧
    ((∀ v, ¬ Over s1 g1 l p v) → ¬ yields →
      ∃ t g' y, exec i s = .next t ∧ { t with proxies := s1.proxies } = setGrp s1 g' ∧ { g' with g := g1.g } = g1 ∧
        { g'.g with splits := [] } = { g1.g with splits := [] } ∧ (∀ j, j ≠ x.idx → g'.g.split j = g1.g.split j) ∧
        g'.g.split x.idx = some y ∧ SameIssue { x1 with st := .waitph l p r none } y) ∧
    ((∀ v, ¬ Over s1 g1 l p v) → yields → (g1.task = true → g1.ySlot ≠ none ∨ saveSlot s1 ≠ none) →
      (g1.task = false → ∃ w, wgBy s1 g1.wg = some w ∧ (w.slot ≠ none ∨ saveSlot s1 ≠ none)) →
      ∃ t u n g', exec i s = .next t ∧ t = imgGrp u (imgBase s1 n) g' ∧ u.ram = s1.ram ∧ grpOf u g.uid = some g' ∧
        (g1.task = true → g'.ySlot = some n) ∧ (g1.task = false → (wgBy u g1.wg).bind (·.slot) = some n) ∧
        g'.dormant = some { obj := l, p := p, res := r } ∧
        { g' with g := g1.g, dormant := g1.dormant, ySlot := g1.ySlot, solo := g1.solo } = g1 ∧ g'.g.laneQ = [] ∧
        { g'.g with splits := [], laneQ := [] } = { g1.g with splits := [], laneQ := [] } ∧ g'.g.split x.idx = some { x1 with pcc := cont })

/-- JOINDEC on a record of this node (R296, R299): all ones for a join word of 0; a join word above 1 is decremented in memory and answered;
at 1 it becomes 0 and the record is pushed on its shelf, as one operation, with the answer 0. -/
def Sys2Proof.Claims.JoinDecrement : Prop :=
  ∀ (s : State) (g : Grp) (x : Split) (s1 : State) (g1 : Grp) (x1 : Split) (a : CReg) (r : SReg) (c : Cap) (s2 : State) (p : Piece) (ps : List Piece)
    (rec_ : TaskRec) (j : Word) (put : Word → State),
    Runs s g x → NoRegion g → Settles s g x s1 g1 x1 → c = cGet x1 a →
    watchTrap g1 x1.noWatch 3 x1.act [{ l := 0, x := c, va := cAddr c, n := 64, b := none }] = none →
    resolveAcc s1 g1 { need := [10, 0, 1], access := 3, align := 64, caps := true, use := .loadDirect }
      { l := 0, x := c, va := cAddr c, n := 64, b := none } = .ok s2 (p :: ps) → (∀ n, p.loc.sp ≠ .remote n) →
    blocked s2 g1.uid true (pieceLines s2 p) = none →
    rec_ = { q := (quarters (p :: ps)).map fun p => (viewOf s2 g1 .direct).cap c [p], launch := g1.launch } → j = capWord (rec_.q.getD 3 capNull) 0 →
    put = (fun v => putMem s2 g1.uid { p.loc with a := p.loc.a + 48 } 0 (leBytes 4 v.toNat)) →
    (j = 0 → ∃ g5, grpOf s2 g.uid = some g5 ∧ SameButWins g1 g5 ∧ (¬ Seizes g5 x1 [(r, 0xFFFFFFFF)] →
      CompletesIn (.joindec a r) s s2 g5 x1 (pccAt x1 1) [(r, 0xFFFFFFFF)])) ∧
    (j ≠ 0 → j ≠ 1 → ∃ g5, grpOf (put (j - 1)) g.uid = some g5 ∧ SameButWins g1 g5 ∧ (¬ Seizes g5 x1 [(r, j - 1)] →
      CompletesIn (.joindec a r) s (put (j - 1)) g5 x1 (pccAt x1 1) [(r, j - 1)])) ∧
    (j = 1 → recBad rec_ = false → shelfServes s2 (recShelf rec_) (pcidOf s2 g1.launch) = true → shelfFull s2 (recShelf rec_) = false →
      ∀ t, t = perform (put 0) g1.uid (.spawn none (recShelf rec_) rec_) → ∃ g5, grpOf t g.uid = some g5 ∧ SameButWins g1 g5 ∧
        (¬ Seizes g5 x1 [(r, 0)] → CompletesIn (.joindec a r) s t g5 x1 (pccAt x1 1) [(r, 0)])) ∧
    (j = 1 → recBad rec_ = true → Traps (.joindec a r) s s2 g1 x1 { kind := 3, detail := 15, cap := c, addr := cAddr c, access := 3 }) ∧
    (j = 1 → recBad rec_ = false → shelfServes s2 (recShelf rec_) (pcidOf s2 g1.launch) = false →
      Traps (.joindec a r) s s2 g1 x1 { kind := 5, detail := 10, cap := c })

/-- LAUNCH (R404): with the record's range checked, a device-fed queue of the context that is enabled and whose ring has room, the 32 bytes
join the ring as one event, in the window or at once; no register changes. -/
def Obligations.LaunchResult : Prop :=
  ∀ (s : State) (g : Grp) (x : Split) (a : CReg) (b : SReg) (c : Cap) (q : Nat) (s0 : State) (page : Option (Nat × Nat × Nat))
    (s3 : State) (g3 : Grp) (m : MemMode) (part : Part) (ps : List Piece) (s4 : State),
    Runs s g x → SplitsOk g → c = cGet x a → q = (sGet x b).toNat → checkUse c [0] (cAddr c) 32 1 false none (gangPad s g.gang) = .ok () → cAddr c % 32 = 0 →
    launchEntry s g c q = .ok s0 page →
    ReadsAll (.launch a b) s0 g x { need := [0], access := 1, align := 32 } { l := 0, x := c, va := cAddr c, n := 32, b := none } s3 g3 m part ps →
    (m = .direct → blocked s3 g.uid true (winLines s3 [.ring q []]) = none) →
    s4 = emit s3 g.uid m (.ring q (ps.flatMap (viewOf s3 g3 m part.got).bytes)) →
    ∃ s5 g4 g5, CompletesIn (.launch a b) s s5 g5 (noPart x) (pccAt x 1) [] ∧ { s5 with grps := s4.grps } = dropAns s4 g.uid ∧
      grpOf s4 g.uid = some g4 ∧ SameButPart g g4 x ∧ grpOf s5 g.uid = some g5 ∧
      { g5 with wins := g4.wins } = g4 ∧ g5.wins.map (·.buf) = g4.wins.map (·.buf)

namespace Sys2Proof.Claims

/-! Traps and returns. -/

/-- The instructions whose effect is a trap, and the trap (R65, R89, R416). A TRAP commits first; the others stand where they are. -/
def trapping (x : Split) : Instr → Option TrapInfo
  | .trap code => some { kind := 13, detail := 0, w16 := code.zeroExtend 32 }
  | .illegalScalarWord _ code => some { kind := 1, detail := code }
  | .scalarFetchFault kind detail addr home =>
    some { kind := kind, detail := detail, access := 4, addr := addr.toNat, home := home, cap := x.pcc, missing := if kind = 3 ∧ detail = 3 then (if cHas x.pcc 2 = true ∧ cHas x.pcc 9 = false then 9 else 2) else 0 }
  | _ => none

/-- Word n of a fault record as R411 lays it out, for a trap t of split k with fault mask m at a place w. -/
def recWord (t : TrapInfo) (w : TrapAt) (k : Nat) (n : Nat) : Word :=
  let bit (b : Bool) : Nat := if b then 1 else 0
  let a : DWord := BitVec.ofNat 64 t.addr
  let pc : DWord := BitVec.ofNat 64 w.pc
  if n = 0 then BitVec.ofNat 32 (t.kind % 256 + t.detail % 256 * 2 ^ 8 + t.access % 16 * 2 ^ 16 + bit t.home * 2 ^ 20 + bit w.lane * 2 ^ 21
    + bit w.engine * 2 ^ 22 + bit t.cap.tag * 2 ^ 23 + t.missing % 16 * 2 ^ 24 + k % 4 * 2 ^ 28)
  else if n = 1 then w.w1 else if n = 2 then w.w2 else if n = 3 then w.w3
  else if n ≤ 6 then t.mask.extractLsb' (32 * (n - 4)) 32 else if n ≤ 9 then t.undone.extractLsb' (32 * (n - 7)) 32
  else if n ≤ 11 then a.extractLsb' (32 * (n - 10)) 32 else if n ≤ 15 then t.cap.bits.extractLsb' (32 * (n - 12)) 32
  else if n = 16 then t.w16 else if n = 17 then t.w17 else if n = 18 then t.w18
  else if n ≤ 20 then pc.extractLsb' (32 * (n - 19)) 32 else BitVec.ofNat 32 (w.ix % 32)

/-- What the lane queue of a group takes back from a frame (R59, R415): a trapping block goes on at its next instruction, or at the first
instruction of its chain run, or where it stood; then the blocks set aside. -/
def givenBack (f : TrapFrame) (skip : Bool) (l : List LaneBlock) : Prop :=
  (f.block = none ∧ l = f.aside) ∨
  ∃ b, f.block = some b ∧
    ((skip = true ∧ b.next + 1 < b.words.length ∧ l = { b with next := b.next + 1, todo := none, pre := none } :: f.aside) ∨
     (skip = true ∧ b.next + 1 ≥ b.words.length ∧ l = f.aside) ∨
     (skip = false ∧ ∃ b', l = b' :: f.aside ∧ { b' with next := b.next, todo := b.todo, noWatch := b.noWatch, pre := b.pre } = b ∧
       b'.noWatch = decide (f.kind = 12) ∧
       (∀ lo n, runOf b.words b.next = some (lo, n) → b'.next = lo) ∧ (runOf b.words b.next = none → b'.next = b.next)))

/-- The registers after TRET: a lane instruction that .skip passes over takes its last-use marks (R50, R415). -/
def afterSkip (f : TrapFrame) (skip : Bool) (g : GCore) : GCore :=
  match f.block with | some b => if skip then (killsAt b.words b.next).foldl vKill g else g | none => g

end Sys2Proof.Claims

/-- TRAP, a scalar word that R60 to R65 refuse, and a failing fetch (R65, R89, R416): the trap is taken at the word, TRAP after its commit. -/
def Sys2Proof.Claims.TrapInstructions : Prop :=
  ∀ (i : Instr) (s : State) (g : Grp) (x : Split) (t : TrapInfo), Runs s g x → trapping x i = some t →
    ((∀ code, i ≠ .trap code) → Traps i s s g x t) ∧
    ∀ code, i = .trap code → ∀ s1 g1 x1, Settles s g x s1 g1 x1 → Traps i s s1 g1 x1 t

/-- Taking a trap in a launch with a handler (R411, R413, R414): the windows commit; the record is written; s, c, PCC, LCC and mask of the
split go to the frame; the split goes on at the handler with word 0 in s1 and the handler's capabilities, and the other splits park. -/
def Sys2Proof.Claims.TrapEntry : Prop :=
  ∀ (s : State) (g1 : Grp) (x : Split) (t : TrapInfo) (w : TrapAt) (s1 : State) (l : Lnch), commitAll s g1.uid = (s1, .done) →
    grpOf s1 g1.uid = some g1 → g1.g.split x.idx = some x → g1.frame = none → ¬ (t.kind = 1 ∧ t.detail = 10) → lnchBy s1 g1.launch = some l →
    l.hPcc.tag = true →
    ∃ g' x' fr, grpOf (takeTrap s g1.uid x.idx t w) g1.uid = some g' ∧ g'.g.split x.idx = some x' ∧ g'.frame = some fr ∧
      g'.frec.length = 22 ∧ (∀ n < 22, g'.frec.getD n 0 = recWord t w x.idx n) ∧ g'.recTag = t.cap.tag ∧
      x'.pcc = l.hPcc ∧ x'.lcc = l.hLcc ∧ cGet x' 28 = l.hData ∧ cGet x' 29 = l.hMap ∧ (∀ r, r ≠ 28 → r ≠ 29 → cGet x' r = cGet x r) ∧
      sGet x' 1 = recWord t w x.idx 0 ∧ (∀ r : SReg, r ≠ 1 → r.toNat < 61 → sGet x' r = sGet x r) ∧
      x'.act = (if w.lane = true ∨ w.engine = true then x.act &&& t.mask else x.act) ∧ x'.withheld = x.act &&& ~~~ x'.act ∧
      fr.split = x.idx ∧ fr.s = x.s ∧ fr.c = x.c ∧ fr.pcc = x.pcc ∧ fr.lcc = x.lcc ∧ fr.act = x.act ∧ fr.kind = t.kind ∧
      fr.block = (if w.lane = true then g1.g.laneQ.head? else none) ∧
      fr.aside = (if w.lane = true then g1.g.laneQ.tail else g1.g.laneQ).filter (fun b => b.split = x.idx) ∧
      (∀ j y, j ≠ x.idx → g1.g.split j = some y → g'.g.split j = some { y with st := .handler } ∧ (j, y.st) ∈ fr.parked) ∧
      { g'.g with splits := [], laneQ := [] } = { g1.g with splits := [], laneQ := [] } ∧ g'.solo = g1.solo ∧ g'.wins = g1.wins ∧
      (takeTrap s g1.uid x.idx t w).ram = s1.ram

/-- An unhandled trap (R414): without a handler, in the handler, or ILLEGAL code 10, the gang of the group is discarded, and its workgroups
have ended. -/
def Sys2Proof.Claims.TrapUnhandled : Prop :=
  ∀ (s : State) (g1 : Grp) (k : Nat) (t : TrapInfo) (w : TrapAt) (s1 : State), commitAll s g1.uid = (s1, .done) → grpOf s1 g1.uid = some g1 →
    g1.task = false → (g1.frame ≠ none ∨ (t.kind = 1 ∧ t.detail = 10) ∨ ∀ l, lnchBy s1 g1.launch = some l → l.hPcc.tag = false) →
    ∀ y, gangBy s1 g1.gang = some y → ∃ y', gangBy (takeTrap s g1.uid k t w) g1.gang = some y' ∧ y'.st = .discarded ∧ y'.wgs = y.wgs ∧
      ∀ u ∈ y.wgs, ∀ v, wgBy (takeTrap s g1.uid k t w) u = some v → v.ended = true

/-- TRET in its four forms (R413, R415): the split takes back what its frame holds, s1 staying with .s1; the other splits and the lane work
go on; after TRAP or with .skip a scalar trap goes on at the next word, and .skip past a lane instruction leaves the last-use marks that end
there. SOLO mode and its count stay. Outside the handler, or with a split of the handler's own, it
raises ILLEGAL code 10. -/
def Obligations.TrapReturn : Prop :=
  ∀ (i : Instr) (s : State) (g : Grp) (x : Split) (skip keep : Bool), Runs s g x → i = (if skip then .tretSkip keep else .tret keep) →
    ((g.frame = none ∨ ∃ y ∈ g.g.splits, y.idx ≠ x.idx ∧ y.st ≠ .handler) → Traps i s s g x { kind := 1, detail := 10 }) ∧
    ∀ s1 g1 x1 f, Settles s g x s1 g1 x1 → g.frame ≠ none → (∀ y ∈ g.g.splits, y.idx ≠ x.idx → y.st = .handler) →
      g1.frame = some f → SplitsOk g1 → f.split = x.idx → (f.parked.map (·.1)).Nodup →
      ∃ t, exec i s = .next t ∧
        (f.engine = false → ∃ g' y l, t = setGrp s1 g' ∧ { g' with g := g1.g, frame := g1.frame } = g1 ∧ g'.frame = none ∧
          { g'.g with splits := [], laneQ := [] } = { afterSkip f skip g1.g with splits := [], laneQ := [] } ∧ g'.g.split x.idx = some y ∧ y.st = .ready ∧ y.c = f.c ∧ y.lcc = f.lcc ∧ y.act = f.act ∧
          (∀ r : SReg, r.toNat < 61 → ¬ (r = 1 ∧ keep = true) → sGet y r = sGet { x1 with s := f.s } r) ∧ (keep = true → sGet y 1 = sGet x1 1) ∧
          y.pcc = (if f.block = none ∧ (skip = true ∨ f.kind = 13) then withAddr f.pcc (cAddr f.pcc + 4) else f.pcc) ∧
          (∀ j z st, j ≠ x.idx → g1.g.split j = some z → (j, st) ∈ f.parked → g'.g.split j = some { z with st := st }) ∧
          givenBack f skip l ∧ g'.g.laneQ = l ++ g1.g.laneQ) ∧
        (f.engine = true → f.matrix = false → skip = false →
          t.tces = s1.tces.map (fun o => if o.uid = f.op ∧ o.st = .stopped then { o with st := .queued, stop := none, core := g1.core } else o) ∧
          t.ces = s1.ces.map (fun o => if o.uid = f.op ∧ o.st = .stopped then { o with st := .running, stop := none, cmds := o.cmds.map fun c => { c with stop := none } } else o))

namespace Sys2Proof.Claims

/-- What FREC, FREC.cap, IDEMB, IDEME and PRMPT leave of the group, the split and the registers (R417, R421, R429). -/
def handlerForm (s1 : State) (g1 : Grp) (x1 : Split) : Instr → Option (Grp × Split × List (SReg × Word))
  | .frec d i => if g1.frame = none then none else some (g1, x1, [(d, g1.frec.getD i.toNat 0)])
  | .frecCap d =>
    let v : Cap := { bits := g1.frec.getD 15 0 ++ g1.frec.getD 14 0 ++ g1.frec.getD 13 0 ++ g1.frec.getD 12 0, tag := g1.recTag }
    if g1.frame = none then none else some (withC g1 x1 (some d) v, cSet x1 d v, [])
  | .idemb a =>
    let kept := sGet x1 a
    let r : Region :=
      { idx := x1.idx, rows := g1.g.v.filter fun e => kept.getLsbD (e.1 / 8), qt := g1.g.qtags.filter fun e => kept.getLsbD (e.1 / 2),
        s := x1.s, act := x1.act, c := x1.c, pcc := pccAt x1 1, lcc := x1.lcc, k := g1.g.k, b := g1.g.b, status := g1.g.status,
        tce := g1.tceTicket, ce := g1.ceTicket, nbr := g1.g.nbrSeq, kept := kept, dead := g1.g.dead }
    if g1.g.splits = [x1] ∧ g1.g.compact = none then some ({ g1 with region := some r }, x1, [])
    else none
  | .ideme => some ({ g1 with region := none }, x1, [])
  | .prmpt d => some (g1, x1, [(d, if g1.task then 0 else match gangBy s1 g1.gang with | some y => if y.request then 1 else 0 | none => 0)])
  | _ => none

/-- The instructions of these that an open region admits. -/
def admitted : Instr → Bool
  | .idemb _ | .ideme | .prmpt _ | .prmptNow => true
  | _ => false

end Sys2Proof.Claims

/-- FREC, FREC.cap, IDEMB, IDEME, PRMPT and PRMPT.now (R417, R421, R429): after the commit, the words and the capability of the record, the
entry record of the region, its end, the request of the gang, and the save of the gang once PRMPT.now has retired. -/
def Obligations.HandlerAndRegion : Prop :=
  ∀ (i : Instr) (s : State) (g : Grp) (x : Split) (s1 : State) (g1 : Grp) (x1 : Split), Runs s g x → i.wf = true → Settles s g x s1 g1 x1 →
    (∀ g2 x2 ws, handlerForm s1 g1 x1 i = some (g2, x2, ws) → (admitted i = true ∨ g.frame ≠ none) → ¬ Seizes g2 x2 ws →
      CompletesIn i s s1 g2 x2 (pccAt x1 1) ws) ∧
    (i = .prmptNow → ∃ s2, Retires s1 g1 x1 (pccAt x1 1) (sGet x1) s2 ∧ exec i s = .next (if g1.task then s2 else saveGang s2 g1.gang)) ∧
    ((∃ d k, i = .frec d k) ∨ (∃ d, i = .frecCap d) → g.frame = none → Traps i s s g x { kind := 1, detail := 10 }) ∧
    (∀ a, i = .idemb a → g1.g.splits.length > 1 → Traps i s s1 g1 x1 { kind := 11, detail := 0 })

/-- The save of a placed gang that is not in a discardable region (R421, R422, R423): with a slot for every workgroup the gang is saving, and
each of its groups has no window and is saved; without one nothing changes but the request and an event. -/
def Sys2Proof.Claims.GangSave : Prop :=
  ∀ (s : State) (y : Gang), gangBy s y.uid = some y → y.st = .placed → (∀ g ∈ s.grps, g.gang = y.uid → g.saved = false) →
    (s.grps.map (·.uid)).Nodup →
    (takeSlots s y.wgs = none → ∃ y', gangBy (saveGang s y.uid) y.uid = some y' ∧ y'.st = .placed ∧ y'.request = false) ∧
    (∀ s1, takeSlots s y.wgs = some s1 → mayDiscard s1 y = false →
      (∃ y', gangBy (saveGang s y.uid) y.uid = some y' ∧ y'.st = .saving ∧ y'.request = false) ∧
      ∀ g ∈ (saveGang s y.uid).grps, g.gang = y.uid → g.task = false → g.ended = false → g.saved = true ∧ g.wins = [])

/-- PGMAP (R206, R419, R420): 1 where the page is mapped, 2 where the pool has no frame, else 0: the count of frames taken rises, the entries
take the template with the frames from the one taken, the frame's bytes and tags become 0, and no remembered entry of the page stays. -/
def Sys2Proof.Claims.PageMapped : Prop :=
  ∀ (s : State) (g : Grp) (x : Split) (s1 : State) (g1 : Grp) (x1 : Split) (a : CReg) (b : SReg) (c : CtxDesc) (p : Pool) (base : Nat) (es : List Nat),
    Runs s g x → NoRegion g → Settles s g x s1 g1 x1 → c = ctxOf s1 (pcidOf s1 g1.launch) →
    pgmapCheck s1 (pcidOf s1 g1.launch) (cGet x1 a) = .ok (p, base, es) →
    blocked s1 g1.uid true ((c.pool :: es).map fun e => lineOf (hbmLoc e)) = none →
    ((∀ e ∈ es, ramNat s1.ram (hbmLoc e) 8 % 2 = 1) → ¬ Seizes g1 x1 [(b, 1)] → CompletesIn (.pgmap a b) s s1 g1 x1 (pccAt x1 1) [(b, 1)]) ∧
    ((∃ e ∈ es, ramNat s1.ram (hbmLoc e) 8 % 2 ≠ 1) → p.taken = p.count →
      ∀ t, t = poolEmpty s1 (pcidOf s1 g1.launch) c.pool p.count → ∃ g5, grpOf t g.uid = some g5 ∧ SameButWins g1 g5 ∧
        (¬ Seizes g5 x1 [(b, 2)] → CompletesIn (.pgmap a b) s t g5 x1 (pccAt x1 1) [(b, 2)])) ∧
    ((∃ e ∈ es, ramNat s1.ram (hbmLoc e) 8 % 2 ≠ 1) → p.taken ≠ p.count →
      ∀ f lv run size t1 t, f = ramNat s1.ram (hbmLoc (p.list + 8 * p.taken)) 8 → (∃ n, sizeForm p.size = (lv, n, run, size)) →
        rangeBlocked s1 g1.uid f size = false →
        t1 = putMem s1 g1.uid (hbmLoc (c.pool + 12)) 0 (leBytes 4 ((p.taken + 1) % 2 ^ 32)) →
        t = forgetPage (zeroRange ((es.zip (List.range es.length)).foldl (fun r e => putMem r g1.uid (hbmLoc e.1) 0
          (leBytes 8 (p.tmpl + 3 + 4 * run + (f / 4096 + e.2 * (levelSize lv / 4096)) * 4096))) t1) f size) (pcidOf s1 g1.launch) base size →
        ∃ g5, grpOf t g.uid = some g5 ∧ SameButWins g1 g5 ∧ (¬ Seizes g5 x1 [(b, 0)] → CompletesIn (.pgmap a b) s t g5 x1 (pccAt x1 1) [(b, 0)]))

namespace Sys2Proof.Claims

/-! System registers, monitors, PCLEAR, SCRUB, ATTEST, FABCFG. -/

/-- The assigned register numbers (R432, R436, R445, R466, R468). -/
def Assigned (n : Nat) : Prop :=
  n ≤ 2 ∨ (0x10 ≤ n ∧ n ≤ 0x12) ∨ n = 0x20 ∨ (0x30 ≤ n ∧ n ≤ 0x33) ∨ (0x40 ≤ n ∧ n ≤ 0x47) ∨ (0x50 ≤ n ∧ n ≤ 0x55) ∨ (0x100 ≤ n ∧ n ≤ 0x107) ∨
  (0x200 ≤ n ∧ n ≤ 0x223)

/-- The value of an assigned register (R196, R418, R432, R436, R445, R466, R468). -/
def sysRule (s : State) (g : Grp) (n : Nat) : Word :=
  let bit (b : Bool) (k : Nat) : Nat := if b then 2 ^ k else 0
  let m : MatCtx := sysMat s g
  if n = 0 then BitVec.ofNat 32 (bit s.rev.sweepDone 0 + bit s.rev.queued 1 + bit s.rev.marked 2 + bit (s.rev.sweepDone && !s.rev.marked) 3)
  else if n = 1 then s.rev.epoch else if n = 2 then s.rev.done
  else if n = 0x10 then matState m else if n = 0x11 then matChkLo m else if n = 0x12 then matChkHi m
  else if n = 0x20 then s.chip.mcdrop
  else if n = 0x30 then s.chip.saveBase.truncate 32 else if n = 0x31 then (s.chip.saveBase >>> 32).truncate 32
  else if n = 0x32 then s.chip.saveCount else if n = 0x33 then s.chip.pslack
  else if n ≤ 0x47 then aget 0 g.watch (n - 0x40)
  else if n = 0x50 then BitVec.ofNat 32 (bit s.arm.scrub.active 0 + bit (s.arm.domains.any fun e => e.2 = 0x80) 1 + bit s.arm.scrub.resumed 2)
  else if n = 0x51 then BitVec.ofNat 32 s.arm.scrub.prog else if n = 0x52 then BitVec.ofNat 32 (s.arm.scrub.prog / 2 ^ 32)
  else if n = 0x53 then BitVec.ofNat 32 s.arm.scrub.total else if n = 0x54 then BitVec.ofNat 32 (s.arm.scrub.total / 2 ^ 32)
  else if n = 0x55 then BitVec.ofNat 32 (s.arm.cur.toNat + 4 * s.arm.req.toNat)
  else if n ≤ 0x107 then aget 0 s.arm.life (n - 0x100) else aget 0 s.fab.linkstat (n - 0x200)

/-- The state and the group after a write of v to register n (R418, R432). -/
def sysWrite (s : State) (g : Grp) (n : Nat) (v : Word) : State × Grp :=
  let c := s.chip
  let free := s.saveUsed = []
  if n = 0x20 then ({ s with chip := { c with mcdrop := v } }, g)
  else if n = 0x30 ∧ free then ({ s with chip := { c with saveBase := (c.saveBase &&& 0xFFFFFFFF00000000) ||| ((v &&& 0xFF800000).zeroExtend 64) } }, g)
  else if n = 0x31 ∧ free then ({ s with chip := { c with saveBase := (c.saveBase &&& 0xFFFFFFFF) ||| (v.zeroExtend 64 <<< 32) } }, g)
  else if n = 0x32 ∧ free then ({ s with chip := { c with saveCount := if v.toNat ≤ 4096 then v else 4096 } }, g)
  else if n = 0x33 then ({ s with chip := { c with pslack := if v.toNat ≤ 1000 then v else 1000 } }, g)
  else if 0x40 ≤ n ∧ n ≤ 0x47 then (s, { g with watch := aset 0 g.watch (n - 0x40) (v &&& (if n % 2 = 0 then 0xFFFFFFC7 else 0x01FFFFFF)) })
  else (s, g)

/-- MONCFG refuses a configuration word or a unit (R433, R434). -/
def MonRefused (u w : Word) : Prop :=
  u.toNat > 127 ∨ w.toNat / 2 ^ 13 % 8 ≠ 0 ∨ w.toNat / 2 ^ 28 ≠ 0 ∨ w.toNat % 256 = 0 ∨ w.toNat % 256 > 14 ∨
  (w.getLsbD 19 = true ∧ w.toNat / 2 ^ 20 % 256 > 143)

/-- Field f of a monitor unit (R433). -/
def monRule (m : Monitor) (f : Nat) : Word :=
  if f = 0 then m.samples else if f = 1 then m.least else if f = 2 then m.most else if f = 3 then m.cfg else aget 0 m.bins (f - 4)

/-- The privileged scalar instructions (R431, R433, R459, R465, R467). -/
def privileged : Instr → Prop
  | .sysrd _ n => 0x30 ≤ n.toNat ∧ n.toNat ≤ 0x33
  | .syswr _ n => Assigned n.toNat ∧ ¬ (0x40 ≤ n.toNat ∧ n.toNat ≤ 0x47)
  | .moncfg .. | .monrd .. | .pclear .. | .scrub .. | .fabcfgWin .. | .fabcfgWinrm .. | .fabcfgMcast .. | .fabcfgPlane .. | .fabcfgEp ..
  | .fabcfgRegion .. => True
  | _ => False

/-- The refusals of PCLEAR and their results (R459). -/
def pclearCode (s : State) (g : Grp) (cl : Nat) : Option Word :=
  if cl > 17 then some 4 else if cl = g.core / 8 then some 2 else if clusterBusy s cl = true then some 1
  else if aget 0 s.domains cl ≠ 0 then some 3 else none

/-- A SCRUB of n bytes has k bytes done; at its first line its checks pass and every page is device memory of this node, which leaves s2
(R465). -/
def ScrubAt (s1 : State) (g1 : Grp) (x1 : Split) (c : Cap) (n k : Nat) (s2 : State) : Prop :=
  SplitsOk g1 ∧ ((s2 = s1 ∧ ∃ p, x1.part = some p ∧ p.done = k) ∨
  (x1.part = none ∧ k = 0 ∧ n ≠ 0 ∧ checkUse c [1] (cAddr c) n 2 false (some false) (gangPad s1 g1.gang) = .ok () ∧
    cAddr c % 4096 = 0 ∧ n % 4096 = 0 ∧ s1.arm.scrub.active = false ∧
    ∃ ps, pagesOf s1 (agtOf s1 g1) c (cAddr c) 2 (n / 4096 + 1) n = .ok s2 ps ∧ ∀ p ∈ ps, ∃ l f, p.1 = .here l f ∧ l.sp = .hbm))

end Sys2Proof.Claims

/-- A privileged instruction whose PCC has no SYS raises CAPFAULT detail 3 with the PCC in the record (R431, R433, R459, R465, R467), and
SYSRD and SYSWR of an unassigned register ILLEGAL code 2. -/
def Sys2Proof.Claims.PrivilegeChecked : Prop :=
  ∀ (i : Instr) (s : State) (g : Grp) (x : Split), Runs s g x →
    (∀ s1 g1 x1, privileged i → NoRegion g → Settles s g x s1 g1 x1 → cHas x1.pcc 8 = false → Traps i s s1 g1 x1 (capFlt x1.pcc 3 8)) ∧
    (∀ d n, (i = .sysrd d n ∨ i = .syswr d n) → ¬ Assigned n.toNat → Traps i s s g x { kind := 1, detail := 2 })

/-- SYSRD and SYSWR (R431, R432): the value of the register, and its new value with what may not be written kept. A read of the progress of a
scrub moves it on. MONCFG and MONRD (R433): the unit's configuration, cleared first where CLR is set, and its fields. -/
def Sys2Proof.Claims.SystemRegisterResult : Prop :=
  ∀ (s : State) (g : Grp) (x : Split) (s1 : State) (g1 : Grp) (x1 : Split) (d a b : SReg) (n : BitVec 12) (f : BitVec 7), Runs s g x → NoRegion g →
    Settles s g x s1 g1 x1 →
    (Assigned n.toNat → (¬ privileged (.sysrd d n) ∨ cHas x1.pcc 8 = true) →
      ∀ t v, t = (if n = 0x51 ∨ n = 0x52 then scrubTick s1 else s1) → v = sysRule t g1 n.toNat → ¬ Seizes g1 x1 [(d, v)] →
        CompletesIn (.sysrd d n) s t g1 x1 (pccAt x1 1) [(d, v)]) ∧
    (Assigned n.toNat → (¬ privileged (.syswr a n) ∨ cHas x1.pcc 8 = true) →
      CompletesIn (.syswr a n) s (sysWrite s1 g1 n.toNat (sGet x1 a)).1 (sysWrite s1 g1 n.toNat (sGet x1 a)).2 x1 (pccAt x1 1) []) ∧
    (cHas x1.pcc 8 = true → MonRefused (sGet x1 a) (sGet x1 b) → ¬ Seizes g1 x1 [(d, 0)] →
      CompletesIn (.moncfg d a b) s s1 g1 x1 (pccAt x1 1) [(d, 0)]) ∧
    (cHas x1.pcc 8 = true → ¬ MonRefused (sGet x1 a) (sGet x1 b) → ¬ Seizes g1 x1 [(d, 1)] →
      ∃ m, CompletesIn (.moncfg d a b) s { s1 with chip := { s1.chip with monitors := m } } g1 x1 (pccAt x1 1) [(d, 1)] ∧
        ∀ u, aget monNone m u = if u = (sGet x1 a).toNat then
            { (if (sGet x1 b).getLsbD 17 = true then { cfg := 0, samples := 0, least := 0xFFFFFFFF, most := 0, bins := [] } else monOf s1 u) with cfg := sGet x1 b }
          else monOf s1 u) ∧
    (cHas x1.pcc 8 = true → ∀ v, v = (if (sGet x1 a).toNat > 127 then 0 else monRule (monOf s1 (sGet x1 a).toNat) f.toNat) → ¬ Seizes g1 x1 [(d, v)] →
      CompletesIn (.monrd d a f) s s1 g1 x1 (pccAt x1 1) [(d, v)])

/-- PCLEAR (R458, R459): the result of the first refusal that holds, nothing changed; else 0 with the code caches of the cluster's cores empty
and the cluster closed. SCRUB (R231, R465): with its checks passed, line by line the pages become 0, each line in a turn of its own, and after
the last s[sb] takes the bytes. -/
def Sys2Proof.Claims.ClusterClearAndScrub : Prop :=
  ∀ (s : State) (g : Grp) (x : Split) (s1 : State) (g1 : Grp) (x1 : Split) (d a : SReg) (c : CReg) (cl : Nat), Runs s g x → NoRegion g →
    Settles s g x s1 g1 x1 → cHas x1.pcc 8 = true → cl = (sGet x1 a).toNat →
    (∀ v, pclearCode s1 g1 cl = some v → ¬ Seizes g1 x1 [(d, v)] → CompletesIn (.pclear d a) s s1 g1 x1 (pccAt x1 1) [(d, v)]) ∧
    (pclearCode s1 g1 cl = none → aget false s1.clearing cl = false → ¬ Seizes g1 x1 [(d, 0)] →
      ∃ t, CompletesIn (.pclear d a) s t g1 x1 (pccAt x1 1) [(d, 0)] ∧
        { t with codeCache := s1.codeCache, pins := s1.pins, clearing := s1.clearing } = s1 ∧ (∀ p ∈ t.pins, p ∈ s1.pins) ∧
        (∀ k, aget false t.clearing k = (decide (k = cl) || aget false s1.clearing k)) ∧
        ∀ k, aget 0 t.codeCache k = if codeKey (8 * cl) 0 0 ≤ k ∧ k < codeKey (8 * cl + 8) 0 0 then 0 else aget 0 s1.codeCache k) ∧
    (∀ n k s2 s3 l e t, n = (sGet x1 a).toNat → ScrubAt s1 g1 x1 (cGet x1 c) n k s2 →
      target s2 (agtOf s2 g1) (cGet x1 c) (cAddr (cGet x1 c) + k) 2 0 (fun _ => none) = .ok s3 (.here l e) →
      blocked s3 g1.uid true (linesOf s3.ram l 128) = none → t = putMem s3 g1.uid l 0 (List.replicate 128 0) →
      (k + 128 < n → exec (.scrub c a) s = .next (setPart t g1.uid x1.idx (some { lane := 0, got := [], done := k + 128 }))) ∧
      (n ≤ k + 128 → ∃ g5, grpOf (setPart t g1.uid x1.idx none) g.uid = some g5 ∧ SameButPart g1 g5 x1 ∧
        (¬ Seizes g5 (noPart x1) [(a, BitVec.ofNat 32 n)] → CompletesIn (.scrub c a) s t g5 (noPart x1) (pccAt x1 1) [(a, BitVec.ofNat 32 n)]))) ∧
    (x1.part = none → sGet x1 a = 0 → checkUse (cGet x1 c) [1] (cAddr (cGet x1 c)) 0 2 false (some false) (gangPad s1 g1.gang) = .ok () →
      cAddr (cGet x1 c) % 4096 = 0 → s1.arm.scrub.active = false → ¬ Seizes g1 x1 [(a, 0)] →
      CompletesIn (.scrub c a) s s1 g1 x1 (pccAt x1 1) [(a, 0)])

/-- ATTEST (R231, R455, R457): with its operands checked the split waits for Armoire and nothing else changes. After the answer it reads the 112
bytes of nonce and user data and writes the 672 bytes of the quote of the issuing context over them, 4 bytes an event and a turn; after the
last s[sb] takes 0 and the split goes on. -/
def Sys2Proof.Claims.AttestResult : Prop :=
  (∀ (s : State) (g : Grp) (x : Split) (s1 : State) (g1 : Grp) (x1 : Split) (d a : CReg) (b : SReg), Runs s g x → NoRegion g → Settles s g x s1 g1 x1 →
    (x1.part = none → checkUse (cGet x1 a) [0] (cAddr (cGet x1 a)) 112 1 false none (gangPad s1 g1.gang) = .ok () →
      checkUse (cGet x1 d) [1] (cAddr (cGet x1 d)) 672 2 false none (gangPad s1 g1.gang) = .ok () →
      (cAddr (cGet x1 d) % 16 = 0 →
        exec (.attest d a b) s = .next (modGrp s1 g1.uid fun h => { h with g := h.g.modSplit x.idx fun y => { y with st := .attest d a b } })) ∧
      (cAddr (cGet x1 d) % 16 ≠ 0 → ∃ t, t.kind = 3 ∧ t.detail = 13 ∧ t.cap = cGet x1 d ∧ Traps (.attest d a b) s s1 g1 x1 t)) ∧
    (∀ p s2 ps got all, x1.part = some p → p.done < 112 →
      resolveAcc s1 g1 { need := [0], access := 1, use := .loadDirect }
        { l := 0, x := cGet x1 a, va := cAddr (cGet x1 a) + p.done, n := 4, b := none } = .ok s2 ps →
      blocked s2 g1.uid false (ps.flatMap (pieceLines s2)) = none → got = p.got ++ unitRead s2 g1 false ps →
      all = (if p.done + 4 < 112 then got else
        [(hbmLoc 0, quoteBytes s2 (pcidOf s2 g1.launch) ((got.flatMap (·.2.1)).take 48) ((got.flatMap (·.2.1)).drop 48), false)]) →
      exec (.attest d a b) s = .next (dropAns (setPart s2 g1.uid x1.idx (some { p with got := all, done := p.done + 4 })) g1.uid)) ∧
    (∀ p s2 ps s3, SplitsOk g1 → x1.part = some p → 112 ≤ p.done →
      resolveAcc s1 g1 { need := [1], access := 2, use := .store }
        { l := 0, x := cGet x1 d, va := cAddr (cGet x1 d) + (p.done - 112 : Nat), n := 4, b := none } = .ok s2 ps →
      blocked s2 g1.uid true (ps.flatMap (pieceLines s2)) = none →
      s3 = emitBytes s2 g1.uid .direct ps (((p.got.flatMap (·.2.1)).drop (p.done - 112)).take 4) →
      (p.done + 4 < 784 → exec (.attest d a b) s = .next (dropAns (setPart s3 g1.uid x1.idx (some { p with done := p.done + 4 })) g1.uid)) ∧
      (784 ≤ p.done + 4 → ∃ g5, grpOf (setPart s3 g1.uid x1.idx none) g.uid = some g5 ∧ SameButPart g1 g5 x1 ∧
        (¬ Seizes g5 (noPart x1) [(b, 0)] → CompletesIn (.attest d a b) s (dropAns s3 g1.uid) g5 (noPart x1) (pccAt x1 1) [(b, 0)])))) ∧
  ∀ (s : State) (core slot : Nat) (g : Grp), grpAt s core slot = some g →
    exec (.attestAnswer core slot) s = .next (setGrp s { g with g := { g.g with splits := g.g.splits.map fun x =>
      match x.st with | .attest _ _ _ => { x with st := .ready, part := some { lane := 0, got := [], done := 0 } } | _ => x } })

namespace Sys2Proof.Claims

/-- The kinds of FABCFG (R467): the registers of the block and of the result. -/
def fabForm : Instr → Option (CReg × SReg)
  | .fabcfgWin a b | .fabcfgWinrm a b | .fabcfgMcast a b | .fabcfgPlane a b | .fabcfgEp a b | .fabcfgRegion a b => some (a, b)
  | _ => none

/-- A little-endian field of n bytes at offset k of a block. -/
def field (b : List Byte) (k n : Nat) : Nat := leNat ((b.drop k).take n)

/-- The block of a kind is read from state s as b, leaving s'; a .region block with its capability (R467). -/
def BlockRead (i : Instr) (s : State) (g : Grp) (c : Cap) (s' : State) (b : List Byte) (v : Cap) : Prop :=
  match i with
  | .fabcfgWin .. => fabWinRead s g c = .ok s' b
  | .fabcfgWinrm .. => fabBytes s g c 64 = .ok s' b
  | .fabcfgMcast .. => fabBytes s g c 72 = .ok s' b
  | .fabcfgPlane .. | .fabcfgEp .. => fabBytes s g c 32 = .ok s' b
  | .fabcfgRegion .. => ∃ n, fabRegionRead s g c = .ok s' (b, v, n)
  | _ => False

/-- A malformed block (R467). -/
def BlockBad (i : Instr) (s : State) (b : List Byte) (v : Cap) : Prop :=
  match i with
  | .fabcfgWin .. => winBad s b = true
  | .fabcfgMcast .. => field b 0 2 > 511 ∨ field b 4 4 ≠ 0
  | .fabcfgPlane .. => ∃ y ∈ b, y.toNat > 31
  | .fabcfgEp .. => field b 0 2 > 1023 ∨ field b 2 1 > 1 ∨ field b 24 8 ≠ 0
  | .fabcfgRegion .. => field b 2 1 > 7 ∨ (∃ k, 3 ≤ k ∧ k < 16 ∧ b.getD k 0 ≠ 0) ∨ (field b 2 1 % 2 = 1 ∧ ¬ (v.tag = true ∧ cHas v 12 = true))
  | _ => False

/-- What an installed block leaves in the tables of this chip, from fabric state f (R370, R373, R467). -/
def Installed (i : Instr) (f f' : Fabric) (pc : Nat) (b : List Byte) (v : Cap) : Prop :=
  match i with
  | .fabcfgWin .. =>
    let d := winDesc b
    let here := f.node.toNat ∈ d.members ∨ ((d.kind = 1 ∨ d.kind = 3) ∧ d.range / 2 ^ 47 % 2 ^ 9 = f.node.toNat)
    (here → (aget winNone f'.wins (field b 3 1)).d = d) ∧ (¬ here → f'.wins = f.wins ∧ aget winNone.d f'.known (field b 3 1) = d)
  | .fabcfgWinrm .. => ∀ k, aget winNone f'.wins k = if k = field b 3 1 then winNone else aget winNone f.wins k
  | .fabcfgMcast .. => ∀ k, aget mcNone f'.mcast k = if k = field b 0 2 then
      { gen := BitVec.ofNat 16 (field b 2 2), members := BitVec.ofNat 512 (field b 8 64) } else aget mcNone f.mcast k
  | .fabcfgPlane .. => ∀ p < 32, (f'.planeMap.find? fun e => e.1 = p) = some (p, field b p 1)
  | .fabcfgEp .. => ∀ k, aget epNone f'.endpoints k = if k = field b 0 2 then
      { valid := field b 2 1 = 1, tclass := BitVec.ofNat 8 (field b 3 1), job := BitVec.ofNat 32 (field b 4 4), addr := BitVec.ofNat 128 (field b 8 16),
        key := (aget epNone f.endpoints k).key } else aget epNone f.endpoints k
  | .fabcfgRegion .. => ∀ k, aget regionNone f'.regions k = if k = field b 0 2 then
      (if field b 2 1 % 2 = 1 then { puts := field b 2 1 / 2 % 2 = 1, gets := field b 2 1 / 4 % 2 = 1, cap := v, pcid := pc } else regionNone)
      else aget regionNone f.regions k
  | _ => True

end Sys2Proof.Claims

/-- FABCFG in its six kinds (R370, R373, R467): with the block read, it completes with an answer. A malformed block answers 1 and changes
nothing; a window that overlaps one that this node knows answers 2; a change that some target does not hold answers 3 and changes nothing;
else the tables of this chip take the block and the answer is 0. Whether every target holds a change is the outside's. -/
def Obligations.FabricConfiguration : Prop :=
  ∀ (i : Instr) (s : State) (g : Grp) (x : Split) (a : CReg) (b : SReg) (s1 : State) (g1 : Grp) (x1 : Split) (s2 s3 : State) (blk : List Byte) (v : Cap),
    Runs s g x → NoRegion g → fabForm i = some (a, b) → Settles s g x s1 g1 x1 → cHas x1.pcc 8 = true → BlockRead i s1 g1 (cGet x1 a) s2 blk v →
    s3 = dropAns s2 g1.uid → (∀ h r, SameButWins g1 h → ¬ Seizes h x1 [(b, r)]) →
    ∃ r t g5, SameButWins g1 g5 ∧ CompletesIn i s t g5 x1 (pccAt x1 1) [(b, r)] ∧ (r = 0 ∨ r = 1 ∨ r = 2 ∨ r = 3) ∧ t.ram = s3.ram ∧
      (BlockBad i s3 blk v → r = 1 ∧ t = s3) ∧ (r ≠ 0 → { t with nonce := s3.nonce } = s3) ∧
      (r = 0 → Installed i s3.fab t.fab (pcidOf s2 g1.launch) blk v) ∧
      ((∃ d e, i = .fabcfgWin d e) → ¬ BlockBad i s3 blk v →
        ((∃ w ∈ s3.fab.wins, w.1 ≠ field blk 3 1 ∧ winOverlap (winDesc blk) w.2.d = true) ∨
         ∃ w ∈ s3.fab.known, w.1 ≠ field blk 3 1 ∧ winOverlap (winDesc blk) w.2 = true) → r = 2) ∧
      ((r = 1 ∧ ¬ BlockBad i s3 blk v) ∨ r = 2 → ∃ d e, i = .fabcfgWin d e)

namespace Sys2Proof.Claims

/-! Lane instructions. -/

/-- What a lane instruction writes in the lanes of m: v registers, q registers, the tags of a quad, a k register, a latch, and the bits it
sets in STATUS. -/
structure LW where
  m : LaneMask
  v : List (Nat × (Nat → Word)) := []
  q : List (Nat × (Nat → Word)) := []
  tags : Option (Nat × (Nat → Bool)) := none
  k : Option (KReg × (Nat → Bool)) := none
  lat : Option (BitVec 2 × (Nat → Word)) := none
  stick : Word := 0

/-- The checks at issue that every lane instruction but a matrix one shares pass, and x1 is the instruction after them: the matrix context
is held where it is used, no register of a kept unit is written, no lane that is read is damaged, no q register is being written by a matrix operation, no v register that
one has still to read is written, and the checkpoint is taken (R239, R303, R307, R308, R410, R429). -/
def Issues (x x1 : LX) : Prop :=
  let r := RawLane.ofWord x.w
  let qs := (readsOf r ++ writesOf r).filter fun n => 1000 ≤ n && n < 2000
  (usesCtx r = true → (matOf x.s x.g).holder = some x.g.uid) ∧ keptHit x.g (writesOf r) = false ∧ x.spoiled r = none ∧
  ¬ (0x2C0 ≤ r.op.toNat ∧ r.op.toNat ≤ 0x2C9) ∧
  (qs ≠ [] → ∀ o, (o ∈ matBuffered x.g ∨ o ∈ (matOf x.s x.g).run.toList ++ (matOf x.s x.g).queue) → matTouches (some (qs.map (· - 1000))) o = false) ∧
  (∀ n ∈ (writesOf r).filter (· < 1000) ++ killsAt x.b.words x.n, n ∉ matVRegs x.s x.g) ∧
  ∃ g1, takeCkpt x.s x.g ((writesOf r).filter (· < 1000)) (((writesOf r).filter fun n => 1000 ≤ n && n < 2000).map fun n => ckptQ (n - 1000)) = some g1 ∧
    x1 = { x with s := setGrp x.s g1, g := g1 }

/-- A damaged lane of a register that a lane instruction x writes with w (R410). -/
def mended (x : LX) (w : LW) : Damage → Bool
  | .vreg u n l _ => decide (u = x.g.uid) && (w.v.map (·.1)).contains n && decide (w.m.getLsbD l = true)
  | .qreg y p n l _ => decide (y = x.g.wg) && decide (p = matPos x.s x.g) && (w.q.map (·.1)).contains n && decide (w.m.getLsbD l = true)
  | _ => false

/-- The writes w of a lane instruction x, with the registers `dies` killed by last-use marks, in the state t, where its group is g' (R48 to
R53, R171, R172, R410): the registers in the lanes written, the tags and STATUS, and a damaged lane that is written is good again; all but
the lane queue, the latches and the SOLO count stays. -/
def LaneWrites (x : LX) (w : LW) (dies : List Nat) (t : State) (g' : Grp) : Prop :=
  grpOf t x.g.uid = some g' ∧ (w.q = [] → t = setGrp { x.s with bad := t.bad } g' ∧ g'.wins = x.g.wins) ∧
  { t with grps := x.s.grps, wgs := x.s.wgs, bad := x.s.bad } = x.s ∧ (∀ d, d ∈ t.bad ↔ d ∈ x.s.bad ∧ mended x w d = false) ∧
  (∀ u, u ≠ x.g.uid → grpOf t u = grpOf x.s u) ∧
  { g' with g := x.g.g, solo := x.g.solo, wins := x.g.wins } = x.g ∧
  (∀ n l, n < 256 → l < 96 →
    let rest : Word := if n ∈ dies then 0x7FA00DEA else lv x.g.g n l
    lv g'.g n l = match w.v.find? fun p => p.1 = n with | some p => if w.m.getLsbD l = true then p.2 l else rest | none => rest) ∧
  (∀ n, n < 256 → g'.g.dead.getLsbD n = if w.m ≠ 0 ∧ n ∈ w.v.map (·.1) then false else decide (n ∈ dies) || x.g.g.dead.getLsbD n) ∧
  (∀ c l, l < 96 → (aget 0 g'.g.qtags c).getLsbD l =
    if w.m.getLsbD l = true ∧ c ∈ w.v.map (·.1 / 4) then (match w.tags with | some (n, f) => decide (n / 4 = c) && f l | none => false)
    else (aget 0 x.g.g.qtags c).getLsbD l && decide (c ∉ dies.map (· / 4))) ∧
  (∀ j l, j < 16 → l < 96 → (kGet g'.g j).getLsbD l =
    match w.k with
    | some (d, f) => if d.toNat = j ∧ d ≠ 0 ∧ w.m.getLsbD l = true then f l else (kGet x.g.g j).getLsbD l
    | none => (kGet x.g.g j).getLsbD l) ∧
  ((∃ y, wgBy x.s x.g.wg = some y) → ∀ n l, l < 96 → rl (qGet t g' n) l =
    match w.q.find? fun p => p.1 = n with
    | some p => if w.m.getLsbD l = true then p.2 l else rl (qGet x.s x.g n) l
    | none => rl (qGet x.s x.g n) l) ∧
  g'.g.status = x.g.g.status ||| w.stick ∧
  { g'.g with v := x.g.g.v, dead := x.g.g.dead, qtags := x.g.g.qtags, k := x.g.g.k, status := x.g.g.status, laneQ := x.g.g.laneQ } = x.g.g

/-- What a lane instruction x leaves when it retires with the writes w (R50, R53, R59, R255): its writes, the registers that its last-use
marks kill dead, the latch, and the block at its next instruction, with the record of a chain run in progress. -/
def LaneLeaves (x : LX) (w : LW) (t : State) : Prop :=
  ∃ g', LaneWrites x w (killsAt x.b.words x.n) t g' ∧ g'.solo = x.g.solo.map (· - 1) ∧
    (x.n + 1 ≥ x.b.words.length → g'.g.laneQ = x.g.g.laneQ.drop 1) ∧
    (x.n + 1 < x.b.words.length → ∃ b', g'.g.laneQ = b' :: x.g.g.laneQ.drop 1 ∧ b'.next = x.n + 1 ∧ b'.todo = none ∧ b'.noWatch = false ∧
      b'.part = none ∧ b'.pre = runNext x.s x.g x.b x.n w.stick ∧
      { b' with next := x.b.next, todo := x.b.todo, noWatch := x.b.noWatch, lat := x.b.lat, part := x.b.part, pre := x.b.pre } = x.b ∧
      ∀ n l, l < 96 → rl (aget poisonRow b'.lat n) l =
        match w.lat with
        | some (d, f) => if d.toNat = n then (if w.m.getLsbD l = true then f l else 0x7FA00DEA) else rl (aget poisonRow x.b.lat n) l
        | none => rl (aget poisonRow x.b.lat n) l)

/-- What a lane instruction x leaves when some of its lanes are done with the writes w and the lanes `todo` are left (R231, R233): it has not
retired, no register dies, and it stands at the head of the lane queue for those lanes. -/
def LaneStays (x : LX) (w : LW) (todo : LaneMask) (t : State) : Prop :=
  ∃ g', LaneWrites x w [] t g' ∧ g'.solo = x.g.solo ∧
    g'.g.laneQ = { x.b with todo := some todo, part := some { lane := 96, got := [], done := 0 } } :: x.g.g.laneQ.drop 1

/-- Source A, B or C of a lane instruction in a lane, and the STATUS bit of dead registers and invalid latches among the first n sources. -/
def srcW (x : LX) (h : LaneHdr) (pos l : Nat) : Word := rl (x.src pos (if pos = 0 then h.a else if pos = 1 then h.b else h.c)).1 l
def pois (x : LX) (h : LaneHdr) (n : Nat) : Word :=
  if (List.range n).any fun p => (x.src p (if p = 0 then h.a else if p = 1 then h.b else h.c)).2 then 1 else 0

/-- Rows written from the destination on and to the latch (R43, R53). -/
def toRows (x : LX) (dst : Dst) (lat : Option (BitVec 2)) (nowb : Bool) (rows : List (Nat → Word)) (stick : Word) : LW :=
  let regs (n : Nat) : List (Nat × (Nat → Word)) := ((List.range rows.length).map (n + ·)).zip rows
  { m := x.act, v := if nowb then [] else match dst with | .vreg n => regs n.toNat | _ => [],
    q := if nowb then [] else match dst with | .qreg n => regs n.toNat | _ => [],
    lat := lat.map fun n => (n, rows.headD fun _ => 0), stick := stick }

/-- A word per lane, and a truth value per lane (R126). -/
def row1 (x : LX) (h : LaneHdr) (stick : Word) (f : Nat → Word) : LW := toRows x h.dst h.lat h.nowb [f] stick
def truth (x : LX) (h : LaneHdr) (stick : Word) (f : Nat → Bool) : LW :=
  match h.dst with
  | .kreg n => { m := x.act, k := some (n, f), stick := stick }
  | _ => row1 x h stick fun l => if f l then 0xFFFFFFFF else 0

/-- Results of one, two and three integer sources. -/
def int1 (x : LX) (h : LaneHdr) (f : Word → Word) : LW := row1 x h (pois x h 1) fun l => f (srcW x h 0 l)
def int2 (x : LX) (h : LaneHdr) (f : Word → Word → Word) : LW := row1 x h (pois x h 2) fun l => f (srcW x h 0 l) (srcW x h 1 l)
def int3 (x : LX) (h : LaneHdr) (f : Word → Word → Word → Word) : LW :=
  row1 x h (pois x h 3) fun l => f (srcW x h 0 l) (srcW x h 1 l) (srcW x h 2 l)

/-- The flags that the lanes of ACTIVE raise, as bits of STATUS (R142). -/
def raised (x : LX) (f : Nat → Flags) : Word := fpStatus ((lanesIn x.act).foldl (fun a l => a ||| f l) 0)

/-- Floating-point results of a lane, 32 or 64 bits, with their flags; p is the STATUS bit of the sources. -/
def flt (x : LX) (h : LaneHdr) (p : Word) (f : Nat → Nat × Flags) : LW := row1 x h (p ||| raised x fun l => (f l).2) fun l => BitVec.ofNat 32 (f l).1
def dbl (x : LX) (h : LaneHdr) (p : Word) (f : Nat → Nat × Flags) : LW :=
  toRows x h.dst h.lat h.nowb [fun l => BitVec.ofNat 32 (f l).1, fun l => BitVec.ofNat 32 ((f l).1 / 2 ^ 32)] (p ||| raised x fun l => (f l).2)
def flt1 (x : LX) (h : LaneHdr) (f : Nat → Nat × Flags) : LW := flt x h (pois x h 1) fun l => f (srcW x h 0 l).toNat
def flt2 (x : LX) (h : LaneHdr) (f : Nat → Nat → Nat × Flags) : LW :=
  flt x h (pois x h 2) fun l => f (srcW x h 0 l).toNat (srcW x h 1 l).toNat
def flt3 (x : LX) (h : LaneHdr) (f : Nat → Nat → Nat → Nat × Flags) : LW :=
  flt x h (pois x h 3) fun l => f (srcW x h 0 l).toNat (srcW x h 1 l).toNat (srcW x h 2 l).toNat

/-- An exact integer reduced to a word of a type (R118). -/
def wordT (uns sat : Bool) (v : Int) : Word :=
  BitVec.ofInt 32 (if sat then (if uns then max 0 (min 4294967295 v) else max (-2147483648) (min 2147483647 v)) else v)

/-- A type reads its words unsigned (R117). -/
def tyU (m : AMods) : Bool := decide (m.ty = .z32 ∨ m.ty = .z8)

/-- Integer results of R118 to R127 and R133. -/
def intRule (x : LX) : Instr → Option LW
  | .lnop _ _ => some { m := 0 }
  | .mov h _ => some (int1 x h id)
  | .movi h imm _ => some (toRows x h.dst h.lat h.nowb [fun _ => imm] 0)
  | .iadd h m => some (int2 x h fun a b => wordT (tyU m) m.sat (int (tyU m) a + int (tyU m) b))
  | .isub h m => some (int2 x h fun a b => wordT (tyU m) m.sat (int (tyU m) a - int (tyU m) b))
  | .iaddi h imm m => some (toRows x h.dst h.lat h.nowb
      [fun l => wordT (m.getLsbD 1) (m.getLsbD 0) (int (m.getLsbD 1) (rl (x.src 0 h.a).1 l) + int (m.getLsbD 1) imm)] (if (x.src 0 h.a).2 then 1 else 0))
  | .imul h m => some (int2 x h fun a b => wordT (tyU m) m.sat (int (tyU m) a * int (tyU m) b))
  | .imulh h m => some (int2 x h fun a b => BitVec.ofInt 32 (int (tyU m) a * int (tyU m) b / 4294967296))
  | .imad h m => some (int3 x h fun a b c => wordT (tyU m) m.sat (int (tyU m) a * int (tyU m) b + int (tyU m) c))
  | .imadw h m =>
    let v (l : Nat) : Int := int (tyU m) (srcW x h 0 l) * int (tyU m) (srcW x h 1 l) + int (tyU m) (srcW x h 2 l)
    some (toRows x h.dst h.lat h.nowb [fun l => BitVec.ofInt 32 (v l), fun l => BitVec.ofInt 32 (v l / 4294967296)] (pois x h 3))
  | .iabs h m => some (int1 x h fun a => if a = 0x80000000 then (if m.sat then 0x7FFFFFFF else a) else if a.msb then -a else a)
  | .imin h m => some (int2 x h fun a b => if int (tyU m) a ≤ int (tyU m) b then a else b)
  | .imax h m => some (int2 x h fun a b => if int (tyU m) a ≥ int (tyU m) b then a else b)
  | .andLane h _ => some (int2 x h (· &&& ·))
  | .orLane h _ => some (int2 x h (· ||| ·))
  | .xorLane h _ => some (int2 x h (· ^^^ ·))
  | .bool3 h m => some (int3 x h fun a b c => boolOp (m.x.toNat / 8) (boolOp (m.x.toNat % 8) a b) c)
  | .shlLane h _ => some (int2 x h fun a b => if b.toNat % 256 ≥ 32 then 0 else a <<< (b.toNat % 256))
  | .shrLane h _ => some (int2 x h fun a b => if b.toNat % 256 ≥ 32 then 0 else a >>> (b.toNat % 256))
  | .sarLane h _ => some (int2 x h fun a b =>
      if b.toNat % 256 ≥ 32 then (if a.msb then 0xFFFFFFFF else 0) else a.sshiftRight (b.toNat % 256))
  | .wshift h m => some (int3 x h fun a b c =>
      let n := if m.x.getLsbD 1 then min c.toNat 32 else c.toNat % 32
      let w : DWord := b ++ a
      if m.x.getLsbD 0 then (w <<< n).extractLsb' 32 32 else (w >>> n).extractLsb' 0 32)
  | .extr h m => some (int3 x h (extrW (decide (m.ty ≠ .s32))))
  | .insr h _ => some (int3 x h insrW)
  | .popcLane h _ => some (int1 x h fun a => BitVec.ofNat 32 ((List.range 32).countP fun k => a.getLsbD k))
  | .clzLane h _ => some (int1 x h fun a => (List.range 33).foldl (fun n k => if a.toNat < 2 ^ (32 - k) then BitVec.ofNat 32 k else n) 0)
  | .bitrev h _ => some (int1 x h fun a => BitVec.ofNat 32 ((List.range 32).foldl (fun n k => n + (if a.getLsbD k then 2 ^ (31 - k) else 0)) 0))
  | .bswz h _ => some (int3 x h bswzW)
  | .icmp h m => some (truth x h (pois x h 2) fun l => icmpCond (m.x.toNat % 8) (int (tyU m) (srcW x h 0 l)) (int (tyU m) (srcW x h 1 l)))
  | .selLane h m => some (row1 x h (pois x h 2) fun l => if (kGet x.g.g (m.x.toNat % 16)).getLsbD l then srcW x h 0 l else srcW x h 1 l)
  | .idot4 h m => some (int3 x h (idot4 (decide (m.ty = .z8)) (m.x.getLsbD 0) m.sat))
  | .isad h m => some (int3 x h (isad (decide (m.ty = .z8))))
  | _ => none

/-- Floating-point results of R149 to R164 but QBLK; the formats and the operations are those of R138 to R148. -/
def fltRule (x : LX) : Instr → Option LW
  | .fadd h m => some (flt2 x h fun a b => arithM fmt32 m [a, b] (opAdd m.rnd))
  | .fsub h m => some (flt2 x h fun a b => arithM fmt32 m [a, b] (opSub m.rnd))
  | .fmul h m => some (flt2 x h fun a b => arithM fmt32 m [a, b] opMul)
  | .ffma h m => some (flt3 x h fun a b c => arithM fmt32 m [a, b, c] (opFma m.rnd))
  | .fmin h m => some (flt2 x h (fMinMax fmt32 false (m.x.getLsbD 0) m.ftz (m.x.getLsbD 5)))
  | .fmax h m => some (flt2 x h (fMinMax fmt32 true (m.x.getLsbD 0) m.ftz (m.x.getLsbD 5)))
  | .fcmp h m =>
    let r (l : Nat) : Bool × Flags := if m.ty = .f64 then fCmp fmt64 m.ftz (m.x.toNat % 8) ((x.src64 h.a).1.getD l 0) ((x.src64 h.b).1.getD l 0)
      else fCmp fmt32 m.ftz (m.x.toNat % 8) (srcW x h 0 l).toNat (srcW x h 1 l).toNat
    let p : Word := if m.ty = .f64 then (if (x.src64 h.a).2 || (x.src64 h.b).2 then 1 else 0) else pois x h 2
    some (truth x h (p ||| raised x fun l => (r l).2) fun l => x.act.getLsbD l && (r l).1)
  | .fclass h m => some (if m.ty = .f64 then flt x h (if (x.src64 h.a).2 then 1 else 0) fun l => (fClass fmt64 ((x.src64 h.a).1.getD l 0), 0)
      else flt1 x h fun a => (fClass fmt32 a, 0))
  | .fdiv h m => some (flt2 x h fun a b => arithM fmt32 m [a, b] opDiv)
  | .fsqrt h m => some (flt1 x h fun a => arithM fmt32 m [a] opSqrt)
  | .frcp h m => some (flt1 x h fun a => trans .rcp m.ftz (m.x.getLsbD 5) (BitVec.ofNat 32 a))
  | .frsq h m => some (flt1 x h fun a => trans .rsq m.ftz (m.x.getLsbD 5) (BitVec.ofNat 32 a))
  | .fexp2 h m => some (flt1 x h fun a => trans .exp2 m.ftz (m.x.getLsbD 5) (BitVec.ofNat 32 a))
  | .flog2 h m => some (flt1 x h fun a => trans .log2 m.ftz (m.x.getLsbD 5) (BitVec.ofNat 32 a))
  | .fsin h m => some (flt1 x h fun a => trans .sin m.ftz (m.x.getLsbD 5) (BitVec.ofNat 32 a))
  | .fcos h m => some (flt1 x h fun a => trans .cos m.ftz (m.x.getLsbD 5) (BitVec.ofNat 32 a))
  | .ftanh h m => some (flt1 x h fun a => trans .tanh m.ftz (m.x.getLsbD 5) (BitVec.ofNat 32 a))
  | .frnd h m => some (flt1 x h (fRnd fmt32 m.rnd m.ftz (m.x.getLsbD 5)))
  | .fscale h m => some (flt2 x h fun a b => fScale fmt32 m.rnd m.ftz (m.x.getLsbD 5) a (BitVec.ofNat 32 b).toInt)
  | .pkadd h m => some (pk2 x h m (opAdd m.rnd))
  | .pkmul h m => some (pk2 x h m opMul)
  | .pkfma h m =>
    let a := x.srcPk (pkFmt m) 0 h.a; let b := x.srcPk (pkFmt m) 1 h.b; let c := x.srcPk (pkFmt m) 2 h.c
    some (flt x h (if a.2 || b.2 || c.2 then 1 else 0) fun l => pkOp m [rl a.1 l, rl b.1 l, rl c.1 l] (opFma m.rnd))
  | .dadd h m => some (d2 x h m (opAdd m.rnd))
  | .dmul h m => some (d2 x h m opMul)
  | .dfma h m =>
    let a := x.src64 h.a; let b := x.src64 h.b; let c := x.src64 h.c
    some (dbl x h (if a.2 || b.2 || c.2 then 1 else 0) fun l => arithM fmt64 m [a.1.getD l 0, b.1.getD l 0, c.1.getD l 0] (opFma m.rnd))
  | .cvt h m =>
    let src := (Ty.ofCode (m.x.toNat % 32)).getD .f32
    let a (l : Nat) : Nat := if tyWidth src = 64 then (x.src64 h.a).1.getD l 0 else (srcW x h 0 l).toNat % 2 ^ tyBits src
    let p : Word := if tyWidth src = 64 then (if (x.src64 h.a).2 then 1 else 0) else pois x h 1
    let f (l : Nat) : Nat × Flags := cvtV src m.ty m.rnd m.ftz m.sat (m.x.getLsbD 5) (a l)
    some (if tyWidth m.ty = 64 then dbl x h p f else flt x h p fun l => (placeNarrow m.ty (f l).1, (f l).2))
  | .pack h m => some (flt3 x h fun a b c =>
      let p := cvtV .f32 m.ty m.rnd m.ftz m.sat (m.x.getLsbD 5) a
      let q := cvtV .f32 m.ty m.rnd m.ftz m.sat (m.x.getLsbD 5) b
      ((slotSet m.ty (slotSet m.ty (BitVec.ofNat 32 c) (m.x.toNat % 16) p.1) (m.x.toNat % 16 + 1) q.1).toNat, p.2 ||| q.2))
  | .unpack h m => some (flt1 x h fun a => cvtV m.ty .f32 .rne m.ftz false (m.x.getLsbD 5) (slotGet m.ty (BitVec.ofNat 32 a) (m.x.toNat % 16)))
  | .dqblk h m => some (flt2 x h fun a b =>
      dequantElem m.ty m.rnd m.ftz (m.x.getLsbD 4) (slotGet m.ty (BitVec.ofNat 32 a) (m.x.toNat % 16)) (b / 2 ^ 16 % 2 ^ (if m.x.getLsbD 4 then 10 else 8)))
  | _ => none
where
  pk2 (x : LX) (h : LaneHdr) (m : AMods) (op : List FV → FV × Flags) : LW :=
    let a := x.srcPk (pkFmt m) 0 h.a; let b := x.srcPk (pkFmt m) 1 h.b
    flt x h (if a.2 || b.2 then 1 else 0) fun l => pkOp m [rl a.1 l, rl b.1 l] op
  d2 (x : LX) (h : LaneHdr) (m : AMods) (op : List FV → FV × Flags) : LW :=
    let a := x.src64 h.a; let b := x.src64 h.b
    dbl x h (if a.2 || b.2 then 1 else 0) fun l => arithM fmt64 m [a.1.getD l 0, b.1.getD l 0] op

/-- A quad source, and the STATUS bit of its dead registers (R51, R171). -/
def quadW (x : LX) (c : Src) (l : Nat) : Cap := quadCap x.g.g (srcV c) l
def quadP (x : LX) (c : Src) : Bool := (List.range 4).any fun k => x.g.g.dead.getLsbD (srcV c + k)

/-- A capability per lane in the quad from v register n on (R171). -/
def toQuad (x : LX) (n : Nat) (p : Bool) (f : Nat → Cap) : LW :=
  { m := x.act, v := (List.range 4).map fun k => (n + k, fun l => (f l).bits.extractLsb' (32 * k) 32), tags := some (n, fun l => (f l).tag),
    stick := if p then 1 else 0 }

/-- What the derivations of R187 write, and the fault that leaves a lane as it is, lane by lane. -/
def quadRule (x : LX) : Instr → Option (LaneHdr × Bool × (Nat → Option TrapInfo × Cap))
  | .vcseta h m => some (h, quadP x h.a || (x.src64 h.b).2, fun l => addrRule (quadW x h.a l) ((x.src64 h.b).1.getD l 0) (m.getLsbD 0))
  | .vcinc h m => some (h, quadP x h.a || (x.src 1 h.b).2,
      fun l => addrRule (quadW x h.a l) (cAddr (quadW x h.a l) + (srcW x h 1 l).toInt) (m.getLsbD 0))
  | .vcsetb h m => some (h, quadP x h.a || (x.src 1 h.b).2,
      fun l => boundsRule (quadW x h.a l) (cAddr (quadW x h.a l)) (srcW x h 1 l).toNat (m.getLsbD 0))
  | .vcandp h _ => some (h, quadP x h.a || (x.src 1 h.b).2, fun l =>
      let c := quadW x h.a l
      (if c.tag = true ∧ cOtype c ≠ 0 then some (capFlt c 2 0) else none, withPerms c (cPerms c &&& (srcW x h 1 l).truncate 16 &&& 0x7FFF)))
  | .vcmov h _ => some (h, quadP x h.a, fun l => (none, quadW x h.a l))
  | .vcclr h m => some (h, false, fun l =>
      (none, if m.getLsbD 0 then { quadCap x.g.g (dstV h.dst) l with tag := false } else { bits := 0, tag := false }))
  | .vcderive h m =>
    let c := aget capNull x.b.c (m.toNat / 2 ^ 11)
    some (h, (x.src 0 h.a).2 || (!m.getLsbD 1 && (x.src 1 h.b).2), fun l =>
      let p : Int := cAddr c + (srcW x h 0 l).toInt
      if m.getLsbD 1 then addrRule c p (m.getLsbD 0) else boundsRule c p (srcW x h 1 l).toNat (m.getLsbD 0))
  | _ => none

/-- The reads of capabilities lane by lane (R181, R184). -/
def quadRead (x : LX) : Instr → Option LW
  | .vcget h m => some (row1 x h (if quadP x h.a then 1 else 0) fun l => BitVec.ofInt 32 (capRead (quadW x h.a l) (m.toNat % 32)))
  | .vctest h m => some (truth x h (if quadP x h.a || (decide (m.toNat % 8 = 3) && quadP x h.b) then 1 else 0) fun l =>
      capTest (quadW x h.a l) (if m.toNat % 8 = 3 then quadW x h.b l else capNull) (m.toNat % 8))
  | _ => none

/-- The block was enqueued by a whole group that had one split (R128). -/
def WholeBlock (b : LaneBlock) : Prop := b.splits ≤ 1 ∧ b.full = true ∧ b.receiver = false

/-- The key of MATCH in a lane, and the lanes of ACTIVE that have the key of lane l (R264). -/
def matchKey (x : LX) (h : LaneHdr) (m : MMods) (l : Nat) : Nat :=
  if m.ty = .b64 then (rl (x.srcK h.a 0).1 l).toNat + (rl (x.srcK h.a 1).1 l).toNat * 2 ^ 32 else (srcW x h 0 l).toNat
def sameKey (x : LX) (h : LaneHdr) (m : MMods) (l : Nat) : List Nat := (lanesIn x.act).filter fun j => decide (matchKey x h m j = matchKey x h m l)

/-- The group-wide instructions within one group (R128, R129, R133, R163, R264). -/
def wideRule (x : LX) : Instr → Option LW
  | .lbcast h _ =>
    let j := (srcW x h 1 0).toNat % 128
    some (row1 x h (pois x h 2) fun _ => if j ≥ 96 then 0 else srcW x h 0 j)
  | .nbr h m =>
    let right := m.x.getLsbD 0
    let mode := m.x.toNat / 2 % 4
    let near (l : Nat) : Word := if right then srcW x h 0 (l + 1) else srcW x h 0 (l - 1)
    let edge : Nat := if right then 95 else 0
    if mode = 1 then some (row1 x h (pois x h 1) fun l => if l = edge then srcW x h 0 (95 - edge) else near l)
    else if groupCount x.s x.g = 1 then
      some (row1 x h (pois x h 2) fun l => if l = edge then (if mode = 2 then srcW x h 0 (95 - edge) else srcW x h 1 edge) else near l)
    else none
  | .matchL h m =>
    let p : Word := if m.ty = .b64 then (if (x.srcK h.a 0).2 || (x.srcK h.a 1).2 then 1 else 0) else pois x h 1
    some (if m.x.toNat % 4 = 0 then truth x h p fun l => decide ((sameKey x h m l).head? = some l)
      else row1 x h p fun l => if m.x.toNat % 4 = 1 then BitVec.ofNat 32 (sameKey x h m l).length else BitVec.ofNat 32 ((sameKey x h m l).headD 0))
  | .qblk h m =>
    let ws := m.x.getLsbD 4
    let v (l : Nat) : FV := fIn fmt32 m.ftz (srcW x h 0 l).toNat
    let sc (l : Nat) : Nat := blockScale ws m.ty ((List.range 32).map fun k => v (l / 32 * 32 + k))
    some (flt x h (pois x h 1) fun l => (sc l * 2 ^ 16 + (quantElem m.ty m.rnd m.ftz ws (sc l) (v l)).1, (quantElem m.ty m.rnd m.ftz ws (sc l) (v l)).2))
  | _ => none

/-- The post of an NBR for its neighbours (R129, R130). -/
def nbrPost (x : LX) (h : LaneHdr) (g : Grp) (n : Word) : Grp :=
  { g with g := { g.g with nbrPosted := true },
           posts := (g.posts.filter fun p => p.n + 1 = n) ++ [{ n := n, lo := srcW x h 0 0, hi := srcW x h 0 95, dead := (x.src 0 h.a).2 }] }

end Sys2Proof.Claims

/-- Lane integer and floating-point instructions within a lane (R118 to R127, R149 to R164): once the checks at issue pass, the destination,
the latch and STATUS take the values of the rule in the lanes of ACTIVE, and nothing else changes. -/
def Obligations.LaneArithmetic : Prop :=
  ∀ (i : Instr) (s : State) (x x1 : LX) (w : LW), actorLane s = some x → Issues x x1 → i.wf = true →
    (intRule x1 i = some w ∨ fltRule x1 i = some w) → ∃ t, exec i s = .next t ∧ LaneLeaves x1 w t

/-- Lane capability instructions (R171, R178, R181, R184, R187): the derived capability with its tag in every lane of ACTIVE once every lane's
checks pass; else one CAPFAULT with the detail of the lowest failing lane and the failing lanes in its mask, and the other lanes are
written; VCGET and VCTEST never fault. -/
def Obligations.LaneCapability : Prop :=
  ∀ (i : Instr) (s : State) (x x1 : LX), actorLane s = some x → Issues x x1 → i.wf = true →
    (∀ w, quadRead x1 i = some w → ∃ t, exec i s = .next t ∧ LaneLeaves x1 w t) ∧
    (∀ h p f, quadRule x1 i = some (h, p, f) → (∀ l < 96, x1.act.getLsbD l = true → (f l).1 = none) →
      ∃ t, exec i s = .next t ∧ LaneLeaves x1 (toQuad x1 (dstV h.dst) p fun l => (f l).2) t) ∧
    (∀ h p f l d, quadRule x1 i = some (h, p, f) → l < 96 → x1.act.getLsbD l = true → (f l).1 = some d →
      (∀ j < l, x1.act.getLsbD j = true → (f j).1 = none) → ∃ o m, exec i s = .next (finishLane x1 (.trap x1.s o { d with mask := m, undone := m })) ∧
      (∀ j, m.getLsbD j = true ↔ j < 96 ∧ x1.act.getLsbD j = true ∧ (f j).1 ≠ none) ∧ o.m = x1.act &&& ~~~ m ∧
      ∃ v, o = { m := o.m, cap := some (dstV h.dst, v), stick := o.stick } ∧ ∀ j < 96, x1.act.getLsbD j = true → (f j).1 = none → v j = (f j).2)

/-- LBCAST, NBR, MATCH and QBLK in a whole group (R128 to R133, R163, R264): within the group the values of the rule. A linked NBR posts its
edge lanes once, after the windows have committed and the multicast threads have ended (R241, R273), waits until both neighbours of the ring have posted the same number or ended, and then takes its edge value. -/
def Obligations.LaneGroupWide : Prop :=
  ∀ (i : Instr) (s : State) (x x1 : LX), actorLane s = some x → Issues x x1 → i.wf = true → WholeBlock x.b →
    (∀ w, wideRule x1 i = some w → ∃ t, exec i s = .next t ∧ LaneLeaves x1 w t) ∧
    ∀ h m s1 g0 g1 n cnt lo hi s2 y z, i = .nbr h m → m.x.toNat / 2 % 4 ≠ 1 → cnt = groupCount x1.s x1.g → cnt ≠ 1 →
      NoRegion x1.g → mcastBusy s1 x1.g.uid = false → commitAll x1.s x1.g.uid = (s1, .done) → grpOf s1 x1.g.uid = some g0 → n = g0.g.nbrSeq + 1 → y = { x1 with s := s1, g := g0 } →
      g1 = (if g0.g.nbrPosted = true then g0 else nbrPost y h g0 n) → s2 = setGrp s1 g1 →
      lo = (g1.gidx + cnt - 1) % cnt → hi = (g1.gidx + 1) % cnt →
      (¬ (nbrReady s2 g1 n lo = true ∧ nbrReady s2 g1 n hi = true) → exec i s = .next s2) ∧
      (nbrReady s2 g1 n lo = true → nbrReady s2 g1 n hi = true →
        z = { y with s := setGrp s2 { g1 with g := { g1.g with nbrSeq := n, nbrPosted := false } },
                     g := { g1 with g := { g1.g with nbrSeq := n, nbrPosted := false } } } →
        ∃ t stick edge, exec i s = .next t ∧ LaneLeaves z (row1 z h stick fun l =>
            if m.x.getLsbD 0 then (if l = 95 then edge else srcW y h 0 (l + 1)) else (if l = 0 then edge else srcW y h 0 (l - 1))) t ∧
          ∀ v, v = (if m.x.toNat / 2 % 4 = 2 ∨ (if m.x.getLsbD 0 then g1.gidx + 1 < cnt else g1.gidx ≠ 0) then
                nbrEdge s2 g1 n (!m.x.getLsbD 0) (if m.x.getLsbD 0 then hi else lo) else none) →
            edge = match v with | some p => p.1 | none => srcW y h 1 (if m.x.getLsbD 0 then 95 else 0))

namespace Sys2Proof.Claims

/-! Lane memory instructions. -/

/-- Every lane access of an instruction outside SOLO mode passes, and the instruction joins a window (R205, R213, R217, R237): no watchpoint
matches, each lane's checks and translation succeed in ascending order, and no place is on an uncached page; the lanes with their places are
then ok, the state is s3 and the group g3. -/
def LaneWindow (x : LX) (access : Nat) (accs : List Acc) (res : State → Acc → Got (List Piece)) (ok : List (Acc × List Piece)) (s3 : State) (g3 : Grp) :
    Prop :=
  ∃ s1 s2 g1 ws, watchTrap x.g x.b.noWatch access x.act accs = none ∧ x.b.part = none ∧ soloOn x.g = false ∧
    resolveAll x.s res accs = (s1, ok.map (fun p => (p.1, .ok p.2)), true) ∧ (∀ p ∈ ok.flatMap (·.2), p.uc = false) ∧
    ws = writesOf (RawLane.ofWord x.w) ∧ grpOf s1 x.g.uid = some g1 ∧
    enterMem s1 g1 (ok.flatMap (·.2)) (ws.filter (· < 1000)) ((ws.filter fun n => 1000 ≤ n && n < 2000).map fun n => ckptQ (n - 1000))
      (fun _ => none) (fun s g => some (s, g)) = some (s2, g3) ∧
    s3 = noteAccess s2 x.g.uid .window (access = 1) (ok.flatMap (·.2))

/-- A lane memory instruction is performed outside windows from state s0 on, with the group g: it is under way, or it is in SOLO mode, or a
place of a passing lane is on an uncached page and neither a region nor a multicast thread of the group stands in the way (R222, R241, R255,
R273). -/
def LaneBegins (x : LX) (access : Nat) (accs : List Acc) (res : State → Acc → Got (List Piece)) (s0 : State) (g : Grp) : Prop :=
  watchTrap x.g x.b.noWatch access x.act accs = none ∧
  ((x.b.part ≠ none ∧ s0 = x.s ∧ g = x.g) ∨
   (x.b.part = none ∧ g.wins = [] ∧
    ((soloOn x.g = true ∧ s0 = x.s ∧ g = x.g) ∨
     (soloOn x.g = false ∧ NoRegion g ∧ (∀ m ∈ s0.fab.mcThreads, m.group ≠ x.g.uid) ∧ grpOf s0 x.g.uid = some g ∧
      ∃ rs, resolveAll x.s res accs = (s0, rs, true) ∧ ∃ p ∈ (passing rs).flatMap (·.2), p.uc = true))))

/-- The first of the lanes that passes: the lanes before it fail (R217, R233). -/
def FirstPass (one : State → Acc → Got α) : State → List Acc → State → Acc → α → Prop
  | _, [], _, _, _ => False
  | s, b :: l, t, a, v => (one s b = .ok t v ∧ a = b) ∨ ∃ u f, one s b = .fault u f ∧ FirstPass one u l t a v

/-- What an instruction x leaves when lanes of it are done with the writes w in state s4: it retires, or stays for the lanes `todo`. -/
def LanesDone (i : Instr) (s : State) (x : LX) (s4 : State) (w : LW) (todo : LaneMask) : Prop :=
  ∃ t g5, exec i s = .next t ∧ grpOf s4 x.g.uid = some g5 ∧ SameButWins x.g g5 ∧
    (todo = 0 → LaneLeaves { x with s := s4, g := g5 } w t) ∧ (todo ≠ 0 → LaneStays { x with s := s4, g := g5 } w todo t)

/-- The lanes of ACTIVE after a lane. -/
def lanesLeft (x : LX) (l : Nat) : LaneMask := x.act &&& ~~~ BitVec.ofNat 96 (2 ^ l)

/-- How a lane memory instruction x ends whose effect in lanes is `rule` (R216, R217, R231, R233, R255): in a window all lanes at once, in
ascending order; outside windows one event of one lane, after which the next event of that lane is due, or the next lane, or the instruction
retires. -/
def MemEnds (i : Instr) (s : State) (x : LX) (access au : Nat) (cap : Bool) (accs : List Acc) (res : ResMode → State → Acc → Got (List Piece))
    (rule : State → Grp → MemMode → Part → List (Acc × List Piece) → State × LW) : Prop :=
  (∀ ok s3 g3 r, LaneWindow x access accs (res .window) ok s3 g3 → r = rule s3 g3 .window { lane := 96, got := [], done := 0 } ok →
    LanesDone i s x (dropAns r.1 x.g.uid) r.2 0) ∧
  (∀ s0 g s1 a ps p c q r, LaneBegins x access accs (res .window) s0 g →
    FirstPass (fun t b => (res .whole t b).bind fun u _ => res .unit u (b.unit au (partOf x.b.part b.l).done)) s0 accs s1 a ps →
    blocked s1 x.g.uid (access != 1) (ps.flatMap (pieceLines s1)) = none → p = partOf x.b.part a.l → c = a.unit au p.done →
    q = { p with got := if access = 1 then p.got ++ unitRead s1 g cap ps else p.got, done := p.done + c.n } →
    r = (if access = 1 then (if a.n ≤ q.done then rule s1 g .direct q [(a, q.pieces)] else (s1, { m := 0 })) else rule s1 g .direct p [(c, ps)]) →
    (q.done < a.n → exec i s = .next (modGrp (dropAns r.1 x.g.uid) x.g.uid fun h => { h with g := setHead h.g { x.b with part := some q } })) ∧
    (a.n ≤ q.done → LanesDone i s x (dropAns r.1 x.g.uid) r.2 (lanesLeft x a.l)))

/-- The lanes that have accesses. -/
def lanesMask (ok : List (Acc × List Piece)) : LaneMask := ok.foldl (fun a p => a ||| BitVec.ofNat 96 (2 ^ p.1.l)) 0

/-- The bytes of a type in memory, and the scope that an instruction states (R46, R214). -/
def size (t : Ty) : Nat := if t = .dflt then 4 else tyWidth t / 8
def stated (m : MMods) : Nat := match m.scope with | .dflt => 0 | .core => 1 | .die => 2 | .chip => 3 | .pod => 4 | .sys => 5

/-- The accesses through the b register that the modifiers name, at unsigned offsets; and through each lane's capability, at signed ones
(R209, R215). -/
def viaB (x : LX) (m : MMods) (off : Nat → Word) (n : Nat) : List Acc :=
  let b := bGet x.g.g (m.x.toNat % 8)
  (lanesIn x.act).map fun l => { l := l, x := b.cap, va := cAddr b.cap + (off l).toNat, n := n, b := if cSP b.cap then none else some (b, (off l).toNat) }
def viaX (x : LX) (h : LaneHdr) (n : Nat) : List Acc :=
  (lanesIn x.act).map fun l => { l := l, x := quadW x h.a l, va := cAddr (quadW x h.a l) + (srcW x h 1 l).toInt, n := n, b := none }

/-- The words that a load of a type gives from the number in memory, the lowest first (R214). -/
def loaded (t : Ty) (v : Nat) : List Word :=
  if t = .s8 then [(BitVec.ofNat 8 v).signExtend 32] else if t = .s16 then [(BitVec.ofNat 16 v).signExtend 32]
  else if t = .b64 then [BitVec.ofNat 32 v, BitVec.ofNat 32 (v / 2 ^ 32)]
  else if t = .b128 then [BitVec.ofNat 32 v, BitVec.ofNat 32 (v / 2 ^ 32), BitVec.ofNat 32 (v / 2 ^ 64), BitVec.ofNat 32 (v / 2 ^ 96)]
  else [BitVec.ofNat 32 v]

/-- The bytes of the largest single-copy atomic unit (R216). -/
def unitBytes (m : MMods) : Nat := match m.atom with | .a8 => 8 | .a16 => 16 | .none => 4

/-- What a load or a store does in lanes, from the state in which they entered: the state and the writes (R174, R175, R214, R215, R233). -/
abbrev MemRule := State → Grp → MemMode → Part → List (Acc × List Piece) → State × LW

/-- A load of a type, a load of capabilities, a store of bytes and a store of capabilities; p is the STATUS bit of the sources. -/
def loadRule (x : LX) (h : LaneHdr) (t : Ty) (p : Word) : MemRule := fun s g md part ok =>
  let word (k l : Nat) : Word := match ok.find? fun e => e.1.l = l with
    | some e => (loaded t (leNat (e.2.flatMap (viewOf s g md part.got).bytes))).getD k 0
    | none => 0
  (s, { toRows x h.dst none false ((List.range (loaded t 0).length).map word) p with m := lanesMask ok })
def loadCapRule (x : LX) (h : LaneHdr) (p : Bool) : MemRule := fun s g md part ok =>
  let cap (e : Acc × List Piece) : Cap := (viewOf s g md part.got).cap e.1.x e.2
  (ok.foldl (fun t e => noteGran t g.uid md (cap e)) s,
    { toQuad x (dstV h.dst) p (fun l => match ok.find? fun e => e.1.l = l with | some e => cap e | none => { bits := 0, tag := false }) with m := lanesMask ok })
def storeRule (x : LX) (d : Nat → List Byte) (p : Bool) : MemRule := fun s _ md part ok =>
  (ok.foldl (fun t e => (byteStores e.2 ((d e.1.l).drop part.done)).foldl (fun u o => emit u x.g.uid md o) t) s,
    { m := lanesMask ok, stick := if p then 1 else 0 })
def storeCapRule (x : LX) (d : Nat → Cap) (p : Bool) : MemRule := fun s _ md _ ok =>
  (ok.foldl (fun t e => (e.2.take 1).foldl (fun u q => emit u x.g.uid md (capStore q (d e.1.l))) t) s,
    { m := lanesMask ok, stick := if p then 1 else 0 })

/-- The loads and stores of R212: whether the form goes through lane capabilities, its accesses, what each asks, the capability that a store
gives each lane, and what it does. -/
def memForm (x : LX) : Instr → Option (Bool × List Acc × AccSpec × Option (Nat → Cap) × MemRule)
  | .ld h m => some (false, viaB x m (srcW x h 0) (size m.ty), { need := [0], access := 1, sp := some false, stated := stated m, atom := unitBytes m },
      none, loadRule x h m.ty (pois x h 1))
  | .lds h m => some (false, viaB x m (srcW x h 0) (size m.ty), { need := [0], access := 1, sp := some true, stated := stated m, atom := unitBytes m },
      none, loadRule x h m.ty (pois x h 1))
  | .ldx h m => some (true, viaX x h (size m.ty), { need := [0], access := 1, stated := stated m, atom := unitBytes m }, none,
      loadRule x h m.ty (if quadP x h.a || (x.src 1 h.b).2 then 1 else 0))
  | .ldc h m => some (false, viaB x m (srcW x h 0) 16, { need := [0], access := 1, cap16 := true, sp := some false, stated := stated m }, none,
      loadCapRule x h (x.src 0 h.a).2)
  | .ldcX h m => some (true, viaX x h 16, { need := [0], access := 1, cap16 := true, stated := stated m }, none,
      loadCapRule x h (quadP x h.a || (x.src 1 h.b).2))
  | .st h m => some (false, viaB x m (srcW x h 0) (size m.ty),
      { need := [1], access := 2, sp := some false, stated := stated m, use := .store, atom := unitBytes m }, none,
      storeRule x (x.storeData 1 h.b m.ty).1 ((x.storeData 1 h.b m.ty).2 || (x.src 0 h.a).2))
  | .sts h m => some (false, viaB x m (srcW x h 0) (size m.ty),
      { need := [1], access := 2, sp := some true, stated := stated m, use := .store, atom := unitBytes m }, none,
      storeRule x (x.storeData 1 h.b m.ty).1 ((x.storeData 1 h.b m.ty).2 || (x.src 0 h.a).2))
  | .stx h m => some (true, viaX x h (size m.ty), { need := [1], access := 2, stated := stated m, use := .store, atom := unitBytes m }, none,
      storeRule x (x.storeData 2 h.c m.ty).1 ((x.storeData 2 h.c m.ty).2 || quadP x h.a || (x.src 1 h.b).2))
  | .stc h m => some (false, viaB x m (srcW x h 0) 16, { need := [1], access := 2, cap16 := true, sp := some false, stated := stated m, use := .store },
      some (quadW x h.b), storeCapRule x (quadW x h.b) (quadP x h.b || (x.src 0 h.a).2))
  | .stcX h m => some (true, viaX x h 16, { need := [1], access := 2, cap16 := true, stated := stated m, use := .store },
      some (quadW x h.c), storeCapRule x (quadW x h.c) (quadP x h.c || quadP x h.a || (x.src 1 h.b).2))
  | _ => none

/-- The checks of one lane of a load or a store (R174, R217): those of the access, and of the capability stored. -/
def memChecks (x : LX) (sp : AccSpec) (d : Option (Nat → Cap)) (m : ResMode) (s : State) (a : Acc) : Got (List Piece) :=
  (resolveAcc s x.g { sp with use := sp.use.at_ m } a).bind fun t ps =>
    match d with
    | some f => if m = .unit then .ok t ps else (storeCapCheck t x.g a.x (f a.l) a.va ps).bind fun u _ => .ok u ps
    | none => .ok t ps

/-- The b register that an instruction goes through, if any (R207). -/
def throughB : Instr → Option Nat
  | .ld _ m | .lds _ m | .ldc _ m | .st _ m | .sts _ m | .stc _ m | .red _ m | .stm _ m | .redsp _ m | .atom _ m | .atoms _ m | .ldsum _ m => some (m.x.toNat % 8)
  | .stt _ m => some (m.toNat % 8)
  | _ => none

/-- The instruction with its b register translated again where it is stale (R207). -/
def refreshed (x : LX) (i : Instr) : LX := match throughB i with | some n => x.fresh n | none => x

/-- The operation and the type of an atomic instruction (R258, R259). -/
def atomicOp (m : MMods) : AtomOp :=
  let k := m.x.toNat / 8
  if k = 0 then .add else if k = 1 then .min else if k = 2 then .max else if k = 3 then .and else if k = 4 then .or else if k = 5 then .xor
  else if k = 6 then .exch else .cas
def atomicTy (m : MMods) : Ty := if m.ty ≠ .dflt then m.ty else if m.x.toNat / 8 ≤ 2 then .s32 else .b32

/-- An operation emitted for each lane, in ascending order; no register is written. -/
def emitRule (x : LX) (op : State → Acc → List Piece → Option BufOp) (stick : Word) : MemRule := fun s _ md _ ok =>
  (ok.foldl (fun t e => match op t e.1 e.2 with | some o => emit t x.g.uid md o | none => t) s, { m := lanesMask ok, stick := stick })

/-- The reductions: the access, the lanes' accesses, their checks, and the operation emitted for each lane (R260, R266, R273, R275). -/
def redForm (x : LX) : Instr → Option (Nat × List Acc × (State → Acc → Got (List Piece)) × MemRule)
  | .red h m =>
    let b := x.srcUnit 1 h.b (atomicTy m)
    some (3, viaB x m (srcW x h 0) (unitOf (atomicTy m)),
      fun s c => match winAtInt s c.va with
        | some (_, w) => contribRes s x.g c w (decide (atomicOp m = .add) && agrees w.d.fmt (atomicTy m)) (stated m) (unitOf (atomicTy m))
        | none => resolveAcc s x.g { need := [0, 1, 10], access := 3, align := unitOf (atomicTy m), sp := some false, stated := stated m, use := .red } c,
      emitRule x (fun s a ps => match winAtInt s a.va, ps with
        | some (id, w), _ => some (.contrib (contribOf s id w x.g.core a.va.toNat (BitVec.ofNat 32 (b.1 a.l))))
        | none, q :: _ => some (match q.loc.sp with
            | .remote node => .remote node q.loc.a (unitOf (atomicTy m)) q.au (.atomic (atomicOp m) (atomicTy m) (BitVec.ofNat 64 (b.1 a.l)) 0)
            | _ => .red q.loc (atomicOp m) (atomicTy m) (BitVec.ofNat 64 (b.1 a.l)))
        | none, [] => none) (if (x.src 0 h.a).2 || b.2 then 1 else 0))
  | .stm h m =>
    let d := x.storeData 1 h.b m.ty
    some (2, viaB x m (srcW x h 0) (size m.ty), fun s c => stmRes s x.g c,
      emitRule x (fun _ a _ => some (.mcast (a.va.toNat / 2 ^ 47 % 512) (a.va.toNat % 2 ^ 47) (d.1 a.l) { cap := a.x, stated := stated m }))
        (if (x.src 0 h.a).2 || d.2 then 1 else 0))
  | .redsp h m =>
    let c := (bGet x.g.g (m.x.toNat % 8)).cap
    some (3, (lanesIn x.act).map (fun l => { l := l, x := c, va := cAddr c + 4 * ((srcW x h 0 l).toNat : Int), n := 4, b := none }),
      fun s a => redspRes s x.g (cAddr c) (if m.ty = .s32 then .s32 else .f32) a,
      emitRule x (fun s a _ => match windowAt s (cAddr c) with
        | some (id, w) => some (.sparse id w.d.gen (srcW x h 0 a.l) (srcW x h 1 a.l))
        | none => none) (if (x.src 0 h.a).2 || (x.src 1 h.b).2 then 1 else 0))
  | _ => none

/-- ATOM, ATOMS and LDSUM: the access, the lanes' accesses, one lane's event, the type of its value and the STATUS bit of the sources
(R261, R272). -/
def eventForm (x : LX) : Instr → Option (LaneHdr × Nat × List Acc × (State → Acc → Got Nat) × Ty × Word)
  | .atom h m => some (atomic h m false)
  | .atoms h m => some (atomic h m true)
  | .ldsum h m => some (h, 1, viaB x m (srcW x h 0) 4,
      sumLane x.g (if m.ty = .bf16 then 1 else if m.ty = .s32 then 2 else 0) (stated m), .b32, pois x h 1)
  | _ => none
where
  atomic (h : LaneHdr) (m : MMods) (pad : Bool) : LaneHdr × Nat × List Acc × (State → Acc → Got Nat) × Ty × Word :=
    let t := atomicTy m
    let b := x.srcUnit 1 h.b t
    let c := if atomicOp m = .cas then x.srcUnit 2 h.c t else (fun _ => 0, false)
    (h, 3, viaB x m (srcW x h 0) (unitOf t),
      atomLane x.g { need := [0, 1, 10], access := 3, align := unitOf t, sp := some pad, stated := stated m, use := .atomic } (atomicOp m) t b.1 c.1, t,
      if (x.src 0 h.a).2 || b.2 || c.2 then 1 else 0)

/-- The row of a tile that lane l stores, as bytes, and the flags of its conversions (R271). -/
def tileRow (x : LX) (m : BitVec 16) (F : Fmt) (w base l : Nat) : List Byte × Flags :=
  let e (j : Nat) : Nat × Flags := convFF fmt32 F (sttRnd m) (m.getLsbD 6) false false (rl (qGet x.s x.g (base + j)) l).toNat
  ((List.range 128).flatMap fun j => leBytes w (e j).1, (List.range 128).foldl (fun f j => f ||| (e j).2) 0)

end Sys2Proof.Claims

/-- The lane loads and stores LD, LDS, LDX, LDC, LDC.x, ST, STS, STX, STC and STC.x (R174, R175, R205, R207, R209, R212 to R217): a load writes
what the group sees at the places of each lane that passes and stores nothing, and a store emits the lanes' bytes or capabilities in
ascending lane order and writes no register. A scope on a scratchpad capability of a lane is ILLEGAL code 2. -/
def Obligations.LaneLoadStore : Prop :=
  ∀ (i : Instr) (s : State) (x0 x1 x : LX) (viaCap : Bool) (accs : List Acc) (sp : AccSpec) (d : Option (Nat → Cap)) (rule : MemRule),
    actorLane s = some x0 → Issues x0 x1 → i.wf = true → x = refreshed x1 i → memForm x i = some (viaCap, accs, sp, d, rule) →
    (viaCap = true → sp.stated ≠ 0 → (∃ a ∈ accs, cSP a.x = true) → exec i s = .next (finishLane x (x.illegal 2))) ∧
    (¬ (viaCap = true ∧ sp.stated ≠ 0 ∧ ∃ a ∈ accs, cSP a.x = true) →
      MemEnds i s x sp.access sp.unit sp.cap16 accs (memChecks x sp d) rule ∧
      (sp.access = 1 → ∀ s3 g3 md part ok, (rule s3 g3 md part ok).1.ram = s3.ram) ∧ (sp.access = 2 → ∀ s3 g3 md part ok, (rule s3 g3 md part ok).2.v = []))

/-- RED, STM and REDSP (R260, R261, R266, R273, R275): each lane's reduction, replica or pair is emitted in ascending lane order, after the
lane's checks; no register is written. -/
def Sys2Proof.Claims.LaneReduction : Prop :=
  ∀ (i : Instr) (s : State) (x0 x1 x : LX) (access : Nat) (accs : List Acc) (res : State → Acc → Got (List Piece)) (rule : MemRule),
    actorLane s = some x0 → Issues x0 x1 → i.wf = true → x = refreshed x1 i → redForm x i = some (access, accs, res, rule) →
    MemEnds i s x access 0 false accs (fun _ => res) rule

/-- ATOM, ATOMS and LDSUM (R231, R233, R241, R259 to R261, R272): after the commit, the lowest lane of ACTIVE that passes is an event of its own,
and the destination takes its value there; lanes that are left follow one by one. An atomic event on this node's memory gives the old value
and leaves the new one of R260. -/
def Obligations.LaneAtomic : Prop :=
  (∀ (i : Instr) (s : State) (x0 x1 x2 x : LX) (s1 : State) (g1 : Grp) (h : LaneHdr) (access : Nat) (accs : List Acc) (one : State → Acc → Got Nat) (ty : Ty)
    (stick : Word) (t1 : State) (a : Acc) (v : Nat),
    actorLane s = some x0 → Issues x0 x1 → i.wf = true → NoRegion x1.g → commitAll x1.s x1.g.uid = (s1, .done) →
    (∀ m ∈ s1.fab.mcThreads, m.group ≠ x1.g.uid) → grpOf s1 x1.g.uid = some g1 → x2 = { x1 with s := s1, g := g1 } → x = refreshed x2 i →
    eventForm x i = some (h, access, accs, one, ty, stick) → watchTrap x.g x.b.noWatch access x.act accs = none → FirstPass one x.s accs t1 a v →
    LanesDone i s x (dropAns t1 x.g.uid) { toRows x h.dst none false
        ((fun l => if l = a.l then BitVec.ofNat 32 v else 0) :: if unitOf ty = 8 then [fun l => if l = a.l then BitVec.ofNat 32 (v / 2 ^ 32) else 0] else []) stick with
      m := BitVec.ofNat 96 (2 ^ a.l) } (lanesLeft x a.l)) ∧
  ∀ (g : Grp) (sp : AccSpec) (op : AtomOp) (ty : Ty) (b c : Nat → Nat) (s : State) (a : Acc) (s1 : State) (p : Piece) (old : Nat),
    resolveAcc s g sp a = .ok s1 [p] → (∀ n, p.loc.sp ≠ .remote n) → blocked s1 g.uid true (linesOf s1.ram p.loc p.n) = none →
    old = ramNat s1.ram p.loc (unitOf ty) →
    (∀ i j, i < j → j < unitOf ty → resolve s1.ram { p.loc with a := p.loc.a + i } ≠ resolve s1.ram { p.loc with a := p.loc.a + j }) →
    ∃ t, atomLane g sp op ty b c s a = .ok t old ∧
      ((op = .cas ∧ old ≠ c a.l) → t = s1) ∧
      (¬ (op = .cas ∧ old ≠ c a.l) → ramRead t.ram p.loc (unitOf ty) = leBytes (unitOf ty) (atomNew op ty old (b a.l)))

/-- STT (R233, R265, R271): in a whole group with a stride that is a multiple of 4, each lane of ACTIVE that passes stores or contributes its
row of the tile, the 128 columns converted with the instruction's rounding, at its stride from the b register's address, and the flags join
STATUS. -/
def Sys2Proof.Claims.TileStore : Prop :=
  ∀ (h : LaneHdr) (m : BitVec 16) (s : State) (x0 x1 x : LX) (b : BReg) (t : Ty) (w stride scope : Nat) (F : Fmt) (base : BitVec 10),
    actorLane s = some x0 → Issues x0 x1 → WholeBlock x0.b → x = x1.fresh (m.toNat % 8) → b = bGet x.g.g (m.toNat % 8) →
    (if m.toNat / 2 ^ 11 = 15 then (t, w, F) = (.bf16, 2, fmtB16) else if m.toNat / 2 ^ 11 = 14 then (t, w, F) = (.f16, 2, fmt16) else (t, w, F) = (.f32, 4, fmt32)) →
    t = sttTy m → stride = (srcW x h 1 0).toNat → stride % 4 = 0 → scope = m.toNat / 2 ^ 8 % 8 → (scope = 0 ∨ cSP b.cap = false) → h.a = .qreg base →
    MemEnds (.stt h m) s x 2 4 false ((lanesIn x.act).map fun l =>
        { l := l, x := b.cap, va := cAddr b.cap + (l * stride : Nat), n := 128 * w, b := if cSP b.cap then none else some (b, l * stride) })
      (fun _ => sttRes x.g { need := [1], access := 2, align := 4, stated := scope, use := .store } t)
      fun s3 g md part ok =>
        (ok.foldl (fun r e => sttEmit x.g.uid g.core md (e.1.n / 4) e.1.va e.2 ((tileRow x m F w base.toNat e.1.l).1.drop part.done) r) s3,
          { m := lanesMask ok, stick := fpStatus ((ok.map (·.1.l)).foldl (fun f l => f ||| (tileRow x m F w base.toNat l).2) 0) })

namespace Sys2Proof.Claims

/-! Matrix instructions. -/

/-- The checks at issue of a matrix instruction in a whole group's block pass (R303, R304, R308, R410, R429). -/
def IssuesMatrix (x : LX) : Prop :=
  let r := RawLane.ofWord x.w
  0x2C0 ≤ r.op.toNat ∧ r.op.toNat ≤ 0x2C9 ∧ (usesCtx r = true → (matOf x.s x.g).holder = some x.g.uid) ∧ keptHit x.g (writesOf r) = false ∧
  (∀ n ∈ (writesOf r).filter (· < 1000) ++ killsAt x.b.words x.n, n ∉ matVRegs x.s x.g) ∧ x.spoiled r = none ∧
  x.b.splits = 1 ∧ x.b.mask = BitVec.allOnes 96 ∧ x.b.compacting = false

/-- The operation that a matrix instruction forks (R306, R314, R320, R321, R322, R328). -/
def matForm (x : LX) : Instr → Option MatOp
  | .mloop h m =>
    let n := match h.b with | .special n => n.toNat | _ => 0
    let d := (blockS x.b (n + 2)).toNat
    if d / 2 ^ 27 ≠ 0 then none
    else some { steps h m with off := blockS x.b n, inc := blockS x.b (n + 1), count := d % 2 ^ 16, stride := d / 2 ^ 16 % 2 ^ 8,
                               span := BitVec.ofNat 3 (d / 2 ^ 24) }
  | .mstep h m => some { steps h m with off := srcW x h 1 0, count := 1, span := BitVec.ofNat 3 (m.toNat / 2 ^ 4) }
  | .mzero h _ => some { base .zero with tile := tileDst h.dst }
  | .mlda h m => some { base .load with tile := tileDst h.dst, b := bGet x.g.g (m.toNat / 2 ^ 8 % 8), off := srcW x h 1 0, rowStride := srcW x h 2 0,
                                        ty := (Ty.ofCode (m.toNat / 2 ^ 11)).getD .dflt }
  | .mscale h m => some (base (.scale (m.toNat % 4) (vSrc h.a)))
  | .mchk _ m => some (base (.check (m.toNat % 2 ^ 9) (m.getLsbD 9) (m.getLsbD 10)))
  | _ => none
where
  base (k : MatKind) : MatOp :=
    { uid := x.s.uid, kind := k, word := x.w, group := x.g.uid, tile := 0, areg := 0, b := bNone, off := 0, inc := 0, count := 0, stride := 0,
      span := 0, ty := .dflt, reuse := false, rowStride := 0 }
  steps (h : LaneHdr) (m : BitVec 16) : MatOp :=
    { base .steps with tile := tileDst h.dst, areg := vSrc h.a, b := bGet x.g.g (m.toNat / 2 ^ 8 % 8), ty := (Ty.ofCode (m.toNat / 2 ^ 11)).getD .dflt,
                       reuse := m.getLsbD 7 }

/-- No operation of the context of a group is unended: nothing to join (R307). -/
def Joined (s : State) (g : Grp) : Prop := matBuffered g = [] ∧ (matOf s g).run = none ∧ (matOf s g).queue = []

end Sys2Proof.Claims

/-- MLOOP, MSTEP, MZERO, MLDA, MSCALE and MCHK (R306, R314 to R316, R320 to R322, R328): the operation joins the sequencer queue of the group's
context, or its window where the group has one; steps out of range are ILLEGAL code 9. No register is written. -/
def Sys2Proof.Claims.MatrixForked : Prop :=
  ∀ (i : Instr) (s : State) (x : LX) (o : MatOp), actorLane s = some x → IssuesMatrix x → i.wf = true → matForm x i = some o →
    grpOf x.s x.g.uid = some x.g →
    (o.kind = .steps → loopBad x.s x.g o = true → ∃ t, exec i s = .next (finishLane x (.trap x.s noOut t)) ∧ t.kind = 1 ∧ t.detail = 9 ∧ t.undone = x.b.mask &&& (match x.b.todo with | some m => m | none => BitVec.allOnes 96)) ∧
    ((o.kind = .steps → loopBad x.s x.g o = false) → (matOf x.s x.g).queue.length ≤ 4 →
      ∃ t u g5, u = emit { x.s with uid := x.s.uid + 1 } x.g.uid (if x.g.wins = [] then .direct else .window) (.mat o) ∧ grpOf u x.g.uid = some g5 ∧
        exec i s = .next t ∧ LaneLeaves { x with s := u, g := g5 } { m := 0 } t ∧
        (x.g.wins = [] → ∀ y, wgBy x.s x.g.wg = some y → matOf u x.g = { matOf x.s x.g with queue := (matOf x.s x.g).queue ++ [o] }))

/-- MJOIN, MJOIN.drop, MCTX.acq and MCTX.rel (R307, R326, R327): MJOIN retires once every operation of the context has ended; .drop ends them;
MCTX.acq takes a context that no group holds, and waits in the list of one that another holds; MCTX.rel passes a held context to the waiting
group of the lowest index, with its collector empty. -/
def Sys2Proof.Claims.MatrixContext : Prop :=
  ∀ (h : LaneHdr) (m : BitVec 16) (s : State) (x : LX), actorLane s = some x → IssuesMatrix x → grpOf x.s x.g.uid = some x.g →
    (Joined x.s x.g → ∃ t, exec (.mjoin h m) s = .next t ∧ LaneLeaves x { m := 0 } t) ∧
    (matBuffered x.g = [] → ∃ t u, exec (.mjoinDrop h m) s = .next t ∧ LaneLeaves { x with s := u } { m := 0 } t ∧
      { u with wgs := x.s.wgs } = x.s ∧ (∀ y, wgBy x.s x.g.wg = some y →
        matOf u x.g = { matOf x.s x.g with run := none, queue := [], step := 0, stopped := false, pending := none })) ∧
    ∀ s1 g1, commitAll x.s x.g.uid = (s1, .done) → (∀ k ∈ s1.fab.mcThreads, k.group ≠ x.g.uid) → grpOf s1 x.g.uid = some g1 →
      (∃ y, wgBy s1 g1.wg = some y) →
      ((matOf s1 g1).holder = none → ∃ t u, exec (.mctxAcq h m) s = .next t ∧ LaneLeaves { x with s := u, g := g1 } { m := 0 } t ∧
        (matOf u g1).holder = some g1.uid ∧ { u with wgs := s1.wgs } = s1) ∧
      ((matOf s1 g1).holder = some g1.uid → Joined s1 g1 → ∃ t, exec (.mctxAcq h m) s = .next t ∧ LaneLeaves { x with s := s1, g := g1 } { m := 0 } t) ∧
      (∀ v, (matOf s1 g1).holder = some v → v ≠ g1.uid → ∃ t, exec (.mctxAcq h m) s = .next t ∧ { t with wgs := s1.wgs } = s1 ∧
        (matOf t g1).holder = some v ∧ g1.uid ∈ (matOf t g1).waiters) ∧
      ((matOf s1 g1).holder ≠ some g1.uid → ∃ t, exec (.mctxRel h m) s = .next t ∧ LaneLeaves { x with s := s1, g := g1 } { m := 0 } t) ∧
      ((matOf s1 g1).holder = some g1.uid → Joined s1 g1 → ∃ t u, exec (.mctxRel h m) s = .next t ∧ LaneLeaves { x with s := u, g := g1 } { m := 0 } t ∧
        (matOf u g1).holder = lowestGidx s1 (matOf s1 g1).waiters ∧ (matOf u g1).coll = none ∧ { u with wgs := s1.wgs } = s1)

namespace Sys2Proof.Claims

/-- A converted element of a tile, and the words of lane l's converted row with its flags (R323, R324). -/
def tileElem (x : LX) (h : LaneHdr) (m : BitVec 16) (l j : Nat) : Nat × Flags :=
  epiElem (epiTy m.toNat) ((Rnd.ofCode (m.toNat / 2 ^ 8 % 8)).getD .rne) (m.getLsbD 7) (m.getLsbD 6)
    (rl (qGet x.s x.g (tileSrc h.a + j)) l).toNat (srcW x h 2 l).toNat
def tileWord (x : LX) (h : LaneHdr) (m : BitVec 16) (k l : Nat) : Word :=
  let w := tyWidth (epiTy m.toNat)
  BitVec.ofNat 32 ((List.range (32 / w)).foldl (fun n i => n + (tileElem x h m l (32 / w * k + i)).1 % 2 ^ w * 2 ^ (w * i)) 0)
def tileFlags (x : LX) (h : LaneHdr) (m : BitVec 16) (ls : List Nat) : Flags :=
  ls.foldl (fun f l => (List.range 128).foldl (fun f j => f ||| (tileElem x h m l j).2) f) 0

end Sys2Proof.Claims

/-- MEPI and MSTA (R307, R311, R323, R324): once the context's operations have ended, MEPI writes each lane's converted row to consecutive v registers,
the first columns in the low slots, and MSTA stores it through its b register, swizzled by its span; the flags join STATUS. -/
def Obligations.MatrixEpilogue : Prop :=
  ∀ (h : LaneHdr) (m : BitVec 16) (s : State) (x : LX), actorLane s = some x → IssuesMatrix x → grpOf x.s x.g.uid = some x.g → Joined x.s x.g →
    4 ≤ tyWidth (epiTy m.toNat) → tyWidth (epiTy m.toNat) ≤ 32 →
    (∀ d g1 n, (Instr.mepi h m).wf = true → h.dst = .vreg d → n = 4 * tyWidth (epiTy m.toNat) → takeCkpt x.s x.g (upto d.toNat n) [] = some g1 →
      ∃ t, exec (.mepi h m) s = .next t ∧ LaneLeaves { x with s := setGrp x.s g1, g := g1 }
        { m := x.act, v := (List.range n).map fun k => (d.toNat + k, tileWord x h m k), stick := fpStatus (tileFlags x h m (List.range 96)) } t) ∧
    ∀ y b stride, y = x.fresh (m.toNat % 8) → b = bGet y.g.g (m.toNat % 8) → stride = (srcW y h 1 0).toNat → cAddr b.cap % 4 = 0 → stride % 4 = 0 →
      MemEnds (.msta h m) s y 2 4 false ((lanesIn y.act).map fun l =>
          { l := l, x := b.cap, va := cAddr b.cap + (l * stride : Nat), n := 16 * tyWidth (epiTy m.toNat), b := none })
        (fun _ => mstaRes y.g b { need := [1], access := 2, align := 1, use := .store } (BitVec.ofNat 3 (m.toNat / 8)))
        fun s3 _ md part ok =>
          (ok.foldl (fun t e => mstaPut x.g.uid md (BitVec.ofNat 3 (m.toNat / 8)) e.2
            ((wordsBytes ((List.range (4 * tyWidth (epiTy m.toNat))).map fun k => tileWord y h m k e.1.l)).drop part.done) t) s3,
            { m := lanesMask ok, stick := fpStatus (tileFlags y h m (ok.map (·.1.l))) })

namespace Sys2Proof.Claims

/-! Collective engines. -/

/-- State t is s1 but that the list u has become f of itself. -/
def Listed (s1 t : State) (u : Nat) (f : CeList → CeList) : Prop :=
  { t with ces := s1.ces } = s1 ∧ t.ces = s1.ces.map fun o => if o.uid = u then f o else o

/-- A list at its next command, which is k words on. -/
def onward (l : CeList) (k : Nat) (o : CeList) : CeList := { o with pc := l.pc + 8 * k }

/-- The control commands: where the list goes on, and its counters (R362). -/
def ceControl (l : CeList) : Instr → Option (Nat × List DWord)
  | .enop => some (l.pc + 8, l.n)
  | .eadd f => some (l.pc + 8, l.n.set f.x.toNat (nx f + f.l.signExtend 64))
  | .ebr f => some (if (f.m = 0 ∧ nx f = 0) ∨ (f.m = 1 ∧ nx f ≠ 0) ∨ (f.m = 2 ∧ (nx f).toInt < 0) ∨ (f.m = 3 ∧ (nx f).toInt > 0) then goal f else l.pc + 8, l.n)
  | .eloop f => some (if nx f - 1 ≠ 0 then goal f else l.pc + 8, l.n.set f.x.toNat (nx f - 1))
  | _ => none
where
  nx (f : CeFields) : DWord := l.n.getD f.x.toNat 0
  goal (f : CeFields) : Nat := ((l.pc : Int) + 8 * f.l.toInt).toNat % 2 ^ 64

/-- State t is s1 but that the data command c of list l has become d, and holds no answer. -/
def Became (l : CeList) (c d : CeCmd) (s1 t : State) : Prop :=
  Listed (dropAns s1 c.uid) t l.uid fun o => { o with cmds := o.cmds.map fun y => if y.uid = c.uid then d else y }

/-- The words of a data command (R355). -/
def ceWords : Instr → Option Nat
  | .eput _ _ _ | .eget _ _ _ | .ered _ _ _ | .emcast _ _ _ => some 2
  | .enput _ _ | .enget _ _ | .esnap _ _ _ => some 3
  | _ => none

/-- A data command of a list: its fields, the check at its start, and whether landed bytes may not be counted yet (R355 to R359, R373 to
R375). -/
def ceData_ (s : State) (l : CeList) (c : CeCmd) : Instr → Option (CeFields × Option TrapInfo × Bool)
  | .eput f _ _ => some (f, if ceLocal (e f.s) then none else some (sideFault (e f.s)), false)
  | .eget f _ _ => some (f, if ceLocal (e f.d) then none else some (sideFault (e f.d)), false)
  | .ered f b a => some (f,
      if ¬ ceLocal (e f.s) then some (sideFault (e f.s))
      else if f.l.toNat % 4 ≠ 0 ∨ ceSrc l f a % 4 ≠ 0 then some (mis (e f.s) (ceSrc l f a)) else if ceDst l f b % 4 ≠ 0 then some (mis (e f.d) (ceDst l f b)) else none,
      s.fab.flight.any fun x => c.flights.contains x.tag)
  | .emcast f _ _ => some (f,
      if ¬ ceLocal (e f.s) then some (sideFault (e f.s))
      else if cSP (e f.d) = true ∨ ¬ isAperture (cAddr (e f.d)) then some (sideFault (e f.d)) else none, s.fab.mcThreads.any fun m => m.group = c.uid)
  | .enput f w => some (f, net (e f.s) w, false)
  | .enget f w => some (f, net (e f.d) w, false)
  | .esnap f w1 w2 => some (f, if f.m.getLsbD 4 then net (e f.s) (netWords w1 w2) else none, false)
  | _ => none
where
  e (k : BitVec 4) : Cap := l.e.getD k.toNat capNull
  mis (c : Cap) (a : Int) : TrapInfo := { kind := 3, detail := 13, cap := c, addr := (a % 2 ^ 64).toNat, access := 6 }
  net (c : Cap) (w : NetWords) : Option TrapInfo :=
    if ¬ ceLocal c then some (sideFault c) else if (aget epNone s.fab.endpoints w.endpoint.toNat).valid = false then some (sideFault c) else none

/-- A data command after k of its bytes have landed (R358, R359). -/
def landedBy (c : CeCmd) (k : Nat) : CeCmd := { c with done := c.done + k, due := c.due + k, got := c.got.drop k, tag := false }

/-- The next read event of a unit of k bytes of a data command of n bytes that reads from a through x: a granule, or a single-copy atomic
unit of the source; the bytes join those read before (R216, R359). -/
def CmdReads (i : Instr) (s : State) (l : CeList) (c : CeCmd) (x : Cap) (a : Int) (n k : Nat) : Prop :=
  ∀ o s1 d, o = c.done + c.got.length →
    engRead s (c.agt l) (hostOkL s l.launch) x (a + o) (if k = 16 then 16 else min (n - o) (4 - ((a + o) % 4).toNat)) = .ok s1 d →
    ∃ t, exec i s = .next t ∧ Became l c { c with got := c.got ++ d } s1 t

/-- The write event of a unit of k bytes that a data command has read, at b through x: bytes, or the granule with its tag (R176, R359). -/
def CmdWrites (i : Instr) (s : State) (l : CeList) (c : CeCmd) (x : Cap) (b : Int) (k : Nat) : Prop :=
  ∀ s1 ps s2, engReady s (c.agt l) (hostOkL s l.launch) x [1, 12] b k = .ok s1 ps →
    (c.tag = true → ∀ p q, ps = [(p, q)] →
      engPutCap s1 (c.agt l) x p 0 { bits := BitVec.ofNat 128 (leNat (c.got.take k)), tag := true } = .ok s2 () →
      ∃ t, exec i s = .next t ∧ Became l c (landedBy c k) s2 t) ∧
    (c.tag = false → engPut s1 (c.agt l) x 0 ps (c.got.take k) = .ok s2 () → ∃ t, exec i s = .next t ∧ Became l c (landedBy c k) s2 t)

/-- The barrier that a command counts on, none with .nobar (R358). -/
def CountsOn (s : State) (l : CeList) (f : CeFields) (bar : Option Loc) : Prop :=
  (f.nb = true ∧ bar = none) ∨ (f.nb = false ∧ ∃ p, ceBarLoc s l f.k [10, 0, 1, 12] = .ok p ∧ bar = some p)

/-- The remote offset of the unit that is due; a request that leaves, whose answer the command awaits; a piece of k bytes read as one event
(R374, R375). -/
def netOff (r : Int) (c : CeCmd) : DWord := BitVec.ofNat 64 ((r + c.done) % 2 ^ 64).toNat
def CmdAsks (i : Instr) (s : State) (l : CeList) (c : CeCmd) (m : List Out) : Prop :=
  ∃ t, exec i s = .next t ∧ Became l c { c with asking := true } { s with outbox := s.outbox ++ m } t
def CmdSnaps (i : Instr) (s : State) (l : CeList) (c : CeCmd) (x : Cap) (a : Int) (k : Nat) : Prop :=
  ∀ s1 d, engRead s (c.agt l) (hostOkL s l.launch) x a k = .ok s1 d → ∃ t, exec i s = .next t ∧ Became l c { c with got := d } s1 t

end Sys2Proof.Claims

/-- The control, barrier and signal commands (R360 to R363): ENOP, EADD, EBR and ELOOP move the list counter and their counter. Once every
earlier command of the list has ended, EEND ends the list and frees its context, EARRIVE, ESEND and ESIG do their one event and the list
goes on, and EWAIT goes on, ends the list with an error, or parks its context. A word that cannot run stops its list. -/
def Sys2Proof.Claims.CeControlAndSignal : Prop :=
  ∀ (s : State) (l : CeList), actorCe s = some (l, none) →
    (∀ i pc n, ceControl l i = some (pc, n) → pc < 2 ^ 64 → (∀ f, (i = .ebr f ∨ i = .eloop f) → 0 ≤ (l.pc : Int) + 8 * f.l.toInt) →
      ∃ t s1, exec i s = .next t ∧ (s1 = s ∨ s1 = dropAns s l.uid) ∧ Listed s1 t l.uid fun o => { o with pc := pc, n := if i = .enop then o.n else n }) ∧
    (l.cmds ≠ [] → ∀ i, ((i = .eend) ∨ (∃ f, i = .earrive f ∨ i = .ewait f) ∨ (∃ f d, i = .esend f d ∨ i = .esig f d)) → exec i s = .next s) ∧
    (l.cmds = [] →
      (∃ t, exec .eend s = .next t ∧ Listed s t l.uid fun o => { o with st := .ended, ctx := none }) ∧
      (∀ f p, ceBarLoc s l f.k [10, 0, 1, 12] = .ok p → blocked s l.uid true (linesOf s.ram p 16) = none →
        ∃ t, exec (.earrive f) s = .next t ∧ Listed (dropAns (barIssue s l.uid l.die p (.arrive f.l.toNat)) l.uid) t l.uid (onward l 1)) ∧
      (∀ (f : CeFields) data (w : Nat) (d : Cap) (a : Int) s1 ps s2, w = (if f.t = 0 then 4 else 8) → d = l.e.getD f.d.toNat capNull →
        a = cAddr d + f.l.toInt + (if f.ix then (l.n.getD f.x.toNat 0).toInt * (w : Nat) else 0) → checkUse d [1, 12] a w 6 false none (engPad s l.agt) = .ok () →
        a % (w : Int) = 0 → engReady s l.agt (hostOkL s l.launch) d [1, 12] a w = .ok s1 ps → engPut s1 l.agt d 0 ps (leBytes w data.toNat) = .ok s2 () →
        ∃ t, exec (.esend f data) s = .next t ∧ Listed (dropAns s2 l.uid) t l.uid (onward l 2)) ∧
      (∀ (f : CeFields) v (d : Cap) (a : Int) op s1, d = l.e.getD f.d.toNat capNull → a = cAddr d + f.l.toInt + (if f.ix then (l.n.getD f.x.toNat 0).toInt * 8 else 0) →
        op = (if f.t = 0 then .add else .max) → checkUse d [10, 0, 1, 12] a 8 6 false none (engPad s l.agt) = .ok () → a % 8 = 0 →
        engRmw s l.agt (hostOkL s l.launch) d a 8 (.atomic op .z64 v 0) (fun old => atomNew op .z64 old v.toNat) = .ok s1 () →
        ∃ t, exec (.esig f v) s = .next t ∧ Listed (dropAns s1 l.uid) t l.uid (onward l 2)) ∧
      (∀ f p ph, ceBarLoc s l f.k [0, 12] = .ok p → ph = f.l + (if f.ix then (l.n.getD f.x.toNat 0).truncate 32 else 0) →
        (barFree s l.uid p = true → waitRes s l.die p ph = some 0 →
          ∃ t, exec (.ewait f) s = .next t ∧ Listed (dropAns s l.uid) t l.uid (onward l 1)) ∧
        (barFree s l.uid p = true → waitRes s l.die p ph = some 1 → exec (.ewait f) s = .next (endCe s l.uid)) ∧
        (barFree s l.uid p = false ∨ waitRes s l.die p ph = none →
          ∃ t, exec (.ewait f) s = .next t ∧ Listed (proxyOpen s l.die p) t l.uid fun o => { o with waiting := true }))) ∧
    (∀ w a k d, l.owner = some l.group → (∃ g, grpOf s l.group = some g ∧ g.ended = false) → k ∉ [7, 8, 9] →
      ∃ t r, exec (.unassignedCeCommand w a k d) s = .next t ∧ r.kind = k ∧ r.detail = d ∧ r.w16 = l.ticket ∧
        Listed (dropAns s l.uid) t l.uid fun o => { o with word := w, st := .stopped, waiting := false, stop := some r })

/-- The data commands EPUT, EGET, ERED, EMCAST, ENPUT, ENGET and ESNAP (R355 to R359, R363, R373 to R375): at the list counter a command starts
with its words, unless eight are under way, and the list goes on. In a turn of its own, once the checks at its start pass, bytes that have
landed are counted on K at 4 KiB and at the end; a command whose bytes have all landed and been counted ends; else the next event of its
unit reads, writes, is contributed, is forked to the replicas, or leaves for the other side, whose answer the command awaits. -/
def Sys2Proof.Claims.CeDataCommand : Prop :=
  (∀ (i : Instr) (s : State) (l : CeList) (k : Nat), actorCe s = some (l, none) → ceWords i = some k →
    (l.cmds.length ≥ 8 → exec i s = .next s) ∧
    (l.cmds.length < 8 → ∃ t c, exec i s = .next t ∧ (c.w0, c.w1, c.w2, c.pc, c.n) = (l.word, l.word1, l.word2, l.pc, l.n) ∧
      (c.uid, c.done, c.due, c.got, c.flights, c.asking, c.stop) = (s.uid, 0, 0, [], [], false, none) ∧
      Listed { s with uid := s.uid + 1 } t l.uid fun o => { o with pc := l.pc + 8 * k, cmds := o.cmds ++ [c] })) ∧
  ∀ (i : Instr) (s : State) (l0 l : CeList) (c : CeCmd) (f : CeFields) (n : Nat) (hold : Bool) (bar : Option Loc), actorCe s = some (l0, some c) →
    l = c.view l0 → ceData_ s l c i = some (f, none, hold) → CountsOn s l f bar → n = f.l.toNat →
    ((c.due ≥ 4096 ∨ c.done ≥ n) → hold = true → exec i s = .next s) ∧
    ((c.due ≥ 4096 ∨ c.done ≥ n) → hold = false → c.due > 0 →
      (bar = none → ∃ t, exec i s = .next t ∧ Became l0 c { c with due := 0 } s t) ∧
      (∀ p s1, bar = some p → engCount s c.uid l.die p c.due = .ok s1 () → ∃ t, exec i s = .next t ∧ Became l0 c { c with due := 0 } s1 t)) ∧
    (c.due = 0 → c.done ≥ n → hold = false →
      ∃ t, exec i s = .next t ∧ Listed (dropAns s c.uid) t l0.uid fun o => { o with cmds := o.cmds.filter fun y => y.uid != c.uid }) ∧
    (c.due < 4096 → c.done < n →
      (∀ g bo ao, (i = .eput g bo ao ∨ i = .eget g bo ao) → ∀ sc dc a b k, sc = l.e.getD f.s.toNat capNull → dc = l.e.getD f.d.toNat capNull →
        a = ceSrc l f ao → b = ceDst l f bo →
        k = (if (a + c.done) % 16 = 0 ∧ (b + c.done) % 16 = 0 ∧ c.done + 16 ≤ n then 16 else min (n - c.done) (4 - ((b + c.done) % 4).toNat)) →
        ∀ caps, (caps ↔ k = 16 ∧ cHas sc 3 = true ∧ cHas sc 4 = true ∧ cHas dc 3 = true ∧ cHas dc 4 = true) →
        (c.got.length ≥ k → CmdWrites i s l0 c dc (b + c.done) k) ∧
        (c.got.length < k → ¬ caps → CmdReads i s l0 c sc a n k) ∧
        (c.got.length < k → caps → ∀ s1 v, engReadCap s (c.agt l) (hostOkL s l.launch) sc (a + c.done) = .ok s1 v →
          ∃ t, exec i s = .next t ∧ Became l0 c { c with got := leBytes 16 v.bits.toNat, tag := v.tag } s1 t)) ∧
      (∀ g bo ao, i = .ered g bo ao → ∀ sc dc a b v, sc = l.e.getD f.s.toNat capNull → dc = l.e.getD f.d.toNat capNull →
        a = ceSrc l f ao → b = ceDst l f bo + c.done → v = leNat (c.got.take 4) →
        (c.got.length < 4 → CmdReads i s l0 c sc a n 4) ∧
        (c.got.length ≥ 4 → winAtInt s b = none → ∀ s1,
          engRmw s (c.agt l) (hostOkL s l.launch) dc b 4 (.atomic (eredOp f) (eredTy f) (BitVec.ofNat 64 v) 0) (fun old => atomNew (eredOp f) (eredTy f) old v)
            = .ok s1 () → ∃ t, exec i s = .next t ∧ Became l0 c (landedBy c 4) s1 t) ∧
        (c.got.length ≥ 4 → ∀ id w x, winAtInt s b = some (id, w) → checkUse dc [10, 0, 1, 12] b 4 6 false none (engPad s (c.agt l)) = .ok () →
          b % 4 = 0 → check7 s l.pcid dc b.toNat 6 = none → eredOp f = .add → f.t.toNat = w.d.fmt →
          contribCheck s l.pcid (144 + 16 * l.die + l.engine) w b.toNat 6 dc = none →
          x = { contribOf s id w (144 + 16 * l.die + l.engine) b.toNat (BitVec.ofNat 32 v) with tag := s.fab.nextTag } →
          ∃ t, exec i s = .next t ∧ Became l0 c (landedBy { c with flights := x.tag :: c.flights } 4)
            { s with fab := { s.fab with flight := s.fab.flight ++ [x], nextTag := s.fab.nextTag + 1 } } t)) ∧
      (∀ g bo ao, i = .emcast g bo ao → ∀ sc dc a b k, sc = l.e.getD f.s.toNat capNull → dc = l.e.getD f.d.toNat capNull →
        a = ceSrc l f ao → b = ceDst l f bo →
        k = (if (a + c.done) % 16 = 0 ∧ (b + c.done) % 16 = 0 ∧ c.done + 16 ≤ n then 16 else min (n - c.done) (4 - ((b + c.done) % 4).toNat)) →
        (c.got.length < k → CmdReads i s l0 c sc a n k) ∧
        (c.got.length ≥ k → ∀ va, va = (b + c.done).toNat → checkUse dc [1, 12] (b + c.done) k 6 false none (engPad s (c.agt l)) = .ok () →
          unsealed s l.pcid va 6 dc = none → ∃ t, exec i s = .next t ∧
            Became l0 c (landedBy c k) (mcFork s c.uid l.pcid (va / 2 ^ 47 % 2 ^ 9) (va % 2 ^ 47) (c.got.take k) { cap := dc, stated := 0 }) t)) ∧
      (∀ g w, i = .enput g w → ∀ x a r k, x = l.e.getD f.s.toNat capNull → a = netLocal l f x w → r = netRemote l f w → k = ceUnit a r c.done n →
        (c.got.length < k → CmdReads i s l0 c x a n k) ∧ (c.got.length ≥ k → CmdAsks i s l0 c [.uePut c.uid w.endpoint.toNat w.region.toNat (netOff r c) (c.got.take k)])) ∧
      (∀ g w, i = .enget g w → ∀ x a r k s1 ps, x = l.e.getD f.d.toNat capNull → a = netLocal l f x w → r = netRemote l f w → k = ceUnit r a c.done n →
        engReady s (c.agt l) (hostOkL s l.launch) x [1, 12] (a + c.done) k = .ok s1 ps → ∃ t, exec i s = .next t ∧
          Became l0 c { c with asking := true } { s1 with outbox := s1.outbox ++ [.ueGet c.uid w.endpoint.toNat w.region.toNat (netOff r c) k] } t) ∧
      (∀ g w1 w2, i = .esnap g w1 w2 → f.m.getLsbD 4 = true → ∀ x w a r k, x = l.e.getD f.s.toNat capNull → w = netWords w1 w2 → a = netLocal l f x w →
        r = netRemote l f w → k = snapUnit a c.done n →
        (c.got.length < k → CmdSnaps i s l0 c x (a + c.done) k) ∧ (c.got.length ≥ k → CmdAsks i s l0 c [.uePut c.uid w.endpoint.toNat w.region.toNat (netOff r c) (c.got.take k)])) ∧
      (∀ g w1 w2, i = .esnap g w1 w2 → f.m.getLsbD 4 = false → ∀ a b, a = ceSrc l f (w1.truncate 32) → b = ceDst l f ((w1 >>> 32).truncate 32) →
        (c.got = [] → CmdSnaps i s l0 c (l.e.getD f.s.toNat capNull) (a + c.done) (min (n - c.done) (4096 - ((a + c.done) % 4096).toNat))) ∧
        (c.got ≠ [] → CmdWrites i s l0 c (l.e.getD f.d.toNat capNull) (b + c.done) (min c.got.length (ceUnit b b c.done n)))))

/-- The events of the collective engines (R349, R360, R365, R374): the oldest queued list of an engine starts on its lowest free context; a
parked EWAIT goes on once its phase has passed; the answer of the other side lands its unit, or stops the command once what has landed is
counted, and a transport that gives up ends the list with an error. -/
def Obligations.CeEvents : Prop :=
  ∀ (s : State) (l : CeList),
    (∀ die eng c, s.power = .run → (s.ces.find? fun o => o.die = die && o.engine = eng && o.st = .queued) = some l → c < 4 →
      (∀ o ∈ s.ces, ¬ (o.die = die ∧ o.engine = eng ∧ o.ctx = some c ∧ (o.st = .running ∨ o.st = .stopped))) →
      (∀ k < c, ∃ o ∈ s.ces, o.die = die ∧ o.engine = eng ∧ o.ctx = some k ∧ (o.st = .running ∨ o.st = .stopped)) →
      ∃ t, exec (.ceListStart die eng) s = .next t ∧ Listed s t l.uid fun o => { o with ctx := some c, st := .running }) ∧
    (∀ die eng c f p ph, ceAt s die eng c = some l → l.waiting = true → ceOp l.word = 6 → s.power = .run → f = ceFields l.word →
      ceBarLoc s l f.k [0, 12] = .ok p → ph = f.l + (if f.ix then (l.n.getD f.x.toNat 0).truncate 32 else 0) →
      (barFree s l.uid p = false ∨ waitRes s l.die p ph = none → exec (.ewaitRelease die eng c) s = .next s) ∧
      (barFree s l.uid p = true → waitRes s l.die p ph = some 0 → ∃ t, exec (.ewaitRelease die eng c) s = .next t ∧
        Listed (dropAns s l.uid) t l.uid fun o => { onward l 1 o with waiting := false })) ∧
    (∀ c data x a k get, cmdOf s c.uid = some (l, c) → c.asking = true → netWait l c = (x, a, k, get) →
      (get = false → ∃ t, exec (.ueResponse c.uid data true) s = .next t ∧ Became l c (landedBy { c with asking := false } k) s t) ∧
      (get = true → c.tag = false → data.length = k → ∀ s1 ps s2, engReady s (c.agt l) (hostOkL s l.launch) x [1, 12] a k = .ok s1 ps →
        engPut s1 (c.agt l) x 0 ps data = .ok s2 () →
        ∃ t, exec (.ueResponse c.uid data true) s = .next t ∧ Became l c { landedBy { c with asking := false } k with got := [] } s2 t) ∧
      (c.due = 0 → ∃ t, exec (.ueResponse c.uid data false) s = .next t ∧
        t = cmdStop s l c { kind := 3, detail := 17, cap := x, addr := (a % 2 ^ 64).toNat, access := 6 }) ∧
      (∃ t, exec (.ueTransportFailure c.uid) s = .next t ∧ ∀ o ∈ t.ces, o.uid = l.uid → o.st = .error ∧ o.ctx = none))

namespace Sys2Proof.Claims

/-! Queues. -/

/-- The queue processor is at a record of queue q, whose state is x, and the record awaits no earlier launch (R382). -/
def Serves (s : State) (q : Nat) (x : Que) (after : Bool) : Prop :=
  s.actor = .queue q ∧ x = queOf s q ∧ (after = true → openLnchs s q = [])

/-- Only queue q differs from s1, and it is y (R377). -/
def QueIs (s1 t : State) (q : Nat) (y : Que) : Prop :=
  queOf t q = y ∧ (∀ k, k ≠ q → queOf t k = queOf s1 k) ∧ { t with chip := { t.chip with queues := s1.chip.queues } } = s1

/-- A queue y that reads its record at index rd next; a queue in state 2 is in state 1 (R378, R382). -/
def goesOn (y : Que) (rd : Word) : Que := if y.state = 2 then { y with rd := rd }.setState 1 else { y with rd := rd }

/-- A record has done its effect, which leaves s1 and makes the queue y, and the queue reads at rd next (R382). -/
def Served (s1 t : State) (q : Nat) (y : Que) (rd : Word) : Prop := QueIs (dropAns s1 (qpName q)) t q (goesOn y rd)

/-- The queue waits in state 2 (R378). -/
def waiting (x : Que) : Que := if x.state = 3 then x else x.setState 2

/-- QSTAT and QFRD of a queue that fails (R378, R384). -/
def failed (x : Que) (code detail op : Nat) : Que :=
  { x with stat := BitVec.ofNat 32 (3 + 4 * (code % 64) + 2 ^ 8 * (op % 256) + 2 ^ 16 * (detail % 2 ^ 16)), frd := x.rd }

/-- The event of a queue that has failed: its QSTAT and QFRD (R384, R401). -/
def stopEvent (s : State) (q : Nat) : State := raiseEvent s 1 q 0 (leBytes 4 (queOf s q).stat.toNat ++ leBytes 4 (queOf s q).frd.toNat)

/-- The op byte and the `.after` flag of a record (R383). -/
def recordForm : Instr → Option (Nat × Bool)
  | .qnop a => some (0, a) | .qlaunch a .. => some (1, a) | .qtask a .. => some (2, a) | .qwait a .. => some (3, a)
  | .qsignal a .. => some (4, a) | .qgraph a .. => some (5, a) | .qphase a .. => some (6, a) | .qjob a .. => some (7, a)
  | .qcancel a .. => some (8, a) | .qcount a .. => some (9, a) | .qjump a .. => some (10, a) | .qprio a .. => some (11, a)
  | _ => none

/-- A level marker: its op, its object, and the queue with a current object set (R383). -/
def markerForm : Instr → Option (BitVec 2 × BitVec 10 × (Que → Option Nat → Que))
  | .qgraph _ o n => some (o, n, fun y v => { y with graph := v })
  | .qphase _ o n => some (o, n, fun y v => { y with phase := v })
  | .qjob _ o n => some (o, n, fun y v => { y with job := v })
  | _ => none

/-- The comparison of QWAIT between the semaphore v and the operand o (R390). -/
def cmpRule (cmp : BitVec 3) (v o mask : DWord) : Prop :=
  (cmp = 0 ∧ v = o) ∨ (cmp = 1 ∧ v ≠ o) ∨ (cmp = 2 ∧ v.toNat ≥ o.toNat) ∨ (cmp = 3 ∧ v.toNat > o.toNat) ∨ (cmp = 4 ∧ v.toNat ≤ o.toNat) ∨
  (cmp = 5 ∧ v.toNat < o.toNat) ∨ (cmp = 6 ∧ v &&& mask ≠ 0) ∨ (cmp = 7 ∧ (v - o).toNat < 2 ^ 63)

/-- The new value of a semaphore by QSIGNAL (R391). -/
def sigRule (op : BitVec 2) (v o : Nat) : Nat := if op = 0 then o else if op = 1 then (v + o) % 2 ^ 64 else max v o

/-- A level object of which p of a launch holds is cancelled, and so is each open launch (R395). -/
def cancelled (s : State) (p : Lnch → Bool) : State :=
  ((s.launches.filter fun l => !l.complete && p l).map (·.uid)).foldl cancelLaunch s

/-- Only level object n differs from s1, and it is v (R392). -/
def LevelIs (s1 t : State) (n : Nat) (v : Level) : Prop :=
  levelOf t n = v ∧ (∀ k, k ≠ n → levelOf t k = levelOf s1 k) ∧ { t with chip := { t.chip with levels := s1.chip.levels } } = s1

/-- The records of n units of launch l pushed to shelf k, in order (R297, R389). -/
def pushed (s : State) (k : Nat) (l : Lnch) (n : Nat) : State := (List.range n).foldl (fun t i => pushShelf t k (taskRecord l i)) s

/-- The handler capabilities of a launch, read from state s (R412). -/
def HandlerRead (s t : State) (q : Nat) (x : Que) (hs : List Cap) : Prop :=
  ((ctxOf s x.pcid).handler = 0 ∧ t = s ∧ hs = []) ∨
  ((ctxOf s x.pcid).handler ≠ 0 ∧ ∃ b, qpRead s q x.pcid (ctxOf s x.pcid).handler 64 = .ok t b ∧ hs = handlerCaps x.root b)

end Sys2Proof.Claims

/-- The records without an access (R382, R383, R395): one with `.after` waits in state 2 while an earlier launch is open; QNOP, QJUMP and
QPRIO; the markers, which make their object current and clear it at a begin, or make none current at an end; QCANCEL of a level; a record
that cannot be taken fails its queue and raises an event (R384). -/
def Sys2Proof.Claims.QueueRecord : Prop :=
  ∀ (s : State) (q : Nat) (x : Que) (after : Bool),
    (∀ i op, recordForm i = some (op, true) → s.actor = .queue q → x = queOf s q → openLnchs s q ≠ [] →
      ∃ t, exec i s = .next t ∧ QueIs s t q (waiting x)) ∧
    (Serves s q x after →
      (∃ t, exec (.qnop after) s = .next t ∧ Served s t q x (x.rd + 1)) ∧
      (∀ to_, ∃ t, exec (.qjump after to_) s = .next t ∧ Served s t q x to_) ∧
      (∀ p : BitVec 2, ∃ t c, exec (.qprio after p) s = .next t ∧ Served s t q { x with ctl := c } (x.rd + 1) ∧
        ∀ k, c.getLsbD k = if k = 5 then p.getLsbD 0 else if k = 6 then p.getLsbD 1 else x.ctl.getLsbD k) ∧
      (∀ i op obj f, markerForm i = some (op, obj, f) → (∃ n, recordForm i = some (n, after)) →
        ∃ s1 t, LevelIs s s1 obj.toNat (if op = 1 then { out := 0, done := 0, cancelled := false } else levelOf s obj.toNat) ∧ exec i s = .next t ∧
          Served s1 t q (f x (if op = 2 then none else some obj.toNat)) (x.rd + 1)) ∧
      (∀ kind obj p s1 y, (kind = 1 ∨ kind = 2 ∨ kind = 3) →
        p = (fun l : Lnch => decide ((if kind = 1 then l.graph else if kind = 2 then l.phase else l.job) = some (BitVec.toNat obj))) →
        LevelIs (cancelled s p) s1 obj.toNat { levelOf (cancelled s p) obj.toNat with cancelled := true } → y = queOf s1 q →
        ∃ t, exec (.qcancel after kind obj) s = .next t ∧ Served s1 t q y (y.rd + 1)) ∧
      (∀ kind obj s1 s2, kind = 4 → s1 = cancelled s (fun l => l.queue = BitVec.toNat obj) →
        QueIs (if obj.toNat = q then dropAns s1 (qpName q) else s1) s2 obj.toNat (failed (queOf s1 obj.toNat) 11 0 (if obj.toNat = q then 8 else 0)) →
        ∃ t, exec (.qcancel after kind obj) s = .next t ∧
          if obj.toNat = q then t = stopEvent s2 q else Served (stopEvent s2 obj.toNat) t q (queOf s1 q) ((queOf s1 q).rd + 1)) ∧
      (∀ op code detail, after = false → ∃ s1, QueIs (dropAns s (qpName q)) s1 q (failed x code detail op.toNat) ∧
        exec (.unassignedQueueOp op code detail) s = .next (stopEvent s1 q)))

/-- The records with an access (R380, R390, R391, R394): a QWAIT whose comparison holds goes on, else its queue waits in state 2; QSIGNAL
changes its semaphore as one event; QCOUNT writes OUT and DONE. A fault of the access fails the queue with code 8. -/
def Sys2Proof.Claims.QueueAccess : Prop :=
  ∀ (s : State) (q : Nat) (x : Que) (after : Bool), Serves s q x after →
    (∀ cmp sem o m s1 b v, qpRead s q x.pcid (BitVec.toNat sem) 8 = .ok s1 b → v = BitVec.ofNat 64 (leNat b) →
      (cmpRule cmp v o m → ∃ t, exec (.qwait after cmp sem o m) s = .next t ∧ Served s1 t q (queOf s1 q) ((queOf s1 q).rd + 1)) ∧
      (¬ cmpRule cmp v o m → ∃ t, exec (.qwait after cmp sem o m) s = .next t ∧ QueIs (dropAns s1 (qpName q)) t q (waiting (queOf s1 q)))) ∧
    (∀ op sem o s1, op ≠ 3 → qpRmw s (qpName q) x.pcid (BitVec.toNat sem) (if op = 0 then .exch else if op = 1 then .add else .max) o
        (fun v => sigRule op v (BitVec.toNat o)) = .ok s1 () →
      ∃ t, exec (.qsignal after op sem o) s = .next t ∧ Served s1 t q (queOf s1 q) ((queOf s1 q).rd + 1)) ∧
    (∀ kind obj target s1, qpWrite s q x.pcid (BitVec.toNat target)
        (leBytes 8 (levelOf s (BitVec.toNat (w := 10) obj)).out.toNat ++ leBytes 8 (levelOf s obj.toNat).done.toNat) = .ok s1 () →
      ∃ t, exec (.qcount after kind obj target) s = .next t ∧ Served s1 t q (queOf s1 q) ((queOf s1 q).rd + 1)) ∧
    (∀ cmp sem o m s1 f, qpRead s q x.pcid (BitVec.toNat sem) 8 = .fault s1 f →
      ∃ t, exec (.qwait after cmp sem o m) s = .next t ∧ (queOf t q).stat = (failed x 8 (256 * (f.kind % 16) + f.detail % 256) 3).stat ∧ (queOf t q).frd = (queOf s1 q).rd)

/-- QLAUNCH and QTASK (R381, R386 to R389, R393): when every check of the acceptance passes, the launch is entered with the queue's priority,
context and current level objects, its counts rise by its units, and the queue goes on; a QTASK pushes its records while its shelf has room,
and its queue goes on after the last. A check that fails fails the queue with its code. -/
def Obligations.LaunchAccepted : Prop :=
  ∀ (s : State) (q : Nat) (x : Que) (after : Bool) (block sem : DWord) (count : Word), Serves s q x after →
    (∀ (shelf : Option (BitVec 4)) i op, ((shelf = none ∧ i = .qlaunch after block sem count ∧ op = 1) ∨ ∃ k, shelf = some k ∧ i = .qtask after k block sem count ∧ op = 2) →
      ∀ s1 b, s.fab.nodeSet = true → (ctxOf s x.pcid).valid = true → (∀ k, shelf = some k → shelfServes s k.toNat x.pcid = true) →
      qpRead s q x.pcid block.toNat 192 = .ok s1 b →
      (∀ o, blockBad b = some o → ∃ t, exec i s = .next t ∧ (queOf t q).stat = (failed x 2 (0x100 + o) op).stat ∧ (queOf t q).frd = (queOf s1 q).rd) ∧
      (∀ s2 o pcc lcc ps s4 hs, blockBad b = none → readXco s1 q x.pcid b = .ok s2 o →
        kindBad s2 x.pcid o.k { block := block, sem := sem, count := count, shelf := shelf.map (·.toNat) } = none →
        launchCaps x.root o shelf.isSome b count.toNat = .ok (pcc, lcc, ps) → HandlerRead s2 s4 q x hs → lnchBy s4 s4.uid = none →
        ∃ s3 l, l.queue = q ∧ l.pcid = x.pcid ∧ l.prio = x.prio ∧ l.graph = x.graph ∧ l.phase = x.phase ∧ l.job = x.job ∧ l.sem = sem ∧ l.kd = o.k ∧
          l.pcc = pcc ∧ l.lcc = lcc ∧ l.params = ps ∧ l.hPcc = hs.getD 0 capNull ∧ l.hLcc = hs.getD 1 capNull ∧ l.hData = hs.getD 2 capNull ∧
          l.hMap = hs.getD 3 capNull ∧ l.count = count.toNat ∧ l.hidden = count.toNat ∧ l.next = 0 ∧ l.complete = false ∧ l.cancelled = false ∧
          l.uid = s4.uid ∧ l.shelf = (shelf.map (·.toNat)).getD 0 ∧ s3.launches = s4.launches ++ [l] ∧ s3.ram = s4.ram ∧ s3.uid = s4.uid + 1 ∧
          (∀ n, levelOf s3 n = { levelOf s4 n with out := (levelOf s4 n).out + BitVec.ofNat 64 (count.toNat * (l.objs.count n)) }) ∧
          (shelf = none → ∃ t, exec i s = .next t ∧ Served s3 t q (queOf s4 q) ((queOf s4 q).rd + 1)) ∧
          (∀ k, shelf = some k →
            (shelfFull s3 k.toNat = true → ∃ t, exec i s = .next t ∧ QueIs (dropAns s3 (qpName q)) t q (waiting (queOf s4 q))) ∧
            ((∀ j < count.toNat, shelfFull (pushed s3 k.toNat l j) k.toNat = false) →
              ∃ t, exec i s = .next t ∧ QueIs (dropAns (modLnch (pushed s3 k.toNat l count.toNat) l.uid fun y => { y with next := count.toNat }) (qpName q)) t q
                (goesOn (queOf s4 q) ((queOf s4 q).rd + if (queOf s4 q).state = 3 then 0 else 1))))))

/-- The events of a queue and its registers (R377 to R379, R381, R390, R395, R401): another read of the semaphore of a waited QWAIT lets its
queue go on when its comparison holds, and leaves it waiting when not; a write of QWR moves the write index; a write of QCTL that sets EN makes
the root capability and state 1, one that clears EN state 0; LVCANCEL cancels a level; a ring that stays full raises an event. -/
def Sys2Proof.Claims.QueueEvents : Prop :=
  ∀ (s : State) (q : Nat) (x : Que), q < 64 → x = queOf s q →
    (∀ i, (i = .qwaitReread q ∨ i = .qwaitPoll q) → ∀ s1 r af cmp sem o m s2 b, x.en = true → x.state = 2 → x.rd ≠ x.wr → pushing s q = false →
      (ctxOf s x.pcid).valid = true → ringRecord { s with actor := .queue q } q x = .ok s1 r → decodeQueue (BitVec.ofNat 256 r) = .ok (.qwait af cmp sem o m) →
      (af = true → openLnchs s1 q = []) → qpRead s1 q (queOf s1 q).pcid sem.toNat 8 = .ok s2 b →
      (cmpRule cmp (BitVec.ofNat 64 (leNat b)) o m → ∃ t, exec i s = .next t ∧ Served s2 t q (queOf s2 q) ((queOf s2 q).rd + 1)) ∧
      (¬ cmpRule cmp (BitVec.ofNat 64 (leNat b)) o m → ∃ t, exec i s = .next t ∧ QueIs (dropAns s2 (qpName q)) t q (waiting (queOf s2 q)))) ∧
    (∀ v, (x.dev = true → exec (.qwrWrite q v) s = .next s) ∧
      (x.dev = false → (v - x.rd).toNat ≤ 2 ^ x.logn ∨ x.state = 0 ∨ x.state = 3 → ∃ t, exec (.qwrWrite q v) s = .next t ∧ QueIs s t q { x with wr := v }) ∧
      (x.dev = false → (v - x.rd).toNat > 2 ^ x.logn → x.state = 1 ∨ x.state = 2 →
        ∃ t s1, exec (.qwrWrite q v) s = .next t ∧ QueIs s s1 q (failed { x with wr := v } 9 0 0) ∧
          t = stopEvent s1 q)) ∧
    (∀ v y, x.en = false → v.getLsbD 8 = true → y = { x with ctl := v &&& 0xFFFF01FF } →
      (4 ≤ y.logn → y.logn ≤ 20 → y.pcid < s.chip.ctxCount.toNat → (readCtx s y.pcid).valid = true → (y.wr - y.rd).toNat ≤ 2 ^ y.logn →
        ∃ t c, exec (.queueEnable q v) s = .next t ∧ queOf t q = { y with root := c, stat := 1 } ∧ c.tag = true ∧ cPerms c = x.rootp &&& 0x7FFF ∧
          capBase c = 0 ∧ capTop c = 2 ^ 57 ∧ cAddr c = 0 ∧ cOtype c = 0 ∧ (∀ k, k ≠ q → queOf t k = queOf s k) ∧ t.ram = s.ram) ∧
      ((y.logn < 4 ∨ y.logn > 20 ∨ s.chip.ctxCount.toNat ≤ y.pcid ∨ (readCtx s y.pcid).valid = false) →
        ∃ t s1, exec (.queueEnable q v) s = .next t ∧ QueIs s s1 q (failed y 12 0 0) ∧
          t = stopEvent s1 q)) ∧
    (∀ v, x.en = true → v.getLsbD 8 = false → ∃ t, exec (.queueDisable q v) s = .next t ∧
      QueIs s t q { x with ctl := (x.ctl &&& 0xFFFF009F) ||| (v &&& 0x160), stat := 0 }) ∧
    (∀ n s1, n < 1024 → s1 = cancelled s (fun l => l.graph = some n || l.phase = some n || l.job = some n) →
      ∃ t, exec (.lvcancel n) s = .next t ∧ LevelIs s1 t n { levelOf s1 n with cancelled := true }) ∧
    ((x.en = true → x.dev = true → ringFull s q = true → exec (.queueFullTimeout q) s = .next (raiseEvent s 3 q 0 [])) ∧
      (ringFull s q = false → exec (.queueFullTimeout q) s = .next s))

namespace Sys2Proof.Claims

/-! Events of the machine. -/

/-- Split i of group g has become y, in a state that is otherwise s (the other splits, the rest of the group, other groups). -/
def SplitIs (s t : State) (g : Grp) (i : Nat) (y : Split) : Prop :=
  ∃ g', t = setGrp s g' ∧ { g' with g := g.g } = g ∧ { g'.g with splits := g.g.splits } = g.g ∧ g'.g.split i = some y ∧
    ∀ j, j ≠ i → g'.g.split j = g.g.split j

/-- The parts of a state that no event of a group's own changes: all but groups, the ring of events and its count. -/
def SameMemory (s t : State) : Prop := t.ram = s.ram ∧ t.tces = s.tces ∧ t.ces = s.ces ∧ t.wgs = s.wgs ∧ t.launches = s.launches

/-- Context pos of the workgroup w has become c, and nothing else differs from s. -/
def CtxIs (s t : State) (w pos : Nat) (c : MatCtx) : Prop :=
  { t with wgs := s.wgs } = s ∧ t.wgs.length = s.wgs.length ∧ ∀ v ∈ t.wgs, ∃ u ∈ s.wgs, { v with ctxs := u.ctxs } = u ∧ (u.uid ≠ w → v = u) ∧
    (u.uid = w → aget matNone v.ctxs pos = c ∧ ∀ k, k ≠ pos → aget matNone v.ctxs k = aget matNone u.ctxs k)

/-- Whether the walk v goes before w, neither starved: its instruction has fewer walks outstanding on the die, or as many and is older (R210). -/
def Sooner (s : State) (v w : Walk) : Prop :=
  let n (x : Walk) : Nat := (s.walks.filter fun y => y.die = v.die ∧ y.inst = x.inst).length
  n v < n w ∨ (n v = n w ∧ v.inst < w.inst)

/-- The v registers that the next step of a running operation reads (R313, R316). -/
def stepRegs (c : MatCtx) (o : MatOp) : List Nat :=
  if runFromColl c o then [] else (List.range 8).map (fun r => o.areg + c.step * o.stride + r) ++ if scales c.scale (stepTy o.ty) then [c.sreg + c.step] else []

/-- The damage of this node without that of a tile that has been written whole (R410). -/
def untiled (bad : List Damage) (w pos tile : Nat) : List Damage :=
  bad.filter fun d => match d with | .qreg a p n _ _ => !(a = w && p = pos && tile ≤ n && n < tile + 128) | _ => true

/-- A group after a step that reads these registers of it: the read of a dead one sets POISONSEEN (R51). -/
def seenPoison (g : Grp) (regs : List Nat) : Grp :=
  if regs.any (vDead g.g) then { g with g := { g.g with status := g.g.status ||| 1 } } else g

/-- The tensor copy operation of a name has changed by f, in a state that is otherwise s. -/
def TceIs (s t : State) (uid : Nat) (f : TceOp → TceOp) : Prop :=
  { t with tces := s.tces } = s ∧ t.tces = s.tces.map fun y => if y.uid = uid then f y else y

/-- A context that starts an operation (R316). -/
def matStarted (c : MatCtx) (o : MatOp) (d : MatCtx) : Prop :=
  match o.kind with
  | .zero => { d with bank := c.bank } = c ∧ ∀ k, aget zeroRow d.bank k = if o.tile ≤ k ∧ k < o.tile + 128 then zeroRow else aget zeroRow c.bank k
  | .scale st r => d = { c with scale := st, sreg := r }
  | .check rate tr clr => d = { c with rate := rate, trapOn := tr, count := if clr then 0 else c.count, col := if clr then 0 else c.col, colStep := if clr then 0 else c.colStep }
  | .load => d = { c with run := some o, step := 0 }
  | .steps => d = (if o.count = 0 then { c with coll := if o.reuse then c.coll else none } else { c with coll := if o.reuse then c.coll else none, run := some o, step := 0 })

end Sys2Proof.Claims

/-- The events of a slot and of a group that sleeps (R98, R255, R286, R287): a YIELD's delay passes; a spent SOLO count ends the mode; a parked
WAITPH whose wait is over takes its result and goes on at its continuation, and stays parked while it is not; a dormant group whose wait is
over is read back from its area of its save slot, takes the free slot and goes on with its result. -/
def Sys2Proof.Claims.SlotEvents : Prop :=
  ∀ (s : State) (core slot : Nat) (g : Grp), grpAt s core slot = some g →
    (∀ x n, g.g.split x.idx = some x → x.st = .yield n → ∃ t, exec (.yieldDelayExpiry core slot x.idx) s = .next t ∧ SplitIs s t g x.idx { x with st := .ready }) ∧
    (g.solo = some 0 → exec (.soloCountExpiry core slot) s = .next (setGrp s { g with solo := none })) ∧
    (g.solo ≠ some 0 → exec (.soloCountExpiry core slot) s = .next s) ∧
    (∀ x l p r k, g.g.split x.idx = some x → x.st = .waitph l p r k → pendingStop s g = none →
      ((∀ v, ¬ Over s g l p v) → exec (.waitphRelease core slot x.idx) s = .next s) ∧
      (∀ v, Over s g l p v → ¬ Seizes g x [(r, v)] → ∃ t g' y, exec (.waitphRelease core slot x.idx) s = .next t ∧ t = setGrp s g' ∧
        { g' with g := g.g, wins := g.wins, solo := g.solo } = g ∧ g'.solo = g.solo.map (· - 1) ∧ { g'.g with splits := g.g.splits } = g.g ∧
        (∀ j, j ≠ x.idx → g'.g.split j = g.g.split j) ∧ g'.g.split x.idx = some y ∧ (∀ q, sGet y q = puts g x [(r, v)] q) ∧
        { y with s := x.s, act := x.act } = { x with st := .ready, pcc := k.getD (pccAt x 1) } ∧
        g'.wins = g.wins.map fun w => { w with snap := w.snap.setSplit y })) ∧
    (∀ h d c k v, grpOf s h.uid = some h → h.dormant = some d → h.saved = false → h.ended = false → pendingStop s h = none →
      (wakeCores s h).findSome? (fun c => (coreSlot { s with grps := s.grps.filter fun z => z.uid ≠ h.uid } c h.regs h.task).map fun k => (c, k)) = some (c, k) →
      Over s { h with core := c } d.obj d.p v →
      ∃ t h' u, u = (match if h.task then h.ySlot else (wgBy s h.wg).bind (·.slot) with
          | some n => grpBack s (imgBase s n) { h with core := c, slot := k, dormant := none }
          | none => { h with core := c, slot := k, dormant := none }) ∧
        exec (.groupReactivation h.uid) s = .next t ∧ grpOf t h.uid = some h' ∧ { t with grps := s.grps, saveUsed := s.saveUsed } = s ∧
        (∀ z, z ≠ h.uid → grpOf t z = grpOf s z) ∧ { h' with g := u.g } = { u with ySlot := none } ∧ { h'.g with splits := u.g.splits } = u.g ∧
        (∀ x, u.g.splits = [x] → ∃ y, h'.g.splits = [y] ∧ { y with s := x.s, act := x.act } = x ∧ ∀ q, sGet y q = put u x (sGet x) d.res v q))

/-- Windows and stores (R206, R210, R242, R245, R248, R254, R292): a window that a conflict has hit rolls back with the younger ones to the
state at its start; the oldest closed window commits, its writes in their order as one event, once it may read and write all its lines; a
committed store drains; a walk ends, with those of its page that joined it; a proxy forwards and takes its phase. -/
def Sys2Proof.Claims.WindowEvents : Prop :=
  (∀ (s : State) (core slot : Nat) (g : Grp), grpAt s core slot = some g → grpOf s g.uid = some g →
    (∀ k w, hitAt g = some k → g.wins[k]? = some w →
      ∃ t g', exec (.windowCommit core slot) s = .next t ∧ grpOf t g.uid = some g' ∧ g'.wins.map (·.buf) = (g.wins.take k).map (·.buf) ∧
        { g'.g with b := w.snap.b } = w.snap ∧ g'.g.b = (w.snap.b.map fun e => (e.1, { e.2 with stale := true })) ∧
        { g' with g := g.g, wins := g.wins, rbcount := g.rbcount, rbStart := g.rbStart, rbRun := g.rbRun, rbNext := g.rbNext, solo := g.solo } = g ∧
        (¬ (g.rbStart = w.start ∧ 7 ≤ g.rbRun) → t.ram = s.ram ∧ g'.solo = g.solo) ∧ (g.rbStart = w.start → 7 ≤ g.rbRun → g'.solo = some 256)) ∧
    (∀ w rest lines, hitAt g = none → g.wins = w :: rest → w.closed = true → lines = winLines s w.buf →
      (∀ y, (y ∈ w.remote.map (fun r => (r.node, r.sub)) ∨ y ∈ winSubs s w.buf) → y ∈ w.valid) →
      hostHolds s lines = false → heldLine s g.uid true lines = false → moveHeld s g.uid (g.core + 1) lines = false → forkRoom s g.core w.buf = true →
      ∃ t s1 g1, exec (.windowCommit core slot) s = .next t ∧ { g1 with integ := g.integ, rbRun := g.rbRun } = { g with wins := rest } ∧
        s1 = w.buf.foldl (fun u o => perform u g.uid o drainName) (setGrp s g1) ∧
        { t with ram := { t.ram with vers := s1.ram.vers }, outbox := s1.outbox, grps := s1.grps, owners := s1.owners, drains := s1.drains,
                 fab := { t.fab with bumps := s1.fab.bumps }, hostMesi := s1.hostMesi, bad := s1.bad } = s1 ∧
        t.grps.map (fun z => (z.uid, z.g)) = s1.grps.map (fun z => (z.uid, z.g)) ∧
        t.drains = s1.drains ++ lines.map (fun l => { group := g.uid, line := l }) ∧
        (∀ l ∈ lines, l.sp = .host → aget 0 t.hostMesi (l.a / 128) = 2) ∧ (∀ h ∈ w.valid, posting s1 h.1 (4096 * h.2) = false → .release h.1 h.2 ∈ t.outbox) ∧
        ∀ k, aget 0 t.ram.vers k = if aget 0 s1.ram.vers k = aget 0 s.ram.vers k then aget 0 s.ram.vers k else aget 0 s.ram.vers k + 1) ∧
    ((∀ w ∈ g.wins, w.hit = false) → (∀ w ∈ g.wins, w.closed = false) → exec (.windowCommit core slot) s = .next s)) ∧
  (∀ (s : State) (pre rest : List Drain) (d : Drain), s.drains = pre ++ d :: rest → drainWaits s d = false →
    (∀ e ∈ pre, e.group ≠ d.group ∧ drainWaits s e = true) →
    (∀ g ∈ s.grps, g.uid ≠ d.group → ∀ w ∈ g.wins, w.hit = true → d.line ∉ w.reads) →
    ∃ t, exec .storeDrain s = .next t ∧ { t with drains := s.drains, hostMesi := s.hostMesi } = s ∧ t.drains = pre ++ rest ∧
      ∀ k, aget 0 t.hostMesi k = if d.line.sp = .host ∧ k = d.line.a / 128 then 3 else aget 0 s.hostMesi k) ∧
  (∀ s : State, (∀ d ∈ s.drains, drainWaits s d = true) → exec .storeDrain s = .next s) ∧
  (∀ (s : State) (die : Nat) (pre rest : List Walk) (w : Walk), s.walks = pre ++ w :: rest → w.die = die →
    ((∀ v ∈ pre, v.die = die → v.starved = false) ∧ w.starved = true) ∨ ((∀ v ∈ s.walks, v.die = die → v.starved = false) ∧
      (∀ v ∈ pre, v.die = die → Sooner s w v) ∧ ∀ v ∈ rest, v.die = die → ¬ Sooner s v w) →
    ∃ t, exec (.walkComplete die) s = .next t ∧ t.walks.Sublist (s.walks.erase w) ∧
      (∀ v ∈ s.walks.erase w, v ∉ t.walks → v.pcid = w.pcid ∧ ∃ e ∈ t.tlb, e.pcid = w.pcid ∧ e.pod = false ∧ e.base ≤ 4096 * v.va ∧ 4096 * v.va < e.base + e.size) ∧
      { t with walks := s.walks, tlb := s.tlb, nonce := s.nonce } = s) ∧
  (∀ (s : State) (die i : Nat) (w : Walk), (s.walks.filter fun v => v.die = die)[i]? = some w →
    exec (.walkStarvationTimeout die i) s = .next { s with walks := s.walks.map fun v => if v = w then { v with starved := true } else v }) ∧
  ∀ (s : State) (i : Nat), ∃ t u, exec (.dieProxyForward i) s = .next t ∧ exec (.proxyPhaseUpdate i) s = .next u ∧
    { t with proxies := s.proxies } = s ∧ { u with proxies := s.proxies } = s ∧ t.proxies.length = s.proxies.length ∧ u.proxies.length = s.proxies.length ∧
    ∀ (j : Nat) (p : Proxy), s.proxies[j]? = some p → t.proxies[j]? = some (if j = i then { p with flight := p.gathered, gathered := [] } else p) ∧
      u.proxies[j]? = some (if j = i then { p with phase := (barAt s.ram { sp := .pad p.wg, a := p.off }).phase } else p)

/-- The engines (R306, R313, R316, R318, R321, R331, R340, R342): the oldest queued matrix operation of an idle context starts, and its step
gives the rows of its tile; the oldest queued tensor copy starts while fewer than four are in progress; an element lands, and at 4 KiB and at
the end the bytes are counted; an element that fails stops its operation. -/
def Obligations.EngineEvents : Prop :=
  (∀ (s : State) (core ctx : Nat) (w : Wg) (pos : Nat) (c : MatCtx), ctxAt s core ctx = some (w, pos) → s.power = .run → wgBy s w.uid = some w →
    c = aget matNone w.ctxs pos → (s.wgs.map (·.uid)).Nodup →
    (∀ o rest, c.run = none → c.queue = o :: rest → ∃ t d, exec (.matrixOperationStart core ctx) s = .next t ∧ CtxIs s t w.uid pos d ∧ matStarted { c with queue := rest } o d) ∧
    (c.run ≠ none ∨ c.queue = [] → ∃ t, exec (.matrixOperationStart core ctx) s = .next t ∧ CtxIs s t w.uid pos c) ∧
    (∀ o g, c.run = some o → c.stopped = false → o.kind = .steps → grpOf s o.group = some g → o.b.stale = false → c.step < o.count →
      (∀ e, matSpoil s g pos w.uid o.tile (stepRegs c o) = some e → ∃ t d r, exec (.matrixStep core ctx) s = .next t ∧ CtxIs (dropAns s o.uid) t w.uid pos d ∧
        { d with pending := c.pending, stopped := false } = c ∧ d.stopped = true ∧ d.pending = some r ∧ r.kind = 9 ∧ r.detail = e.detail ∧ r.w16 = BitVec.ofNat 32 c.step) ∧
      (∀ s1 p img regs wrong, matSpoil s g pos w.uid o.tile (stepRegs c o) = none →
        matBlock { g with uid := o.uid, integ := none } o (if scales c.scale (stepTy o.ty) then blocksOf (stepTy o.ty) else 0) c.step s = .ok s1 (p, img) →
        (runFromColl c o = false ∧ regs = (List.range 8).map (fun r => vGet g.g (o.areg + c.step * o.stride + r))) ∨
          (runFromColl c o = true ∧ ∃ k z, c.coll = some k ∧ k.slices.getD c.step ([], none) = (regs, z)) →
        wrong = (c.damaged && decide (c.rate ≠ 0 ∧ c.stepCtr.toNat % c.rate = 0)) →
        ∃ t d sreg, exec (.matrixStep core ctx) s = .next t ∧
          CtxIs { dropAns s1 o.uid with nonce := t.nonce, arm := t.arm, grps := t.grps, bad := untiled s1.bad w.uid pos o.tile } t w.uid pos d ∧
          t.grps = s1.grps.map (fun h => if h.uid = g.uid then { h with g := (seenPoison { h with g := g.g } (stepRegs c o)).g } else h) ∧
          (scales c.scale (stepTy o.ty) = true → runFromColl c o = false → sreg = vGet g.g (c.sreg + c.step)) ∧
          (∀ k z, scales c.scale (stepTy o.ty) = true → runFromColl c o = true → c.coll = some k → k.slices.getD c.step ([], none) = (regs, some z) → sreg = z) ∧
          (∀ j, aget zeroRow d.bank j = aget zeroRow c.bank j ∨ o.tile ≤ j ∧ j < o.tile + 128) ∧
          (∀ j < 128, wrong = false ∨ j ≠ c.checkCtr.toNat % 128 → aget zeroRow d.bank (o.tile + j) =
            (stepTile (stepTy o.ty) c.scale o.span p img regs sreg fun j => aget zeroRow c.bank (o.tile + j)).getD j zeroRow) ∧
          d.stepCtr = c.stepCtr + 1 ∧ (d.stopped = true ↔ wrong = true ∧ c.trapOn = true) ∧ (wrong = false → d.count = c.count ∧ t.arm = s1.arm) ∧
          (wrong = true → d.count = (if c.count = BitVec.allOnes 16 then c.count else c.count + 1) ∧ d.colStep = BitVec.ofNat 16 c.step ∧
            aget 0 t.arm.life 0 = satInc (aget 0 s1.arm.life 0)) ∧
          (o.reuse = false → d.coll = c.coll) ∧ d.queue = c.queue ∧ d.holder = c.holder ∧
          (d.stopped = false → if c.step + 1 < o.count then d.run = some o ∧ d.step = c.step + 1 else d.run = none ∧ d.step = 0))) ∧
    (∀ o g s1 vals n, c.run = some o → c.stopped = false → o.kind = .load → grpOf s o.group = some g → o.b.stale = false →
      n = (if o.ty = .bf16 ∨ o.ty = .f16 then 2 else 4) → ((cAddr o.b.cap : Int) + uI o.off) % 4 = 0 → o.rowStride.toNat % 4 = 0 →
      matTileRows { g with uid := o.uid, integ := none } o n 96 0 s = .ok s1 vals →
      ∃ t d, exec (.matrixStep core ctx) s = .next t ∧ CtxIs { dropAns s1 o.uid with bad := untiled s1.bad w.uid pos o.tile } t w.uid pos d ∧
        { d with bank := c.bank } = { c with run := none, step := 0 } ∧
        ∀ j, aget zeroRow d.bank j = if o.tile ≤ j ∧ j < o.tile + 128 then rowFn (fun l => BitVec.ofNat 32 (widen o.ty ((vals.getD l []).getD (j - o.tile) 0)))
          else aget zeroRow c.bank j)) ∧
  (∀ (s : State) (core : Nat) (o : TceOp), (s.tces.find? fun y => y.core = core && y.st = .queued) = some o → s.power = .run →
    ((s.tces.filter fun y => y.core = core && y.st = .running).length < 4 → ∃ t, exec (.tceOperationStart core) s = .next t ∧ { t with tces := s.tces } = s ∧
      t.tces = s.tces.map fun y => if y.uid = o.uid then { y with st := .running } else y) ∧
    (4 ≤ (s.tces.filter fun y => y.core = core && y.st = .running).length → exec (.tceOperationStart core) s = .next s)) ∧
  (∀ (s : State) (core : Nat) (o : TceOp), (s.tces.find? fun y => y.uid = o.uid && y.core = core && y.st = .running) = some o → s.power = .run →
    (o.uncounted < 4096 → o.next < o.shape.count →
      (∀ s1 got tag put, tceElem s o = .ok s1 (.more got tag put) → ∃ t, exec (.tceElement core o.uid) s = .next t ∧ TceIs (dropAns s1 o.uid) t o.uid fun y => { y with got := got, tag := tag, put := put }) ∧
      (∀ s1 n, tceElem s o = .ok s1 (.landed n) → ∃ t, exec (.tceElement core o.uid) s = .next t ∧
        TceIs (dropAns s1 o.uid) t o.uid fun y => { y with next := o.next + 1, got := [], tag := false, put := 0, uncounted := o.uncounted + n }) ∧
      (∀ s1, tceElem s o = .wait s1 → exec (.tceElement core o.uid) s = .next s1) ∧
      (∀ ga so ls, o.kind = .copy ∨ o.kind = .mcast → o.shape.inLimits (Shape.index o.shape.ext o.next) = true →
        ga = (cAddr o.gcap : Int) + o.srcOff + o.shape.goff (Shape.index o.shape.ext o.next) → so = o.shape.soff (Shape.index o.shape.ext o.next) →
        ls = scratchPlaces s o so → tagMoves o = false →
        (∀ s1 u s2 b, o.got = [] → elemSize o.shape.gty ≤ 16 → ga % elemSize o.shape.gty = 0 →
          engPlaces s o.agt (tceHost s o) o.gcap [0, 12] ga (elemSize o.shape.gty) 1 = .ok s1 u →
          engRead s1 o.agt (tceHost s o) o.gcap ga (elemSize o.shape.gty) = .ok s2 b → tceElem s o = .ok s2 (.more b false 0)) ∧
        (∀ l, elemSize o.shape.gty ≤ o.got.length → o.tag = false → ls[o.put / elemSize o.shape.sty]? = some l →
          blocked s o.uid true (linesOf s.ram l (elemSize o.shape.sty)) = none →
          ∃ e, tceElem s o = .ok (putMem s o.uid l o.shape.span (leBytes (elemSize o.shape.sty) (cvtElem o.shape.sat o.shape.gty o.shape.sty (leNat o.got)))) e ∧
            match e with
            | .landed n => n = elemSize o.shape.sty ∧ ls.length ≤ o.put / elemSize o.shape.sty + 1
            | .more got tag put => got = o.got ∧ tag = false ∧ put = o.put + elemSize o.shape.sty ∧ o.put / elemSize o.shape.sty + 1 < ls.length)) ∧
      (∀ s1 f g, tceElem s o = .fault s1 f → o.uncounted = 0 → f.kind ∉ [7, 8, 9] → grpOf (dropAns s1 o.uid) o.group = some g → g.ended = false →
        ∃ t r, exec (.tceElement core o.uid) s = .next t ∧ r.kind = f.kind ∧ r.detail = f.detail ∧ r.missing = f.missing ∧ r.cap = f.cap ∧ r.addr = f.addr ∧
          r.w16 = o.ticket ∧ r.w17 = BitVec.ofNat 32 o.next ∧
          TceIs (dropAns s1 o.uid) t o.uid fun y => { y with got := [], tag := false, put := 0, st := .stopped, stop := some r }) ∧
      (∀ s1 f, tceElem s o = .fault s1 f → o.uncounted = 0 → f.kind ∈ [7, 8, 9] → (s1.tces.find? fun y => y.uid = o.uid) = some o →
        ∃ t u v r, exec (.tceElement core o.uid) s = .next t ∧
          TceIs (dropAns s1 o.uid) u o.uid (fun y => { y with got := [], tag := false, put := 0, st := .stopped, stop := some r }) ∧
          v = (tceBars u o).foldl (fun t l => barEvent t o.uid l .error) u ∧ TceIs v t o.uid fun y => { y with st := .error, stop := none }) ∧
      (∀ s1 f, tceElem s o = .fault s1 f → o.uncounted ≠ 0 → exec (.tceElement core o.uid) s = .next (tceCount (dropAns s1 o.uid) o))) ∧
    (o.uncounted ≥ 4096 ∨ o.next ≥ o.shape.count → exec (.tceElement core o.uid) s = .next (tceCount s o)) ∧
    (∀ l u, (tceBars s o)[o.cnt]? = some l → blocked s o.uid true (linesOf s.ram l 16) = none →
      u = (if o.uncounted = 0 then s else barIssue s o.uid (o.core / 72) l (.count o.uncounted)) →
      TceIs u (tceCount s o) o.uid fun y => if o.cnt + 1 < (tceBars s o).length then { y with cnt := o.cnt + 1 } else
        { y with uncounted := 0, cnt := 0, st := if o.next ≥ o.shape.count then .ended else .running }) ∧
    (tceBars s o = [] → TceIs s (tceCount s o) o.uid fun y => { y with uncounted := 0, cnt := 0, st := if o.next ≥ o.shape.count then .ended else .running }))

/-- The dispatcher (R300, R388, R397 to R399, R421 to R423, R427, R458, R459): the first head unit that fits is placed, each group of a fresh
gang with one full split at the launch's code and with its capabilities and arguments; a task record starts on a free slot in task mode; a
waiting unit requests the gangs it needs; a save, its end, a restore's end; a cluster moves between domains and is cleared. -/
def Obligations.DispatcherEvents : Prop :=
  (∀ (s : State) (q : Nat) (l : Lnch) (starts : List Nat), s.power = .run → s.arm.req ≠ 3 → nextUnit s = some (q, .fresh l.uid, starts) → lnchBy s l.uid = some l →
    starts ≠ [] → ∃ t, exec .dispatchPlace s = .next t ∧ t.chip = { s.chip with lastQueue := q } ∧
      lnchBy t l.uid = some { l with next := l.next + starts.length } ∧ t.gangs.length = s.gangs.length + 1 ∧ t.wgs.length = s.wgs.length + starts.length ∧
      (∀ g ∈ s.grps, g ∈ t.grps) ∧
      (∀ g ∈ t.grps, g ∈ s.grps ∨ (g.launch = l.uid ∧ g.task = false ∧ g.wins = [] ∧ g.saved = false ∧ g.ended = false ∧ (g.region.isSome ↔ l.kd.idem = true) ∧
        ∃ x w ix, g.g.splits = [x] ∧ x.act = BitVec.allOnes 96 ∧ x.pcc = l.pcc ∧ x.lcc = l.lcc ∧ x.st = .ready ∧ w ∈ t.wgs ∧ w.uid = g.wg ∧
          aget capNull x.c 31 = stackCap l w.wgid g.gidx ∧ (∀ i < 8, aget capNull x.c i = padParamAt (l.params.getD i capNull) ix) ∧
          ∀ i < 8, l.kd.argMap.getD i 0 ≠ 0 → (∀ j < 8, i < j → l.kd.argMap.getD j 0 ≠ l.kd.argMap.getD i 0) →
            aget 0 x.s (l.kd.argMap.getD i 0) = l.args.getD i 0))) ∧
  (∀ (s : State) (q lu u : Nat) (y : Gang) (starts : List Nat), s.power = .run → s.arm.req ≠ 3 → nextUnit s = some (q, .saved lu u, starts) → gangBy s u = some y →
    y.wgs.Nodup → ∃ t n, exec .dispatchPlace s = .next t ∧ gangBy t u = some { y with st := .placed, stamp := n } ∧
      ∀ (i k : Nat) (w : Wg), (gangWgs s u)[i]? = some w → starts[i]? = some k → ∃ v, wgBy t w.uid = some v ∧ v.core0 = k ∧ v.mapSave = []) ∧
  (∀ s : State, nextUnit s = none ∨ s.arm.req = 3 → exec .dispatchPlace s = .next s) ∧
  (∀ (s : State) (core slot k : Nat) (r : TaskRec), s.power = .run → s.arm.req ≠ 3 → core < 144 → slot < 16 →
    (∀ g ∈ holders s core true, g.slot ≠ slot) → dormantDue s core = false → unitWaits s core = false →
    ((holders s core true).filter (·.task)).length < s.chip.taskSlots.toNat → popShelf s core slot = some (k, r) →
    ∃ t g x, exec (.taskPop core slot) s = .next t ∧ (∀ j, j ≠ k → shelfOf t j = shelfOf s j) ∧
      ((shelfOf s k).recs.length ≤ 256 → shelfOf t k = { shelfOf s k with recs := (shelfOf s k).recs.drop 1 }) ∧
      (256 < (shelfOf s k).recs.length → ∃ q, shelfOf t k = { shelfOf s k with recs := ((shelfOf s k).recs.drop 1).modify 255 fun z => { z with q := q } } ∧
        q = (List.range 4).map fun j => ramReadCap s.ram (hbmLoc (spillAt (shelfOf s k) ((shelfOf s k).tail - ((shelfOf s k).recs.length - 256)) + 16 * j))) ∧
      t.grps = s.grps ++ [g] ∧ g.uid = s.uid ∧ t.uid = s.uid + 1 ∧ g.core = core ∧ g.slot = slot ∧ g.task = true ∧ g.shelf = k ∧ g.launch = r.launch ∧ g.gang = taskGang s r.launch ∧ t.ram = s.ram ∧
      g.g.splits = [x] ∧ x.act = BitVec.allOnes 96 ∧ x.pcc = withOtype (r.q.getD 0 capNull) 0 ∧ (∀ j, j ≠ 0 → j ≠ 1 → cGet x j = capNull) ∧
      cGet x 0 = r.q.getD 1 capNull ∧ cGet x 1 = r.q.getD 2 capNull ∧ sGet x 1 = recArg r ∧ sGet x 2 = recJoin r) ∧
  (∀ (s : State) (k : Nat), k < 16 → (shelfFull s k = true → exec (.shelfFullTimeout k) s = .next (raiseEvent s 2 k 0 [])) ∧
    (shelfFull s k = false → exec (.shelfFullTimeout k) s = .next s)) ∧
  (∀ (s : State), (∀ q u, (q, u) ∈ heads s → (planUnit s u (useOf s)).isSome = true ∨ victims s u = none) → exec .pgraceExpiry s = .next s) ∧
  (∀ (s : State) (q : Nat) (u : Unit_) (pre rest : List (Nat × Unit_)) (gs : List Nat), heads s = pre ++ (q, u) :: rest →
    (∀ e ∈ pre, (planUnit s e.2 (useOf s)).isSome = true ∨ victims s e.2 = none) → planUnit s u (useOf s) = none → victims s u = some gs →
    ∃ t, exec .pgraceExpiry s = .next t ∧ { t with gangs := s.gangs } = s ∧
      t.gangs = s.gangs.map fun y => if y.uid ∈ gs ∧ y.st = .placed then { y with request := true } else y) ∧
  (∀ (s : State) (u : Nat) (y : Gang), gangBy s u = some y →
    (y.request = false → exec (.pslackExpiry u) s = .next s) ∧
    (y.request = true → y.st = .placed → (∀ g ∈ s.grps, g.gang = u → g.saved = false) → ∀ s1, takeSlots s y.wgs = some s1 →
      ∃ t, exec (.pslackExpiry u) s = .next t ∧ gangBy t u = some { y with st := .saving, request := false } ∧
        ∀ g ∈ t.grps, g.gang = u → g.task = false → g.ended = false → (s.grps.map (·.uid)).Nodup → g.saved = true ∧ g.wins = []) ∧
    (y.st = .saving → exec (.gangSaveComplete u) s = .next (modGang (y.wgs.foldl writeImage s) u fun z => { z with st := .saved })) ∧
    (∀ s1, y.st = .placed → s1 = y.wgs.foldl readImage s → s1.rev.sweepDone = true → ∃ t, exec (.gangRestoreComplete u) s = .next t ∧ { t with grps := s1.grps } = s1 ∧
      t.grps = s1.grps.map fun g => if g.gang = u ∧ g.task = false ∧ g.saved = true then { g with saved := false } else g) ∧
    (∀ s1, y.st = .placed → s1 = y.wgs.foldl readImage s → s1.rev.sweepDone = false → ∃ t, exec (.gangRestoreComplete u) s = .next t ∧ { t with grps := s1.grps } = s1 ∧
      t.grps = s1.grps.map fun g => if g.gang = u ∧ g.task = false ∧ g.saved = true then { sweepGrp s1 (fun pc c => barrier s1 pc c) g with saved := false } else g)) ∧
  (∀ (s : State) (base : Nat) (g : Grp) (x : Split), recAt base g = base + 0x10000 + 0x4000 * g.gidx ∧
    (∀ r, 1 ≤ r → r < 64 → ∀ a, rdBytes (imgSplit s a x).ram.hbm (a + 4 * r) 4 = leBytes 4 (sGet x (BitVec.ofNat 6 r)).toNat) ∧
    ∀ z n, z ∈ s.grps → z.saved = true → aget zeroRow (grpBack s base z).g.v n =
      if n < z.regs ∧ vDead z.g n = false then rowFn (fun l => BitVec.ofNat 32 (leNat (rdBytes s.ram.hbm (regsAt base z + 384 * n + 4 * l) 4))) else zeroRow) ∧
  (∀ (s : State) (cl : Nat) (d : BitVec 6) (e : Nat × Unit_) (l : Lnch), s.power = .run → cl < 18 → clusterBusy s cl = false → aget false s.clearing cl = false →
    aget 0 s.domains cl ≠ d → maskHas s d cl = true → e ∈ heads s → lnchBy s e.2.launch = some l → domOf s l.pcid = d →
    ∃ t, exec (.clusterDomainMove cl d) s = .next t ∧ (∀ k, aget 0 t.domains k = if k = cl then d else aget 0 s.domains k) ∧
      (∀ k, aget false t.clearing k = (decide (k = cl) || aget false s.clearing k)) ∧
      { t with domains := s.domains, clearing := s.clearing, codeCache := s.codeCache, pins := s.pins, dirty := s.dirty } = s ∧
      ∀ k, aget 0 t.codeCache k = if codeKey (8 * cl) 0 0 ≤ k ∧ k < codeKey (8 * cl + 8) 0 0 then 0 else aget 0 s.codeCache k) ∧
  (∀ (s : State) (cl : Nat) (d : BitVec 6), clusterBusy s cl = true ∨ maskHas s d cl = false → exec (.clusterDomainMove cl d) s = .next s) ∧
  ∀ (s : State) (cl : Nat), ∃ t, exec (.clearSequenceComplete cl) s = .next t ∧ { t with clearing := s.clearing } = s ∧
    ∀ k, aget false t.clearing k = (decide (k ≠ cl) && aget false s.clearing k)

namespace Sys2Proof.Claims

/-! Registers of BAR0, invalidation, epochs, monitors. -/

/-- A word written to BAR0 at an offset that is a multiple of 4, queue and level and shelf blocks apart: the state after it (R376, R400, R402). -/
def bar0Rule (s : State) (off : Nat) (v : Word) : State :=
  let c := s.chip
  let low (x : DWord) : DWord := (x &&& 0xFFFFFFFF00000000) ||| v.zeroExtend 64
  let high (x : DWord) : DWord := (x &&& 0xFFFFFFFF) ||| (v.zeroExtend 64 <<< 32)
  if off = 0x10 then { s with chip := { c with ctxBase := low c.ctxBase &&& 0xFFFFFFFFFFFFF000 } }
  else if off = 0x14 then { s with chip := { c with ctxBase := high c.ctxBase } }
  else if off = 0x18 then { s with chip := { c with ctxCount := BitVec.ofNat 32 (min v.toNat 65536) } }
  else if off = 0x20 then { s with chip := { c with pgrace := v } }
  else if off = 0x24 then { s with chip := { c with taskSlots := v } }
  else if off = 0x40 then { s with chip := { c with evBase := low c.evBase } }
  else if off = 0x44 then { s with chip := { c with evBase := high c.evBase } }
  else if off = 0x48 then { s with chip := { c with evLogn := v } }
  else if off = 0x50 then { s with chip := { c with evRd := v } }
  else if off = 0x80 then { s with chip := { c with invVa := low c.invVa } }
  else if off = 0x84 then { s with chip := { c with invVa := high c.invVa } }
  else if off = 0x88 then (if c.invCtl.getLsbD 31 then s else { s with chip := { c with invCtl := v &&& 0x801FFFFF, invAt := c.invVa } })
  else s

/-- The bytes of an invalidation's range (R402). -/
def invSize (code : Nat) : Nat :=
  if code = 0 then 2 ^ 12 else if code = 1 then 2 ^ 16 else if code = 2 then 2 ^ 18 else if code = 3 then 2 ^ 21 else if code = 4 then 2 ^ 25
  else if code = 5 then 2 ^ 29 else 2 ^ 34

/-- The invalidation in INVCTL, with the address a, covers n bytes at va of a context's own tables or of its pod table (R402). -/
def Covered (ctl : Word) (a : DWord) (pcid : Nat) (pod : Bool) (va n : Nat) : Prop :=
  pcid = ctl.toNat % 2 ^ 16 ∧
  (ctl.getLsbD 19 = true ∨ ctl.toNat / 2 ^ 16 % 8 = 7 ∨
    (pod = ctl.getLsbD 20 ∧ va < a.toNat / invSize (ctl.toNat / 2 ^ 16 % 8) * invSize (ctl.toNat / 2 ^ 16 % 8) + invSize (ctl.toNat / 2 ^ 16 % 8) ∧
      a.toNat / invSize (ctl.toNat / 2 ^ 16 % 8) * invSize (ctl.toNat / 2 ^ 16 % 8) < va + n))

/-- A unit after a sample (R433). -/
def sampled (m : Monitor) (v : Word) : Word × Word × Word := (satInc m.samples, (if v < m.least then v else m.least), (if m.most < v then v else m.most))

end Sys2Proof.Claims

/-- BAR0 (R5, R376, R402): a word written at an aligned offset gives its register the value, and is discarded elsewhere; a narrower write is one
of the whole word with the other bytes kept; a wider one is one write after the other. GO starts the invalidation of the address in INVVA, and
a second GO is discarded; at its end no remembered entry that it covers is left, a window that used one is hit, each b register through one is
stale, and GO reads 0 (R206); an ALL invalidation brings the descriptor of its context in the table into force (R385). -/
def Sys2Proof.Claims.RegisterBlock : Prop :=
  (∀ (s : State) (off : Nat) (v : DWord), off % 4 = 0 → off + 4 ≤ 2 ^ 24 →
    ((off < 0x1000 ∨ (0x1200 ≤ off ∧ off < 0x10000) ∨ (0x11000 ≤ off ∧ off < 0x100000) ∨ 0x108000 ≤ off) → off ≠ 0x10 →
      exec (.registerWrite off 4 v) s = .next (bar0Rule s off (v.truncate 32))) ∧
    (off = 0x10 → ∃ t, exec (.registerWrite off 4 v) s = .next t ∧ { t with chip := { t.chip with ctxBase := s.chip.ctxBase } } = s ∧
      ∀ k, t.chip.ctxBase.getLsbD k = if k < 12 then false else if k < 32 then v.getLsbD k else s.chip.ctxBase.getLsbD k) ∧
    (∀ q, off = 0x10000 + 64 * q → q < 64 → ∃ t, exec (.registerWrite off 4 v) s = .next t ∧
      QueIs s t q { queOf s q with base := ((queOf s q).base &&& 0xFFFFFFFF00000000) ||| (v &&& 0xFFFFFFFF) }) ∧
    (∀ q, off = 0x10000 + 64 * q + 12 → q < 64 → ∃ t, exec (.registerWrite off 4 v) s = .next t ∧ QueIs s t q { queOf s q with rootp := v.truncate 16 }) ∧
    (∀ q, off = 0x10000 + 64 * q + 16 → q < 64 → exec (.registerWrite off 4 v) s = exec (.qwrWrite q (v.truncate 32)) s) ∧
    (∀ q, off = 0x10000 + 64 * q + 8 → q < 64 → (queOf s q).en = false → v.getLsbD 8 = true →
      exec (.registerWrite off 4 v) s = exec (.queueEnable q (v.truncate 32)) s) ∧
    (∀ q, off = 0x10000 + 64 * q + 8 → q < 64 → (queOf s q).en = true → v.getLsbD 8 = false →
      exec (.registerWrite off 4 v) s = exec (.queueDisable q (v.truncate 32)) s) ∧
    (∀ n, off = 0x100000 + 32 * n + 20 → n < 1024 → exec (.registerWrite off 4 v) s = exec (.lvcancel n) s) ∧
    (∀ k, off = 0x1000 + 32 * k + 8 → k < 16 → ∃ t, exec (.registerWrite off 4 v) s = .next t ∧ { t with chip := { t.chip with shelves := s.chip.shelves } } = s ∧
      ∀ j, shelfOf t j = if j = k ∧ (shelfOf s k).recs = [] then { shelfOf s k with cap := v.truncate 32 } else shelfOf s j)) ∧
  (∀ (s t : State) (off : Nat) (v : DWord), off % 4 = 0 → off + 8 ≤ 2 ^ 24 → exec (.registerWrite off 4 v) s = .next t →
    exec (.registerWrite off 8 v) s = exec (.registerWrite (off + 4) 4 (v >>> 32)) t) ∧
  (∀ (s : State) (off n : Nat) (v w : DWord), 0 < n → n < 4 → off % 4 + n ≤ 4 → off < 2 ^ 24 →
    (∀ k, k < 32 → w.getLsbD k = if off % 4 * 8 ≤ k ∧ k < (off % 4 + n) * 8 then v.getLsbD (k - off % 4 * 8) else (barWord s (off / 4 * 4)).getLsbD k) →
    exec (.registerWrite off n v) s = exec (.registerWrite (off / 4 * 4) 4 w) s) ∧
  (∀ (s : State) (v : Word), (v.getLsbD 31 = true → s.chip.invCtl.getLsbD 31 = false →
      exec (.invalidationGo v) s = .next { s with chip := { s.chip with invCtl := v &&& 0x801FFFFF, invAt := s.chip.invVa } }) ∧
    (s.chip.invCtl.getLsbD 31 = true → exec (.invalidationGo v) s = .next s)) ∧
  ∀ (s : State),
    (s.chip.invCtl.getLsbD 31 = false → exec .translationInvalidationComplete s = .next s) ∧
    (s.chip.invCtl.getLsbD 31 = true → ∃ t, exec .translationInvalidationComplete s = .next t ∧ t.chip.invCtl = s.chip.invCtl &&& 0x7FFFFFFF ∧
      (∀ e, e ∈ t.tlb ↔ e ∈ s.tlb ∧ ¬ Covered s.chip.invCtl s.chip.invAt e.pcid e.pod e.base e.size) ∧
      t.grps.map (·.uid) = s.grps.map (·.uid) ∧ t.ram.hbm = s.ram.hbm ∧ t.ram.host = s.ram.host ∧
      (∀ (i : Nat) (g h : Grp), s.grps[i]? = some g → t.grps[i]? = some h →
        (∀ k, k ∈ g.g.b.map (·.1) → (aget default g.g.b k).here = true →
          Covered s.chip.invCtl s.chip.invAt (pcidOf s g.launch) false (aget default g.g.b k).base (aget default g.g.b k).size →
          (aget default h.g.b k).stale = true) ∧
        ∀ (j : Nat) (w v : Window), g.wins[j]? = some w → h.wins[j]? = some v →
          (∃ p ∈ w.xl, Covered s.chip.invCtl s.chip.invAt (p.1 / 2) (decide (p.1 % 2 = 1)) p.2.1 p.2.2) → v.hit = true) ∧
      ∀ pc, aget ctxNone t.ctxs pc = if pc = s.chip.invCtl.toNat % 2 ^ 16 ∧ (s.chip.invCtl.getLsbD 19 = true ∨ s.chip.invCtl.toNat / 2 ^ 16 % 8 = 7)
        then (if (readCtx s pc).valid then readCtx s pc else ctxNone) else ctxOf s pc)

/-- The end of a revocation epoch (R192, R193): not before the engine operations in flight at its start have ended; then no capability register
of a resident group holds a revoked capability, RDONE is the epoch, and a queued epoch starts. The monitors (R433, R434): a sample counts in
each enabled unit of its die that samples its source, and in no other. -/
def Sys2Proof.Claims.EpochAndMonitors : Prop :=
  (∀ (s : State), (s.rev.sweepDone = true ∨ (∃ u ∈ engineLive s, u ∈ s.rev.inFlight) → exec .revocationEpochComplete s = .next s) ∧
    (∀ s1 bad, s.rev.sweepDone = false → (∀ u ∈ engineLive s, u ∉ s.rev.inFlight) → askQueries s (sweepQueries s) = (s1, some bad) →
      ∃ t, exec .revocationEpochComplete s = .next t ∧ t.rev.done = s1.rev.epoch ∧ t.rev.bitmap = s1.rev.bitmap ∧
        (s1.rev.queued = false → t.rev = { s1.rev with done := s1.rev.epoch, sweepDone := true }) ∧
        (s1.rev.queued = true → t.rev.epoch = s1.rev.epoch + 1 ∧ t.rev.sweepDone = false ∧ t.rev.queued = false ∧ t.rev.marked = false) ∧
        (∀ g ∈ t.grps, ∀ x ∈ g.g.splits, (∀ e ∈ x.c, e.2.tag = true → (sweepBarrier s1 bad (pcidOf s1 g.launch) e.2).tag = true) ∧
          (x.pcc.tag = true → (sweepBarrier s1 bad (pcidOf s1 g.launch) x.pcc).tag = true) ∧
          (x.lcc.tag = true → (sweepBarrier s1 bad (pcidOf s1 g.launch) x.lcc).tag = true)) ∧
        t.grps.map (·.uid) = s1.grps.map (·.uid) ∧ t.ram.hbm = s1.ram.hbm ∧ t.ram.host = s1.ram.host)) ∧
  ∀ (s : State) (die src core : Nat) (v : Word),
    (die > 1 ∨ src = 0 ∨ src > 14 → exec (.monitorSample die src core v) s = .next s) ∧
    (die ≤ 1 → 0 < src → src ≤ 14 → ∃ t, exec (.monitorSample die src core v) s = .next t ∧ t.wgs = s.wgs ∧ t.tces = s.tces ∧ t.ces = s.ces ∧
      (∀ u, (u < 64 * die ∨ 64 * die + 64 ≤ u) → monOf t u = monOf s u) ∧
      ∀ u, 64 * die ≤ u → u < 64 * die + 64 →
        (((monOf s u).cfg.getLsbD 16 = true ∧ (monOf s u).cfg.toNat % 256 = src ∧ ((monOf s u).cfg.getLsbD 19 = true → (monOf s u).cfg.toNat / 2 ^ 20 % 256 = core)) →
          ((monOf t u).samples, (monOf t u).least, (monOf t u).most) = sampled (monOf s u) v ∧ (monOf t u).cfg = (monOf s u).cfg ∧
          ∀ b, aget 0 (monOf t u).bins b = if b = min 31 (v.toNat / 2 ^ cfgShift (monOf s u).cfg) then satInc (aget 0 (monOf s u).bins b) else aget 0 (monOf s u).bins b) ∧
        (¬ ((monOf s u).cfg.getLsbD 16 = true ∧ (monOf s u).cfg.toNat % 256 = src ∧ ((monOf s u).cfg.getLsbD 19 = true → (monOf s u).cfg.toNat / 2 ^ 20 % 256 = core)) →
          monOf t u = monOf s u))

namespace Sys2Proof.Claims

/-! Links, peers, homes, combining. -/

/-- The state word of a link (R445). -/
def link (s : State) (p : Nat) : Word := aget 0 s.fab.linkstat p

/-- Only the state words of the links differ from s1: port p has w (R445). -/
def LinkIs (s1 t : State) (p : Nat) (w : Word) : Prop :=
  { t with fab := { t.fab with linkstat := s1.fab.linkstat } } = s1 ∧ ∀ k, link t k = if k = p then w else link s1 k

/-- DROPPED one higher, at most 65,535 (R445). -/
def dropped (w : Word) : Word := if w.toNat / 2 ^ 16 = 65535 then w else w + 0x10000

/-- TAGFAIL one higher, at most 4,095 (R445). -/
def tagFailed (w : Word) : Word := if w.toNat / 16 % 4096 = 4095 then w else w + 16

/-- A value of INC at a node (R446): the first exchange and an equal value are accepted; a value behind the recorded one is stale. -/
def IncOk (s : State) (node : Nat) (inc : Word) : Prop := (peerOf s node).incarn = 0 ∨ (peerOf s node).incarn = inc
def IncStale (s : State) (node : Nat) (inc : Word) : Prop :=
  (peerOf s node).incarn ≠ 0 ∧ (peerOf s node).incarn ≠ inc ∧ ((peerOf s node).incarn - inc).toNat < 2 ^ 31

/-- What holds once a peer has been lost (R447): its requests, packets, guest lines and holds are gone, its windows are broken, and it owns nothing. -/
def PeerGone (s t : State) (node : Nat) : Prop :=
  (peerOf t node).lost = some (peerOf s node).incarn ∧ (∀ r ∈ t.fab.reqs, r.node ≠ node) ∧ (∀ x ∈ t.fab.guest, x.node ≠ node) ∧
  (∀ h ∈ t.fab.holds, h.node ≠ node) ∧ (∀ x ∈ t.fab.sent, x.home ≠ node) ∧ (∀ k, k ≠ node → peerOf t k = peerOf s k) ∧
  (∀ r ∈ s.fab.reqs, r.node = node → r.posted = false → r.group ≠ prefName → (∀ g ∈ s.grps, g.uid = r.group → g.wins = []) →
    ∃ a ∈ t.fab.answers, a.group = r.group ∧ a.off = r.off ∧ a.kind = r.kind ∧ a.ans = .fault 7 2 0) ∧
  ∀ id, (winOf s id).d.kind ≠ 2 → (winOf s id).d.kind ≠ 0 → (node ∈ (winOf s id).d.members ∨ homeOf (winOf s id).d = node) → (winOf t id).broken = true

/-- A request is answered with a in a state that is otherwise s: the prefetcher takes no answer; that of a posted write ends it, gives back the
hold of the window that it was the last of, and ends a multicast thread without another; any other waits for its requester (R217, R243, R273). -/
def Answered (s t : State) (r : Req) (a : ApAns) : Prop :=
  t.fab.reqs = s.fab.reqs.filter (fun x => x.tag ≠ r.tag) ∧
  { t with outbox := s.outbox, fab := { t.fab with reqs := s.fab.reqs, answers := s.fab.answers, mcThreads := s.fab.mcThreads } } = s ∧
  (r.group = prefName ∨ r.posted = true → t.fab.answers = s.fab.answers) ∧
  (r.group = prefName ∨ r.posted = false → t.outbox = s.outbox ∧ t.fab.mcThreads = s.fab.mcThreads) ∧
  (r.group ≠ prefName → r.posted = false → t.fab.answers = s.fab.answers ++ [{ node := r.node, group := r.group, off := r.off, kind := r.kind, auth := r.auth, ans := a }]) ∧
  (r.group ≠ prefName → r.posted = true →
    (∀ m, m ∈ t.fab.mcThreads ↔ m ∈ s.fab.mcThreads ∧ ¬ (m.read = true ∧ m.own = none ∧ ∀ x ∈ t.fab.reqs, x.group ≠ m.uid)) ∧
    t.outbox = s.outbox ++ if r.group = drainName ∧ ∀ x ∈ t.fab.reqs, ¬ (x.group = drainName ∧ x.node = r.node ∧ x.off / 4096 = r.off / 4096)
      then [.release r.node (r.off / 4096)] else [])

/-- The guest line fills among requests. -/
def isFill : ApKind → Bool
  | .fill _ _ => true
  | _ => false

/-- What keeps another node's hold request on sub-page k waiting (R243, R248): a store that has not drained, a hold of another node where either
writes, an epoch bump that a live node has not acknowledged. -/
def Withheld (s : State) (node k : Nat) (write : Bool) : Prop :=
  (∃ d ∈ s.drains, d.line.sp = .hbm ∧ d.line.a / 4096 = k) ∨ (∃ h ∈ s.fab.holds, h.node ≠ node ∧ h.sub = k ∧ (h.write = true ∨ write = true)) ∨
    ∃ b ∈ s.fab.bumps, b.1 = k ∧ ∃ n ∈ b.2, n ∈ liveNodes s

/-- A home has answered request r with o in state s1, and keeps a record of it (R449). -/
def HomeAnswered (s1 t : State) (r : ApReq) (o : Out) : Prop :=
  { t with outbox := s1.outbox, fab := { t.fab with tagRecs := s1.fab.tagRecs } } = s1 ∧ t.outbox = s1.outbox ++ [o] ∧
  ((s1.fab.tagRecs.filter fun y => y.node = r.node).length < 4096 → t.fab.tagRecs = s1.fab.tagRecs ++ [{ node := r.node, tag := r.tag, msg := o }])

end Sys2Proof.Claims

/-- Link states (R370, R442, R443, R445, R446, R448): a link that goes down is neither up nor sealed; a port that trains and whose peer is accepted
is up and sealed; a locked port runs no exchange; a flit is dropped and counted, or its tag failure is counted and at the replay locks the
port; a second UCIe failure stops the chip; a load that used unverified data rolls its window back and is marked (R250). -/
def Sys2Proof.Claims.LinkEvents : Prop :=
  (∀ (s : State) (p : Nat), (35 < p → exec (.linkDown p) s = .next s) ∧
    (p ≤ 35 → ∃ t, exec (.linkDown p) s = .next t ∧ (∀ k, link t k = if k = p then link s p &&& 0xFFFFFFFC else link s k) ∧
      (p < 32 → aget false t.fab.planeDown p = true) ∧ (32 ≤ p → t.fab.planeDown = s.fab.planeDown) ∧
      (32 ≤ p ∨ (∀ e ∈ s.fab.wins, e.2.d.kind ≠ 1) → { t with fab := { t.fab with linkstat := s.fab.linkstat, planeDown := s.fab.planeDown } } = s))) ∧
  (∀ (s : State) (x : KeyExchange) (s1 : State), x.port < 32 → s1 = { s with outbox := s.outbox ++ [.keyExchange x.port] } →
    (x.up = true → (link s x.port).getLsbD 2 = true → ∃ t, exec (.portTraining x) s = .next t ∧ LinkIs s1 t x.port (link s x.port ||| 1)) ∧
    (x.up = true → (link s x.port).getLsbD 2 = false → x.agtilux = false → ∃ t, exec (.portTraining x) s = .next t ∧
      link t x.port = (link s x.port ||| 1) &&& 0xFFFFFFFD ∧ aget false t.fab.planeDown x.port = false ∧ t.fab.peers = s.fab.peers) ∧
    (x.up = true → (link s x.port).getLsbD 2 = false → x.agtilux = true → IncOk s x.peer x.incarn → ∃ t, exec (.portTraining x) s = .next t ∧
      link t x.port = link s x.port ||| 3 ∧ aget false t.fab.planeDown x.port = false ∧ (peerOf t x.peer).incarn = x.incarn ∧
      { t with fab := { t.fab with linkstat := s1.fab.linkstat, planeDown := s1.fab.planeDown, peers := s1.fab.peers } } = s1) ∧
    ((link s x.port).getLsbD 1 = true → (link s x.port).getLsbD 2 = false → x.agtilux = true → IncOk s x.peer x.incarn →
      ∃ t, exec (.sealRekey x) s = .next t ∧ link t x.port = link s x.port ||| 2 ∧ (peerOf t x.peer).incarn = x.incarn ∧
        { t with fab := { t.fab with linkstat := s1.fab.linkstat, peers := s1.fab.peers } } = s1) ∧
    ((link s x.port).getLsbD 1 = false ∨ (link s x.port).getLsbD 2 = true → exec (.sealRekey x) s = .next s)) ∧
  (∀ (s : State) (f : Flit), f.port < 32 →
    ((link s f.port).getLsbD 2 = true → exec (.ualinkFlitReceive f) s = .next s) ∧
    ((link s f.port).getLsbD 2 = false → (link s f.port).getLsbD 1 = true → f.mgmt = false → f.tagOk = false → f.replay = false →
      ∃ t s1, exec (.ualinkFlitReceive f) s = .next t ∧ LinkIs s s1 f.port (tagFailed (link s f.port)) ∧
        { t with arm := s1.arm } = s1 ∧ ∀ k, aget 0 t.arm.life k = if k = 6 then satInc (aget 0 s.arm.life 6) else aget 0 s.arm.life k) ∧
    ((link s f.port).getLsbD 2 = false → (link s f.port).getLsbD 1 = true → f.mgmt = false → f.tagOk = false → f.replay = true →
      ∃ t, exec (.ualinkFlitReceive f) s = .next t ∧ link t f.port = tagFailed (link s f.port) ||| 4 ∧ aget false t.fab.planeDown f.port = true) ∧
    ((link s f.port).getLsbD 2 = false → ((link s f.port).getLsbD 1 = false ∨ f.mgmt = true ∨ f.tagOk = true) →
      (f.reservedSet = true ∨ (((link s f.port).getLsbD 1 = false ∨ f.mgmt = true) ∧ f.dom ≠ 0)) → ∃ t, exec (.ualinkFlitReceive f) s = .next t ∧ LinkIs s t f.port (dropped (link s f.port))) ∧
    ((link s f.port).getLsbD 2 = false → ((link s f.port).getLsbD 1 = true → f.mgmt = false → f.tagOk = true) → f.reservedSet = false →
        (((link s f.port).getLsbD 1 = true ∧ f.mgmt = false) ∨ f.dom = 0) →
      (f.stomp = true → ∃ t, exec (.ualinkFlitReceive f) s = .next t ∧ LinkIs { s with outbox := s.outbox ++ [.stomp f.txn] } t f.port (dropped (link s f.port))) ∧
      (f.stomp = false → IncOk s f.node f.incarn → exec (.ualinkFlitReceive f) s = .next s) ∧
      (f.stomp = false → IncStale s f.node f.incarn → ∃ t, exec (.ualinkFlitReceive f) s = .next t ∧ LinkIs s t f.port (dropped (link s f.port))) ∧
      (f.stomp = false → ¬ IncOk s f.node f.incarn → ¬ IncStale s f.node f.incarn → ∃ t, exec (.ualinkFlitReceive f) s = .next t ∧ (peerOf t f.node).incarn = f.incarn ∧
        (peerOf t f.node).lost = some (peerOf s f.node).incarn ∧ (∀ r ∈ t.fab.reqs, r.node ≠ f.node) ∧ ∀ y ∈ t.fab.guest, y.node ≠ f.node))) ∧
  ∀ (s : State) (replay : Bool) (groups : List (Nat × Nat × Nat)),
    exec (.ucieFlitReceive true replay groups) s = .next { s with fab := { s.fab with uciBad := false } } ∧
    (s.fab.uciBad = false → ∃ t, exec (.ucieFlitReceive false replay groups) s = .next t ∧ t.fab.uciBad = true ∧ link t 34 = tagFailed (link s 34) ∧ t.power = s.power) ∧
    (s.fab.uciBad = true → ∃ t, exec (.ucieFlitReceive false replay groups) s = .next t ∧ t.power = .stopped) ∧
    ∀ (g : Grp) (k start load : Nat) (w : Window), s.fab.uciBad = false → groups = [(g.uid, start, load)] → load ≠ 0 → grpOf s g.uid = some g →
      (g.wins.find? fun v => v.start = start) = some w → g.wins[k]? = some w → (∀ (j : Nat) (v : Window), j < k → g.wins[j]? = some v → v.start ≠ start) →
      ∃ t h, exec (.ucieFlitReceive false replay groups) s = .next t ∧ grpOf t g.uid = some h ∧ h.integ = some (start, load) ∧
        h.wins.map (·.buf) = (g.wins.take k).map (·.buf)

/-- Requests of this node to others, and lost peers (R217, R248, R447 to R449): an answer ends its request; a stomp notice or the first timeout
sends it again with its tag, a second stomp notice ends it with PEERLOST detail 4, the last timeout with detail 1 and the peer is lost; a peer
whose ports are down is lost in one step. A filled line stands as the asking contexts' guest line with its version; a validation that finds
the version holds, another rolls back, a late one gives its hold back; an epoch bump discards the guest lines of the sub-page and is acknowledged. -/
def Sys2Proof.Claims.RequestEvents : Prop :=
  (∀ (s : State) (r : Req), (s.fab.reqs.find? fun x => x.tag = r.tag) = some r →
    (∀ a, ∃ t, exec (.accessAnswer r.tag a) s = .next t ∧ Answered s t r a) ∧
    (r.stomped = false → ∃ t, exec (.stompNotice r.tag) s = .next t ∧ t.outbox = s.outbox ++ [.request r (reqHeader r)] ∧
      { t with outbox := s.outbox, fab := { t.fab with reqs := s.fab.reqs } } = s ∧
      t.fab.reqs = s.fab.reqs.map fun x => if x.tag = r.tag then { x with stomped := true } else x) ∧
    (r.stomped = true → ∃ s1 t, exec (.stompNotice r.tag) s = .next t ∧ Answered s s1 r (.fault 7 4 0) ∧
      (∀ p, portOf s r.off = some p → LinkIs s1 t p (dropped (link s p))) ∧ (portOf s r.off = none → t = s1)) ∧
    (r.retried = false → ∃ t, exec (.requestRetryTimeout r.tag) s = .next t ∧ t.outbox = s.outbox ++ [.request r (reqHeader r)] ∧
      { t with outbox := s.outbox, fab := { t.fab with reqs := s.fab.reqs } } = s ∧
      t.fab.reqs = s.fab.reqs.map fun x => if x.tag = r.tag then { x with retried := true } else x) ∧
    (r.retried = true → exec (.requestRetryTimeout r.tag) s = .next s) ∧
    (r.retried = true → ∃ s1 t, exec (.peerlostTimeout r.tag) s = .next t ∧ Answered s s1 r (.fault 7 1 0) ∧ PeerGone s1 t r.node) ∧
    (r.retried = false → exec (.peerlostTimeout r.tag) s = .next s)) ∧
  (∀ (s : State) (x : Sent) (tag : BitVec 16), (∀ r ∈ s.fab.reqs, r.tag ≠ tag) → (s.fab.sent.find? fun y => y.packet.tag = tag) = some x →
    (∀ a, exec (.accessAnswer tag a) s = .next { s with fab := { s.fab with sent := s.fab.sent.filter fun y => y.packet.tag ≠ tag } }) ∧
    (x.stomped = false → exec (.stompNotice tag) s = .next { s with outbox := s.outbox ++ [x.packet.out s x.home], fab := { s.fab with sent := s.fab.sent.map fun y => if y.packet.tag = tag then { y with stomped := true } else y } }) ∧
    (x.retried = false → exec (.requestRetryTimeout tag) s = .next { s with outbox := s.outbox ++ [x.packet.out s x.home], fab := { s.fab with sent := s.fab.sent.map fun y => if y.packet.tag = tag then { y with retried := true } else y } }) ∧
    (x.retried = true → ∃ t, exec (.peerlostTimeout tag) s = .next t ∧ PeerGone s t x.home)) ∧
  (∀ (s : State) (node : Nat), ∃ t, exec (.switchPortsDown node) s = .next t ∧ PeerGone s t node) ∧
  (∀ (s : State) (node line : Nat) (data : List Byte) (tags : List Bool) (v : Word), data.length = 128 → tags.length = 8 →
    ∃ t, exec (.lineFill node line data tags v) s = .next t ∧ { t with fab := { t.fab with reqs := s.fab.reqs, guest := s.fab.guest } } = s ∧
      (∀ r, r ∈ t.fab.reqs ↔ r ∈ s.fab.reqs ∧ ¬ (r.node = node ∧ r.off = line / 128 * 128 ∧ isFill r.kind = true)) ∧
      (∀ r ∈ s.fab.reqs, r.node = node → r.off = line / 128 * 128 → isFill r.kind = true →
        ∃ y, guestAt t r.pcid node line = some y ∧ y.data = data ∧ y.tags = tags ∧ y.stamp = v ∧ r.auth ∈ y.auths) ∧
      ∀ (pc n o : Nat), (∀ r ∈ s.fab.reqs, r.node = node → r.off = line / 128 * 128 → isFill r.kind = true → ¬ (r.pcid = pc ∧ n = node ∧ o / 128 = line / 128)) →
        guestAt t pc n o = guestAt s pc n o) ∧
  (∀ (s : State) (node sub k : Nat) (v : Word) (g : Grp) (w : Window), (s.grps.find? fun h => (awaiting h node sub).isSome) = some g → awaiting g node sub = some k →
    g.wins[k]? = some w → grpOf s g.uid = some g →
    ((∀ r ∈ w.remote, r.node = node → r.sub = sub → r.stamp = v) → ∃ t g', exec (.validationReply node sub v) s = .next t ∧
      { t with grps := s.grps, fab := { t.fab with guest := s.fab.guest } } = s ∧ t.grps = s.grps.map (fun h => if h.uid = g.uid then g' else h) ∧
      (∀ y, y ∈ t.fab.guest ↔ y ∈ s.fab.guest ∧ ¬ (y.node = node ∧ y.line / 4096 = sub ∧ y.stamp ≠ v)) ∧
      { g' with wins := g.wins } = g ∧ ∀ (i : Nat) (y : Window), g.wins[i]? = some y → g'.wins[i]? = some (if i = k then { y with valid := (node, sub) :: y.valid } else y)) ∧
    ((∃ r ∈ w.remote, r.node = node ∧ r.sub = sub ∧ r.stamp ≠ v) → ∃ t g', exec (.validationReply node sub v) s = .next t ∧ grpOf t g.uid = some g' ∧
      g'.wins.map (·.buf) = (g.wins.take k).map (·.buf) ∧ { g'.g with b := w.snap.b } = w.snap ∧ .release node sub ∈ t.outbox ∧
      ∀ y ∈ t.fab.guest, y.node = node → y.line / 4096 = sub → y.stamp = v)) ∧
  (∀ (s : State) (node sub : Nat) (v : Word), (∀ g ∈ s.grps, awaiting g node sub = none) → ∃ t, exec (.validationReply node sub v) s = .next t ∧
    { t with outbox := s.outbox, fab := { t.fab with guest := s.fab.guest } } = s ∧ t.outbox = s.outbox ++ [.release node sub] ∧
    ∀ y, y ∈ t.fab.guest ↔ y ∈ s.fab.guest ∧ ¬ (y.node = node ∧ y.line / 4096 = sub ∧ y.stamp ≠ v)) ∧
  ∀ (s : State) (node sub : Nat), ∃ t, exec (.epochBump node sub) s = .next t ∧ (∀ y ∈ t.fab.guest, ¬ (y.node = node ∧ y.line / 4096 = sub)) ∧
    (∀ r ∈ t.fab.reqs, ¬ (r.node = node ∧ r.off / 4096 = sub ∧ isFill r.kind = true)) ∧ .bumpAck node sub ∈ t.outbox ∧
    ((∀ g ∈ s.grps, ∀ w ∈ g.wins, w.hit = false ∧ ∀ r ∈ w.remote, ¬ (r.node = node ∧ r.sub = sub)) → t.grps = s.grps ∧ t.ram = s.ram)

/-- This node as a home (R176, R203, R243, R248, R373, R374, R441, R446, R449): a request of a stale incarnation is dropped, one whose tag is on
record is answered from it; a check that fails answers with CAPFAULT; a read answers with the bytes and changes nothing, a write and an atomic
change exactly their places. A validation request takes its hold and answers with the version. An inbound put or get acts through the region's
capability, and through no other. -/
def Obligations.HomeEvents : Prop :=
  (∀ (s : State) (r : ApReq), (IncStale s r.node r.incarn → ∃ t, exec (.apertureRequest r) s = .next t ∧
      (∀ p, portOf s r.off = some p → LinkIs s t p (dropped (link s p))) ∧ (portOf s r.off = none → t = s)) ∧
    (∀ x, IncOk s r.node r.incarn → (s.fab.tagRecs.find? fun x => x.node = r.node && x.tag = r.tag) = some x →
      exec (.apertureRequest r) s = .next { s with outbox := s.outbox ++ [x.msg] }) ∧
    (IncOk s r.node r.incarn → (∀ x ∈ s.fab.tagRecs, ¬ (x.node = r.node ∧ x.tag = r.tag)) →
      (∀ d, apCheck s r = some d → ∃ t, exec (.apertureRequest r) s = .next t ∧ HomeAnswered s t r (.answer r.node r.tag (.fault d.kind d.detail d.missing))) ∧
      (∀ s1 f, apCheck s r = none → (∃ n, r.kind = .read n ∧ apPlaces s r r.off (n / 4096 + 2) n = .fault s1 f) ∨
          (∃ d, r.kind = .write d ∧ apPlaces s r r.off (d.length / 4096 + 2) d.length = .fault s1 f) →
        ∃ t, exec (.apertureRequest r) s = .next t ∧ HomeAnswered s1 t r (.answer r.node r.tag (.fault f.kind f.detail f.missing))) ∧
      (∀ n s1 ps u, apCheck s r = none → r.kind = .read n → apPlaces s r r.off (n / 4096 + 2) n = .ok s1 (ps, u) →
        heldLine s1 homeName false (placeLines s1 ps) = false → otherHold s1 r.node false ps = false →
        ((ps.findSome? fun p => spoilAt s1 p.1 p.2) = none → ∃ t, exec (.apertureRequest r) s = .next t ∧
          HomeAnswered (shareHost s1 (placeLines s1 ps)) t r (.answer r.node r.tag (.data (ps.flatMap fun p => ramRead s1.ram p.1 p.2) false))) ∧
        (∀ d, (ps.findSome? fun p => spoilAt s1 p.1 p.2) = some d → ∃ t, exec (.apertureRequest r) s = .next t ∧
          HomeAnswered s1 t r (.answer r.node r.tag (.fault 9 d 0)))) ∧
      (∀ d s1 l u, apCheck s r = none → r.kind = .write d → apPlaces s r r.off (d.length / 4096 + 2) d.length = .ok s1 ([(l, d.length)], u) →
        heldLine s1 homeName true (placeLines s1 [(l, d.length)]) = false → otherHold s1 r.node true [(l, d.length)] = false → hostHolds s1 (placeLines s1 [(l, d.length)]) = false →
        ∃ t, exec (.apertureRequest r) s = .next t ∧
          HomeAnswered (putMem (shareHost s1 (placeLines s1 [(l, d.length)])) homeName l 0 d) t r (.answer r.node r.tag .done)) ∧
      (∀ op ty b c s1 l u old, apCheck s r = none → r.kind = .atomic op ty b c → apPlaces s r r.off 2 (unitOf ty) = .ok s1 ([(l, unitOf ty)], u) →
        heldLine s1 homeName true (placeLines s1 [(l, unitOf ty)]) = false → otherHold s1 r.node true [(l, unitOf ty)] = false →
        hostHolds s1 (placeLines s1 [(l, unitOf ty)]) = false → spoilAt s1 l (unitOf ty) = none → old = leNat (ramRead s1.ram l (unitOf ty)) →
        ∃ t s2 s3, s2 = shareHost s1 (placeLines s1 [(l, unitOf ty)]) ∧
          s3 = (if op = .cas ∧ old ≠ c.toNat then s2 else putMem s2 homeName l 0 (leBytes (unitOf ty) (atomNew op ty old b.toNat))) ∧
          exec (.apertureRequest r) s = .next t ∧ HomeAnswered s3 t r (.answer r.node r.tag (.data (ramRead s1.ram l (unitOf ty)) false))))) ∧
  (∀ (s : State) (node : Nat) (tag : BitVec 16), ∃ t, exec (.homeTagRecordExpiry node tag) s = .next t ∧ { t with fab := { t.fab with tagRecs := s.fab.tagRecs } } = s ∧
    ∀ x, x ∈ t.fab.tagRecs ↔ x ∈ s.fab.tagRecs ∧ ¬ (x.node = node ∧ x.tag = tag)) ∧
  (∀ (s : State) (node die sub : Nat) (pcid : BitVec 16) (stamp : Word) (write : Bool),
    (podPlace s pcid.toNat (4096 * sub) = none → exec (.validationRequest ⟨node, die⟩ pcid sub stamp write) s = .next { s with outbox := s.outbox ++ [.version node sub 0 false] }) ∧
    (∀ l, podPlace s pcid.toNat (4096 * sub) = some l →
      (Withheld s node (l.a / 4096) write → exec (.validationRequest ⟨node, die⟩ pcid sub stamp write) s = .next s) ∧
      (∀ s1, ¬ Withheld s node (l.a / 4096) write → s1 = (if write = true then grantAll s (nodeOwner node die) [hbmLoc l.a] else s) →
        exec (.validationRequest ⟨node, die⟩ pcid sub stamp write) s = .next { s1 with fab := { s1.fab with holds := s.fab.holds ++ [{ node := node, sub := l.a / 4096, off := sub, write := write }] }, outbox := s.outbox ++ [.version node sub (aget 0 s.ram.vers (l.a / 4096)) (decide (aget 0 s.ram.vers (l.a / 4096) = stamp))] }))) ∧
  ∀ (s : State) (region : BitVec 16) (off : DWord) (data : List Byte) (n : Nat) (r : UeRegion), r = aget regionNone s.fab.regions region.toNat →
    (r.puts = false → ∃ t, exec (.ueInboundPut region off data) s = .next t ∧ { t with outbox := s.outbox } = dropAns s inboundName ∧ t.outbox = s.outbox ++ [.ueAnswer [] false]) ∧
    (r.gets = false → ∃ t, exec (.ueInboundGet region off n) s = .next t ∧ { t with outbox := s.outbox } = dropAns s inboundName ∧ t.outbox = s.outbox ++ [.ueAnswer [] false]) ∧
    (∀ s1 ps s2, r.puts = true → engReady s { uid := inboundName, pcid := r.pcid, core := none, die := 0, gang := 0 } true r.cap [1, 12] (capBase r.cap + off.toNat) data.length = .ok s1 ps →
      engPut s1 { uid := inboundName, pcid := r.pcid, core := none, die := 0, gang := 0 } r.cap 0 ps data = .ok s2 () →
      ∃ t, exec (.ueInboundPut region off data) s = .next t ∧ { t with outbox := s2.outbox } = dropAns s2 inboundName ∧ t.outbox = s2.outbox ++ [.ueAnswer [] true]) ∧
    (∀ s1 b, r.gets = true → engRead s { uid := inboundName, pcid := r.pcid, core := none, die := 0, gang := 0 } true r.cap (capBase r.cap + off.toNat) n = .ok s1 b →
      ∃ t, exec (.ueInboundGet region off n) s = .next t ∧ { t with outbox := s1.outbox } = dropAns s1 inboundName ∧ t.outbox = s1.outbox ++ [.ueAnswer b true])

namespace Sys2Proof.Claims

/-- A packet of window id for element i of generation gen is for no window here: no such window, another generation, or no such element (R269, R276). -/
def Stray (s : State) (id : Nat) (gen : BitVec 16) (i : Nat) : Prop :=
  (winOf s id).d.kind = 0 ∨ (winOf s id).d.kind = 2 ∨ (winOf s id).d.gen ≠ gen ∨ (winOf s id).d.len / 4 ≤ i

/-- The home of window id is this node. -/
def AtHome (s : State) (id : Nat) : Prop :=
  ((winOf s id).d.kind = 1 ∨ (winOf s id).d.kind = 3) ∧ (winOf s id).d.range / 2 ^ 47 % 2 ^ 9 = s.fab.node.toNat

/-- A dropped packet of an element: DROPPED of its port rises (R445). -/
def PacketDropped (s t : State) (id i : Nat) : Prop :=
  (∀ p, portOf s ((winOf s id).d.range % 2 ^ 47 + 4 * i) = some p → LinkIs s t p (dropped (link s p))) ∧
  (portOf s ((winOf s id).d.range % 2 ^ 47 + 4 * i) = none → t = s)

/-- A packet of a rank is acknowledged to its node (R270). -/
def acked (s : State) (w : Win) (rank : Nat) (tag : BitVec 16) : State :=
  if w.d.members.getD rank 0 = s.fab.node.toNat then s else { s with outbox := s.outbox ++ [.answer (w.d.members.getD rank 0) tag .done] }

/-- A window that holds one more contribution, and without those of an element whose merged write has been made (R267, R269). -/
def withHeld (w : Win) (c : Contribution) : Win :=
  { w with held := w.held ++ [{ rank := c.rank, contributor := c.contributor, off := c.off, value := c.value, tag := c.tag, folded := c.folded, hi := c.hi }] }
def elemDone (w : Win) (i : Nat) : Win := { w with held := w.held.filter (fun h => h.off ≠ i), merged := w.merged ++ [i] }

/-- Whether a contribution or node partial comes from a listed source (R265, R276). -/
def Listed_ (w : Win) (c : Contribution) : Prop :=
  c.rank < w.d.members.length ∧ (c.folded = 0 → w.d.contributors.getLsbD c.contributor = true) ∧ (c.folded ≠ 0 → c.folded = (contributorsOf w.d).length)

/-- A thread of the multicast engine after a change; it ends once its replicas are all performed or refused (R273). -/
def threadIs (s : State) (uid : Nat) (f : McThread → McThread) : State :=
  { s with fab := { s.fab with mcThreads := (s.fab.mcThreads.map fun m => if m.uid = uid then f m else m).filter fun m =>
      !(m.read && m.own.isNone && !(s.fab.reqs.any fun r => r.group = m.uid)) } }

end Sys2Proof.Claims

/-- Combining and multicast (R267 to R270, R273 to R276): a stray contribution or pair is dropped and counted, one for a broken window dropped;
a Trestle holds the contributions of its own node until the rank is full and then sends the node partial to the home; the home holds a
contribution until its element is full, writes the merged value, and owes the round event after the last element; a repeated tag is
acknowledged and discarded, a second contribution waits; a merge-table entry is applied to its element and counted; a multicast thread sends a
replica to every other member of the entry, and writes this node's own unit by unit or counts it in MCDROP. -/
def Obligations.CombiningEvents : Prop :=
  (∀ (s : State) (c : Contribution) (w : Win) (s1 : State), w = winOf s c.win → s1 = { s with fab := { s.fab with flight := s.fab.flight.erase c } } →
    (Stray s c.win c.gen c.off → ∃ t, exec (.contributionArrival c) s = .next t ∧ PacketDropped s1 t c.win c.off) ∧
    (¬ Stray s c.win c.gen c.off → w.broken = true → exec (.contributionArrival c) s = .next s1) ∧
    (¬ Stray s c.win c.gen c.off → w.broken = false → ¬ AtHome s c.win → c ∈ s.fab.flight → w.d.kind = 1 →
      ((heldFor w c).isSome = true → exec (.contributionArrival c) s = .next s) ∧
      (heldFor w c = none → rankFull (withHeld w c) c.off c.rank = false → exec (.contributionArrival c) s = .next (setWin s1 c.win (withHeld w c))) ∧
      (∀ p, heldFor w c = none → rankFull (withHeld w c) c.off c.rank = true → p = nodePartial s (withHeld w c) c → ∃ t, exec (.contributionArrival c) s = .next t ∧
        { t with outbox := s.outbox, fab := { t.fab with sent := s.fab.sent, nextTag := s.fab.nextTag } } = setWin s1 c.win (withHeld w c) ∧
        t.fab.nextTag = s.fab.nextTag + 1 ∧ t.fab.sent = s.fab.sent ++ [{ home := homeOf w.d, packet := .sum p, retried := false, stomped := false }] ∧
        ∃ h, t.outbox = s.outbox ++ [.contribution (homeOf w.d) p h])) ∧
    (¬ Stray s c.win c.gen c.off → w.broken = false → AtHome s c.win → w.d.kind = 1 → Listed_ w c →
      (∀ h, heldFor w c = some h → h.tag = c.tag → exec (.contributionArrival c) s = .next (acked s1 w c.rank c.tag)) ∧
      (∀ h, heldFor w c = some h → h.tag ≠ c.tag → ∃ t, exec (.contributionArrival c) s = .next t ∧
        { t with fab := { t.fab with flight := s.fab.flight } } = s ∧ c ∈ t.fab.flight) ∧
      (heldFor w c = none → elemFull (withHeld w c) c.off = false → exec (.contributionArrival c) s = .next (acked (setWin s1 c.win (withHeld w c)) w c.rank c.tag)) ∧
      (∀ s2 l s3, heldFor w c = none → elemFull (withHeld w c) c.off = true →
        homePlace s1 w.d (w.d.range % 2 ^ 47 + 4 * c.off) (if w.d.acc then 3 else 2) 4 = .ok s2 l → (w.d.acc = true → spoilAt s2 l 4 = none) →
        s3 = putMem s2 winName l 0 (leBytes 4 (mergedOf (withHeld w c) c.off (ramNat s2.ram l 4))) →
        ((∃ j < w.d.len / 4, j ≠ c.off ∧ j ∉ w.merged) → exec (.contributionArrival c) s = .next (acked (setWin s3 c.win (elemDone (withHeld w c) c.off)) w c.rank c.tag)) ∧
        ((∀ j < w.d.len / 4, j = c.off ∨ j ∈ w.merged) → ∃ t, exec (.contributionArrival c) s = .next t ∧ t.ram = s3.ram ∧ (winOf t c.win).rounds = w.rounds + 1 ∧
          t.fab.owed = s3.fab.owed ++ [{ win := c.win, notify := w.d.notify, pcid := w.d.pcid, op := .count 1 false }]))) ∧
    (¬ Stray s c.win c.gen c.off → w.broken = false → AtHome s c.win → w.d.kind = 1 → ¬ Listed_ w c → ∃ t, exec (.contributionArrival c) s = .next t ∧ PacketDropped s1 t c.win c.off)) ∧
  (∀ (s : State) (x : SparsePair) (w : Win) (s1 : State), w = winOf s x.win → s1 = { s with fab := { s.fab with sparseFlight := s.fab.sparseFlight.erase x } } →
    (Stray s x.win x.gen x.index.toNat → ∃ t, exec (.sparsePairArrival x.head x.gen x.index x.value) s = .next t ∧ PacketDropped s1 t x.win x.index.toNat) ∧
    (¬ Stray s x.win x.gen x.index.toNat → w.broken = true → exec (.sparsePairArrival x.head x.gen x.index x.value) s = .next s1) ∧
    (¬ Stray s x.win x.gen x.index.toNat → w.broken = false → ¬ AtHome s x.win → x ∈ s.fab.sparseFlight → ∃ h, exec (.sparsePairArrival x.head x.gen x.index x.value) s = .next { s1 with outbox := s.outbox ++ [.sparsePair (homeOf w.d) x h], fab := { s1.fab with sent := s.fab.sent ++ [{ home := homeOf w.d, packet := .pair x, retried := false, stomped := false }] } }) ∧
    (∀ n s2, ¬ Stray s x.win x.gen x.index.toNat → w.broken = false → AtHome s x.win → x.rank < w.d.members.length → n = w.d.members.getD x.rank 0 →
      (sparseAt w x.index.toNat).isSome = true →
      s2 = setWin s1 x.win { w with sparse := w.sparse.map fun e => if e.1.toNat = x.index.toNat then (e.1, e.2 ++ [x.value]) else e } →
      (n = s.fab.node.toNat → exec (.sparsePairArrival x.head x.gen x.index x.value) s = .next s2) ∧
      (n ≠ s.fab.node.toNat → (∀ r ∈ s.fab.tagRecs, ¬ (r.node = n ∧ r.tag = x.tag)) → exec (.sparsePairArrival x.head x.gen x.index x.value) s = .next { s2 with outbox := s.outbox ++ [.answer n x.tag .done], fab := { s2.fab with tagRecs := tagKeep s.fab.tagRecs { node := n, tag := x.tag, msg := .answer n x.tag .done } } }) ∧
      (n ≠ s.fab.node.toNat → (∃ r ∈ s.fab.tagRecs, r.node = n ∧ r.tag = x.tag) → exec (.sparsePairArrival x.head x.gen x.index x.value) s = .next { s1 with outbox := s.outbox ++ [.answer n x.tag .done] }))) ∧
  (∀ (s : State) (id : Nat) (i : Word) (w : Win), w = winOf s id →
    (sparseAt w i.toNat = none → exec (.mergeTableTimeout id i) s = .next s) ∧
    (∀ v vs s1 s2 l s3, sparseAt w i.toNat = some (v :: vs) → s1 = setWin s id { w with sparse := w.sparse.filter fun x => x.1.toNat ≠ i.toNat } →
      homePlace s1 w.d (w.d.range % 2 ^ 47 + 4 * i.toNat) 3 4 = .ok s2 l → spoilAt s2 l 4 = none →
      s3 = putMem s2 winName l 0 (leBytes 4 (treeFin w.d.fmt (treeAdd w.d.fmt (treeWide w.d.fmt (ramNat s2.ram l 4))
        (vs.foldl (fun a x => treeAdd w.d.fmt a (treeWide w.d.fmt x.toNat)) (treeWide w.d.fmt v.toNat))))) →
      exec (.mergeTableTimeout id i) s = .next { s3 with fab := { s3.fab with owed := s3.fab.owed ++ [{ win := id, notify := w.d.notify, pcid := w.d.pcid, op := .count (vs.length + 1) false }] } })) ∧
  ∀ (s : State) (i : Nat) (m : McThread) (e : McGroup), s.fab.mcThreads[i]? = some m → e = aget mcNone s.fab.mcast m.grp →
    (m.read = false → e.gen ≠ m.gen → ∃ t, exec (.multicastPacketArrival i) s = .next t ∧
      (∀ p, portOf s m.off = some p → LinkIs (threadIs s m.uid fun x => { x with read := true }) t p (dropped (link s p))) ∧
      (portOf s m.off = none → t = threadIs s m.uid fun x => { x with read := true })) ∧
    (∀ s1, m.read = false → e.gen = m.gen → s1 = ((List.range 512).filter fun n => e.members.getLsbD n && n != s.fab.node.toNat).foldl
        (fun t n => post t m.au m.uid m.pcid n m.off m.data.length (.replica m.grp m.gen m.data)) s →
      exec (.multicastPacketArrival i) s = .next (threadIs s1 m.uid fun x => { x with read := true, own := if e.members.getLsbD s.fab.node.toNat then some 0 else none })) ∧
    (∀ k s0 s1 l n, m.read = true → m.own = some k → (if k = 0 then podOk s m.pcid m.off m.data.length else .ok s ()) = .ok s0 () →
      podAt s0 m.pcid (m.off + k) = .ok s1 l → n = unit216 m.off m.data.length k → blocked s1 mcName true (linesOf s1.ram l n) = none →
      exec (.multicastPacketArrival i) s = .next (threadIs (putMem s1 mcName l 0 ((m.data.drop k).take n)) m.uid fun x =>
        { x with own := if k + n < m.data.length then some (k + n) else none })) ∧
    (∀ s1 f, m.read = true → m.own = some 0 → podOk s m.pcid m.off m.data.length = .fault s1 f →
      exec (.multicastPacketArrival i) s = .next (threadIs { s1 with chip := { s1.chip with mcdrop := satInc s1.chip.mcdrop } } m.uid fun x => { x with own := none })) ∧
    (m.read = true → m.own = none → exec (.multicastPacketArrival i) s = .next s)

namespace Sys2Proof.Claims

/-! Armoire, power, resets, the host. -/

/-- Armoire answers a request that leaves s1 (R451): the response with a status and results goes out, and nothing else changes. -/
def Responds (s1 t : State) (code status : Nat) (b : List Byte) : Prop := t = { s1 with outbox := s1.outbox ++ [.doe code status b] }

/-- The codes of the mailbox requests (R453), CTXDESTROY apart. -/
def doeCode : Instr → Option Nat
  | .nodeset .. => some 1 | .ctxcreate .. => some 2 | .ctxassign .. => some 3 | .ctxload .. => some 4 | .ctxseal .. => some 5 | .pageout .. => some 6
  | .pagein .. => some 7 | .doeStatus .. => some 9 | .quote .. => some 10 | .extend .. => some 11 | .linkattest .. => some 12 | .uekey .. => some 13
  | .debugnonce => some 14 | .debug .. => some 15 | .pstate .. => some 16 | .reset => some 17
  | _ => none

/-- Only slot k of the key slots differs from s1, and it is x (R452). -/
def SlotIs (s1 t : State) (k : Nat) (x : KeySlot) : Prop :=
  { t with arm := { t.arm with slots := s1.arm.slots } } = s1 ∧ ∀ j, slotOf t j = if j = k then x else slotOf s1 j

/-- A slot that is bound (R453). -/
def Bound (s : State) (k : Nat) : Prop := 1 ≤ k ∧ k ≤ 63 ∧ (slotOf s k).st ≠ .free

/-- The byte of the domain table for region r (R439). -/
def domainByte (s : State) (r : Nat) : Byte := aget 0 s.arm.domains r

/-- M ← SHA-384(M ‖ x) (R454). -/
def measured (m : BitVec 384) (x : List Byte) : BitVec 384 := Config.sha384 (bvBytes m ++ x)

/-- No mapping stands on region r (R224). -/
def Unmapped (s : State) (r : Nat) : Prop := ∀ m ∈ s.ram.maps, ¬ (m.pa < 2 ^ 21 * (r + 1) ∧ 2 ^ 21 * r < m.pa + m.len)

/-- A unit of R3 is placed, or an engine thread runs (R468). -/
def Busy (s : State) : Prop := unitPlaced s = true ∨ threadRuns s = true

end Sys2Proof.Claims

/-- Protected contexts (R438, R439, R453, R454, R462 to R464): CTXCREATE binds the lowest free slot with its measurement; CTXASSIGN gives regions
to a slot; CTXLOAD copies a region without tags and extends the measurement; CTXSEAL seals; CTXDESTROY frees the slot, and its regions are
scrub-pending; the end of the scrub gives every region of the record to domain 0 in one step. Each is refused in the cases of the rule. -/
def Sys2Proof.Claims.ProtectedContexts : Prop :=
  ∀ (s : State), destroying s = none →
    (∀ pcid mask dom,
      (dom = 0 → ∃ t, exec (.ctxcreate pcid mask dom) s = .next t ∧ Responds s t 2 2 []) ∧
      (dom ≠ 0 → (s.arm.ideCache = false ∨ s.arm.ideMem = false ∨ (∃ e ∈ s.arm.slots, e.2.st ≠ .free ∧ e.2.pcid = pcid) ∨ (∀ k, 1 ≤ k → k ≤ 63 → (slotOf s k).st ≠ .free)) →
        ∃ t, exec (.ctxcreate pcid mask dom) s = .next t ∧ Responds s t 2 3 []) ∧
      (∀ k, dom ≠ 0 → s.arm.ideCache = true → s.arm.ideMem = true → (∀ e ∈ s.arm.slots, e.2.st ≠ .free → e.2.pcid ≠ pcid) → 1 ≤ k → k ≤ 63 →
        (slotOf s k).st = .free → (∀ j, 1 ≤ j → j < k → (slotOf s j).st ≠ .free) →
        ∃ t s1 key, exec (.ctxcreate pcid mask dom) s = .next t ∧ Responds s1 t 2 0 (leBytes 4 k) ∧ SlotIs { s with nonce := s1.nonce } s1 k
          { st := .loading, pcid := pcid, dom := dom, mask := mask, key := key,
            mc := Config.sha384 (List.replicate 48 0 ++ bvBytes pcid ++ leBytes 4 mask.toNat ++ bvBytes dom), taint := [], vers := [], ctr := 0, pool := [] })) ∧
    (∀ slot die first count,
      ((1 < die ∨ first + count > dieRegions) → ∃ t, exec (.ctxassign slot die first count) s = .next t ∧ Responds s t 3 2 []) ∧
      (die ≤ 1 → first + count ≤ dieRegions → (¬ Bound s slot ∨ ∃ i < count, domainByte s (die * 2 ^ 17 + first + i) ≠ 0) →
        ∃ t, exec (.ctxassign slot die first count) s = .next t ∧ Responds s t 3 3 []) ∧
      (die ≤ 1 → first + count ≤ dieRegions → Bound s slot → (∀ i < count, domainByte s (die * 2 ^ 17 + first + i) = 0) →
        ∃ t s1, exec (.ctxassign slot die first count) s = .next t ∧ Responds s1 t 3 0 [] ∧
          (∀ r, domainByte s1 r = if die * 2 ^ 17 + first ≤ r ∧ r < die * 2 ^ 17 + first + count then BitVec.ofNat 8 slot else domainByte s r) ∧
          ((∀ i < count, Unmapped s (die * 2 ^ 17 + first + i)) → ∀ i < count, ∀ j < 2 ^ 21, rd8 s1.ram.hbm (2 ^ 21 * (die * 2 ^ 17 + first + i) + j) = 0))) ∧
    (∀ slot src dst va, isHbm (2 ^ 21 * src) = true → isHbm (2 ^ 21 * dst) = true →
      ((¬ Bound s slot ∨ (slotOf s slot).st ≠ .loading ∨ domainByte s src ≠ 0 ∨ (domainByte s dst).toNat ≠ slot) →
        ∃ t, exec (.ctxload slot src dst va) s = .next t ∧ Responds s t 4 3 []) ∧
      (Bound s slot → (slotOf s slot).st = .loading → domainByte s src = 0 → (domainByte s dst).toNat = slot → s.ram.maps = [] →
        ∃ t s1, exec (.ctxload slot src dst va) s = .next t ∧ Responds s1 t 4 0 [] ∧ (∀ j, j ≠ slot → slotOf s1 j = slotOf s j) ∧
          slotOf s1 slot = { slotOf s slot with mc := measured (slotOf s slot).mc (bvBytes va ++ bvBytes (Config.sha384 (ramRead s.ram { sp := .hbm, a := 2 ^ 21 * src } (2 ^ 21)))) } ∧
          (∀ j < 2 ^ 21, rd8 s1.ram.hbm (2 ^ 21 * dst + j) = rd8 s.ram.hbm (2 ^ 21 * src + j) ∧ aget false s1.ram.tags ((2 ^ 21 * dst + j) / 16) = false) ∧
          ∀ a, a / 2 ^ 21 ≠ dst → rd8 s1.ram.hbm a = rd8 s.ram.hbm a)) ∧
    (∀ slot,
      ((¬ Bound s slot ∨ (slotOf s slot).st ≠ .loading) → ∃ t, exec (.ctxseal slot) s = .next t ∧ Responds s t 5 3 []) ∧
      (Bound s slot → (slotOf s slot).st = .loading → ∃ t s1, exec (.ctxseal slot) s = .next t ∧ Responds s1 t 5 0 [] ∧
        SlotIs s s1 slot { slotOf s slot with st := .sealed, mc := measured (slotOf s slot).mc (List.replicate 48 0xFF) })) ∧
    (∀ slot, (¬ Bound s slot → ∃ t, exec (.ctxdestroy slot) s = .next t ∧ Responds s t 8 3 []) ∧
      (∀ pool s1, Bound s slot → pool = (heldSlots s (slotOf s slot).pcid.toNat).flatMap (saveRegions s) →
        s1 = setSlot (cancelContext s (slotOf s slot).pcid.toNat) slot { slotOf s slot with st := .destroying, pool := pool } →
        (threadsOf s1 (slotOf s slot).pcid.toNat = true → exec (.ctxdestroy slot) s = .next s1) ∧
        (threadsOf s1 (slotOf s slot).pcid.toNat = false → ∃ t s2, exec (.ctxdestroy slot) s = .next t ∧ Responds s2 t 8 0 [] ∧ (slotOf s2 slot).st = .free ∧
          (∀ j, j ≠ slot → slotOf s2 j = slotOf s j) ∧ (∀ r, domainByte s r = BitVec.ofNat 8 slot ∨ r ∈ pool → domainByte s2 r = 0x80 ∧ r ∈ s2.arm.scrub.regions)))) ∧
    ((s.arm.scrub.active = false → exec .scrubRecordComplete s = .next s) ∧
      (s.arm.scrub.active = true → ∃ t, exec .scrubRecordComplete s = .next t ∧ t.arm.scrub.active = false ∧ t.arm.scrub.regions = [] ∧
        (∀ r, domainByte t r = if r ∈ s.arm.scrub.regions then 0 else domainByte s r) ∧
        ((∀ r ∈ s.arm.scrub.regions, Unmapped s r) → ∀ r ∈ s.arm.scrub.regions, ∀ j < 2 ^ 21, rd8 t.ram.hbm (2 ^ 21 * r + j) = 0)))

/-- Page-out and page-in (R460, R461): a page of the context that a 2 MiB leaf maps in one of the slot's regions is sealed to the host with its
trailer, its counter is recorded, and its region is scrub-pending; a blob that verifies brings the page back and its record is deleted; one
that does not taints the context, and nothing is written. -/
def Sys2Proof.Claims.PageRequests : Prop :=
  ∀ (s : State) (slot : Nat) (va hpa : DWord) (k : KeySlot), destroying s = none → k = slotOf s slot → va.toNat % 2 ^ 21 = 0 → va.toNat < 2 ^ 57 →
    hpa.toNat + blobSize + 64 ≤ 2 ^ 48 →
    ((¬ Bound s slot ∨ 4096 ≤ k.vers.length ∨ pageAt s slot va.toNat = none) → ∃ t, exec (.pageout slot va hpa) s = .next t ∧ Responds s t 6 3 []) ∧
    (∀ r l, Bound s slot → k.vers.length < 4096 → pageAt s slot va.toNat = some (r, l) → s.ram.maps = [] → l.entry / 2 ^ 21 ≠ r → l.entry % 8 = 0 →
      ∃ t s1, exec (.pageout slot va hpa) s = .next t ∧ Responds s1 t 6 0 [] ∧ (∀ j, j ≠ slot → slotOf s1 j = slotOf s j) ∧
        slotOf s1 slot = { k with ctr := k.ctr + 1, vers := k.vers ++ [(va.toNat, k.ctr + 1)] } ∧ domainByte s1 r = 0x80 ∧ r ∈ s1.arm.scrub.regions ∧
        (∀ j < 8, rd8 s1.ram.hbm (l.entry + j) = (leBytes 8 (l.raw - l.raw % 2 - l.raw / 2 ^ 62 % 2 * 2 ^ 62)).getD j 0) ∧
        ∀ j < blobSize + 64, rd8 s1.ram.host (hpa.toNat + j) =
          (pageBlob k slot va (k.ctr + 1) (rdBytes s.ram.hbm (2 ^ 21 * r) (2 ^ 21) ++ regionTags s r)).getD j 0) ∧
    (∀ region, isHbm (2 ^ 21 * region) = true →
      ((¬ Bound s slot ∨ domainByte s region ≠ 0 ∨ entryAt s (ctxOf s k.pcid.toNat) va.toNat = none) →
        ∃ t, exec (.pagein slot va hpa region) s = .next t ∧ Responds s t 7 3 []) ∧
      (∀ e, Bound s slot → domainByte s region = 0 → entryAt s (ctxOf s k.pcid.toNat) va.toNat = some e → openBlob s k va hpa = none →
        ∃ t s1 s2, exec (.pagein slot va hpa region) s = .next t ∧ SlotIs s s1 slot { k with taint := (k.taint ++ [va.toNat]).eraseDups } ∧
          s2 = raiseEvent s1 9 slot 0 (bvBytes va) ∧ Responds s2 t 7 3 []) ∧
      (∀ e n b, Bound s slot → domainByte s region = 0 → entryAt s (ctxOf s k.pcid.toNat) va.toNat = some e → openBlob s k va hpa = some (n, b) → s.ram.maps = [] →
        e / 2 ^ 21 ≠ region → e % 8 = 0 → ∃ t s1, exec (.pagein slot va hpa region) s = .next t ∧ Responds s1 t 7 0 [] ∧ (∀ j, j ≠ slot → slotOf s1 j = slotOf s j) ∧
          slotOf s1 slot = { k with vers := k.vers.erase (va.toNat, n) } ∧ (∀ r, domainByte s1 r = if r = region then BitVec.ofNat 8 slot else domainByte s r) ∧
          ∀ j < 2 ^ 21, rd8 s1.ram.hbm (2 ^ 21 * region + j) = b.getD j 0))

/-- Armoire's other requests (R371, R434, R442, R443, R451, R453 to R456, R468): every request is answered busy while one is served; the rest each
with its status and its results, and with the one change that the rule gives. The key exchange of LINKATTEST clears the lock of its port. -/
def Obligations.MailboxRequests : Prop :=
  (∀ (s : State) (i : Instr) (c : Nat), doeCode i = some c → destroying s ≠ none → ∃ t, exec i s = .next t ∧ Responds s t c 1 []) ∧
  ∀ (s : State), destroying s = none →
    (∀ n, (s.fab.launched = true → ∃ t, exec (.nodeset n) s = .next t ∧ Responds s t 1 3 []) ∧
      (s.fab.launched = false → ∃ t, exec (.nodeset n) s = .next t ∧ Responds { s with fab := { s.fab with node := n, nodeSet := true } } t 1 0 [])) ∧
    (∀ k, (63 < k → ∃ t, exec (.doeStatus k) s = .next t ∧ Responds s t 9 2 []) ∧
      (k ≤ 63 → ∃ t, exec (.doeStatus k) s = .next t ∧ Responds s t 9 0
        (leBytes 4 (match (slotOf s k).st with | .free => 0 | .loading => 1 | .sealed => 2 | .destroying => 3) ++ leBytes 4 (slotOf s k).taint.length ++
          bvBytes (scrubStat s) ++ bvBytes s.fab.incarn ++ leBytes 4 (if s.power = .tripped then 1 else 0) ++ Config.kxKey s.fab.incarn))) ∧
    (∀ pcid nonce user, nonce.length = 48 → user.length = 64 → ∃ t, exec (.quote pcid nonce user) s = .next t ∧ Responds s t 10 0 (quoteBytes s pcid.toNat nonce user)) ∧
    (∀ pcid nonce user, (nonce.length ≠ 48 ∨ user.length ≠ 64) → ∃ t, exec (.quote pcid nonce user) s = .next t ∧ Responds s t 10 2 []) ∧
    (∀ x, (x.length ≠ 48 → ∃ t, exec (.extend x) s = .next t ∧ Responds s t 11 2 []) ∧
      (x.length = 48 → ∃ t s1, exec (.extend x) s = .next t ∧ Responds s1 t 11 0 [] ∧ { s1 with arm := { s1.arm with meas := s.arm.meas } } = s ∧
        ∀ (j : Nat) (m : BitVec 384), s.arm.meas[j]? = some m → s1.arm.meas[j]? = some (if j = 7 then measured m x else m))) ∧
    (∀ x, x.port < 32 → x.agtilux = true → IncOk s x.peer x.incarn → ∃ t s1, exec (.linkattest x) s = .next t ∧ Responds s1 t 12 0 [] ∧
      link s1 x.port = (link s x.port ||| 2) &&& 0xFFFFFFFB ∧ (peerOf s1 x.peer).incarn = x.incarn ∧ aget false s1.fab.planeDown x.port = false) ∧
    (∀ x, x.port < 32 → x.agtilux = false → ∃ t s1, exec (.linkattest x) s = .next t ∧ Responds s1 t 12 0 [] ∧ LinkIs { s with outbox := s.outbox ++ [.keyExchange x.port] } s1 x.port (link s x.port &&& 0xFFFFFFFD)) ∧
    (∀ ep blob, ∃ t s1, exec (.uekey ep blob) s = .next t ∧ Responds s1 t 13 0 [] ∧ { s1 with fab := { s1.fab with endpoints := s.fab.endpoints } } = s ∧
      ∀ j, aget epNone s1.fab.endpoints j = if j = ep.toNat then { aget epNone s.fab.endpoints j with key := Config.ueKey blob } else aget epNone s.fab.endpoints j) ∧
    (∃ t s1, exec .debugnonce s = .next t ∧ Responds s1 t 14 0 s1.arm.debugNonce ∧ s1.arm.debugNonce.length = 48 ∧ { s1 with nonce := s.nonce, arm := { s1.arm with debugNonce := s.arm.debugNonce } } = s) ∧
    (∀ tok, tok.length = 160 → ((∃ e ∈ s.chip.queues, e.2.en = true) ∨ unitPlaced s = true ∨ tokenOk s tok = false) → ∃ t, exec (.debug tok) s = .next t ∧ Responds s t 15 3 []) ∧
    (∀ tok, tok.length = 160 → (∀ e ∈ s.chip.queues, e.2.en = false) → unitPlaced s = false → tokenOk s tok = true → ∃ t s1, exec (.debug tok) s = .next t ∧ Responds s1 t 15 0 [] ∧
      s1.arm.unlocked = true ∧ s1.arm.slots = [] ∧ (∀ a, rd8 s1.ram.hbm a = 0) ∧ s1.ram.tags = [] ∧ s1.rev.bitmap = [] ∧
      (∀ r, domainByte s r ≠ 0 → domainByte s1 r = 0x80) ∧
      ∀ (j : Nat) (m : BitVec 384), s.arm.meas[j]? = some m → s1.arm.meas[j]? = some (if j = 6 then measured m ([0x64, 0x65, 0x62, 0x75, 0x67] ++ (tok.drop 8).take 4) else m)) ∧
    (∀ p, ∃ t s1, exec (.pstate p) s = .next t ∧ Responds s1 t 16 0 [] ∧ s1.arm.req = p ∧ { s1 with power := s.power, arm := { s1.arm with cur := s.arm.cur, req := s.arm.req } } = s ∧
      (p ≠ 3 → s.power = .run → s1.arm.cur = p ∧ s1.power = .run) ∧ (p = 3 → s1.arm.cur = s.arm.cur ∧ s1.power = s.power) ∧ (p ≠ 3 → s.power = .p3 → s1.power = .p3Leaving)) ∧
    (s.power ≠ .tripped → ∃ t, exec .reset s = .next t ∧ Responds (warmReset s) t 17 0 []) ∧
    (s.power = .tripped → ∃ t, exec .reset s = .next t ∧ Responds s t 17 3 [])

/-- Power states and resets (R436, R446, R452, R464, R468 to R470): P3 is entered only when no unit is placed and no engine thread runs; its exit
takes the state asked for; a trip stops the chip and counts TRIPLIFE; the counters go to flash. Every reset leaves the reset state with the
next incarnation, host memory as it was and the lifetime counters of flash; a warm one also keeps the counts of LINKSTAT and the scrub record. -/
def Sys2Proof.Claims.PowerAndReset : Prop :=
  ∀ (s : State),
    (s.arm.req = 3 → s.power = .run → ¬ Busy s → exec .p3Entry s = .next { s with power := .p3, arm := { s.arm with cur := 3 } }) ∧
    ((s.arm.req ≠ 3 ∨ s.power ≠ .run ∨ Busy s) → exec .p3Entry s = .next s) ∧
    (s.power = .p3Leaving → s.arm.req ≠ 3 → exec .p3ExitComplete s = .next { s with power := .run, arm := { s.arm with cur := s.arm.req } }) ∧
    (s.power ≠ .p3Leaving → exec .p3ExitComplete s = .next s) ∧
    (s.power ≠ .off → s.power ≠ .tripped → ∃ t, exec .thermalTrip s = .next t ∧ t.power = .tripped ∧ aget 0 t.arm.life 5 = satInc (aget 0 s.arm.life 5) ∧
      ((s.fab.linkstat.map (·.1)).Nodup → ∀ k, link t k = link s k &&& 0xFFFFFFFC) ∧ { t with power := s.power, arm := s.arm, fab := { t.fab with linkstat := s.fab.linkstat } } = s) ∧
    ((s.power = .off ∨ s.power = .tripped) → exec .thermalTrip s = .next s) ∧
    exec .lifetimeCounterFlush s = .next { s with arm := { s.arm with flash := s.arm.life } } ∧
    (s.power ≠ .off → ∃ t, exec .hourPowered s = .next t ∧ { t with arm := s.arm } = s ∧
      ∀ k, aget 0 t.arm.life k = if k = 7 then satInc (aget 0 s.arm.life 7) else aget 0 s.arm.life k) ∧
    (∃ t, exec .coldReset s = .next t ∧ t.ram.host = s.ram.host ∧ t.arm.life = s.arm.flash ∧ t.arm.flash = s.arm.flash ∧
      t.fab.incarn = (if s.fab.incarn = 0xFFFFFFFF then 1 else s.fab.incarn + 1) ∧
      { t with ram := { t.ram with host := State.reset.ram.host }, fab := { t.fab with incarn := State.reset.fab.incarn },
               arm := { t.arm with life := State.reset.arm.life, flash := State.reset.arm.flash }, agenda := State.reset.agenda,
               nonce := State.reset.nonce, uid := State.reset.uid, outbox := State.reset.outbox } = State.reset) ∧
    (s.power ≠ .off → s.power ≠ .tripped → ∃ t, exec .warmReset s = .next t ∧ t.ram.host = s.ram.host ∧ t.arm.life = s.arm.life ∧ t.arm.flash = s.arm.life ∧
      t.fab.incarn = (if s.fab.incarn = 0xFFFFFFFF then 1 else s.fab.incarn + 1) ∧ ((s.fab.linkstat.map (·.1)).Nodup → ∀ k, link t k = link s k &&& 0xFFFFFFF0) ∧
      (∀ r, domainByte s r = 0x80 → domainByte t r = 0x80) ∧
      (s.arm.scrub.active = true → t.arm.scrub = { s.arm.scrub with resumed := true, prog := 0 }) ∧
      { t with ram := { t.ram with host := State.reset.ram.host }, fab := { t.fab with incarn := State.reset.fab.incarn, linkstat := State.reset.fab.linkstat },
               arm := { t.arm with life := State.reset.arm.life, flash := State.reset.arm.flash, domains := State.reset.arm.domains, scrub := State.reset.arm.scrub },
               agenda := State.reset.agenda, nonce := State.reset.nonce, uid := State.reset.uid, outbox := State.reset.outbox } = State.reset) ∧
    ((s.power = .off ∨ s.power = .tripped) → exec .warmReset s = .next s) ∧
    (∃ t, exec .powerRemoved s = .next t ∧ t.power = .off ∧ t.ram.host = s.ram.host ∧ t.arm.flash = s.arm.flash ∧ t.ram.hbm = State.reset.ram.hbm ∧
      t.arm.slots = State.reset.arm.slots ∧ t.grps = State.reset.grps ∧ t.fab.incarn = s.fab.incarn)

/-- Inputs (R67, R243, R245, R246, R248, R267, R269, R328, R400, R410): a corrected error is counted and an uncorrectable one stays with its storage until
that is written; the code cache of a core gives up its lines; a fill without an evictable way closes the executing window behind an older one, and one
that meets read-set bits in every way rolls back the youngest window with bits there, which as the group's own executing window gives SOLO mode; a bump
is acknowledged, a hold given back; the owed event of a round word is made; the host masks its vector. -/
def Sys2Proof.Claims.InputEffects : Prop :=
  ∀ (s : State),
    (∃ t, runInput s .corrected = t ∧ { t with arm := s.arm } = s ∧ ∀ k, aget 0 t.arm.life k = if k = 2 then satInc (aget 0 s.arm.life 2) else aget 0 s.arm.life k) ∧
    (∀ d, { runInput s (.damage d) with bad := s.bad } = s ∧ ∀ e, e ∈ (runInput s (.damage d)).bad ↔ e ∈ s.bad ∨ e = d) ∧
    (∀ (l : Loc) (d : List Byte) (k : Nat), (s.bad.filter fun x => match x with | .byte .. => true | _ => false) = [.byte l k] → l = resolve s.ram l → d.length = 1 →
      spoilAt s l 1 = some k ∧ spoilAt (putMem s 0 l 0 d) l 1 = none) ∧
    (∀ core, { runInput s (.codeDrop core) with codeCache := s.codeCache } = s ∧ ∀ pcid va, pcid < 2 ^ 16 → va < 2 ^ 58 → aget 0 (runInput s (.codeDrop core)).codeCache (codeKey core pcid va) = 0) ∧
    (∀ core slot g line, grpAt s core slot = some g → 2 ≤ g.wins.length →
      runInput s (.l1Full core slot line) = setGrp s { g with wins := g.wins.map fun w => { w with closed := true } }) ∧
    (∀ core slot g w line, grpAt s core slot = some g → g.wins = [w] → line ∈ w.reads → ∃ v, runInput s (.l1Full core slot line) = setGrp s { g with wins := [v] } ∧
      { v with passed := w.passed } = w ∧ line ∈ v.passed) ∧
    (∀ core slot g w line, grpAt s core slot = some g → grpOf s g.uid = some g → g.wins = [w] → w.closed = false → w.reads = [line] → g.live = true →
      (∀ h ∈ s.grps, h.uid ≠ g.uid → ∀ v ∈ h.wins, line ∉ v.reads) → (s.grps.filter fun h => h.uid = g.uid) = [g] → g.core = core →
      ∃ h, grpOf (runInput s (.l2Full core slot [line])) g.uid = some h ∧ h.wins = [] ∧ h.solo = some 256 ∧ { h.g with b := w.snap.b } = w.snap) ∧
    (∀ node sub, (runInput s (.bumpAck node sub)).fab.bumps = (s.fab.bumps.map fun b => if b.1 = sub then (b.1, b.2.erase node) else b).filter fun b => !b.2.isEmpty) ∧
    (∀ node sub h, (s.fab.holds.find? fun x => x.node = node && x.off = sub) = some h → runInput s (.release node sub) = { s with fab := { s.fab with holds := s.fab.holds.erase h } }) ∧
    (∀ e rest s1 l, s.fab.owed = e :: rest → homePlace s { winNone.d with notify := e.notify, pcid := e.pcid } e.notify 3 8 = .ok s1 l → ∃ v,
      runInput s .roundEvent = putMem { s1 with fab := { s1.fab with owed := rest } } winName l 0 (leBytes 8 v) ∧
      (∀ n, e.op = .count n false → v = (ramNat s1.ram l 8 / 2 ^ 63 * 2 ^ 63 + (ramNat s1.ram l 8 % 2 ^ 63 + n) % 2 ^ 63) % 2 ^ 64) ∧
      (e.op = .fail → v = (ramNat s1.ram l 8 % 2 ^ 63 + 2 ^ 63) % 2 ^ 64)) ∧
    (∀ wg pos, ∃ t, runInput s (.wrongColumn wg pos) = t ∧ { t with wgs := s.wgs } = s) ∧
    ∀ m, runInput s (.vectorMask m) = { s with chip := { s.chip with msixMask := m } }

/-- The host (R235, R245, R406 to R408, R437, R451): a CXL.mem read of open memory answers with its line, which the host may hold, and elsewhere
and for a damaged line with poison; a write puts the line, and is discarded elsewhere; either waits for a store that has not drained. A snoop that
writes invalidates the device's copy of a host line, one that reads demotes a copy that the device holds alone; the host gives a line up; IDE_KM seals the CXL link when both protocols are keyed. -/
def Sys2Proof.Claims.HostAccess : Prop :=
  ∀ (s : State) (pa a : Nat) (lines : List Loc), a = pa / 64 * 64 → lines = linesOf s.ram { sp := .hbm, a := a } 64 →
    ((isHbm a = false ∨ regionDom s a ≠ 0) → exec (.cxlMemRead pa) s = .next { s with outbox := s.outbox ++ [.cxl a (List.replicate 64 0) true] } ∧
      ∀ d, exec (.cxlMemWrite pa d) s = .next s) ∧
    (isHbm a = true → regionDom s a = 0 → (heldLine s 0 false lines = true → exec (.cxlMemRead pa) s = .next s) ∧
      (heldLine s 0 true lines = true → ∀ d, exec (.cxlMemWrite pa d) s = .next s)) ∧
    (isHbm a = true → regionDom s a = 0 → heldLine s 0 false lines = false → spoilAt s { sp := .hbm, a := a } 64 ≠ none →
      exec (.cxlMemRead pa) s = .next { s with outbox := s.outbox ++ [.cxl a (List.replicate 64 0) true] }) ∧
    (isHbm a = true → regionDom s a = 0 → heldLine s 0 false lines = false → spoilAt s { sp := .hbm, a := a } 64 = none →
      ∃ t, exec (.cxlMemRead pa) s = .next t ∧ t.outbox = s.outbox ++ [.cxl a (ramRead s.ram { sp := .hbm, a := a } 64) false] ∧
        { t with outbox := s.outbox, hostHeld := s.hostHeld } = s ∧ aget 0 t.hostHeld (a / 64) = 1 ∧ ∀ k, k ≠ a / 64 → aget 0 t.hostHeld k = aget 0 s.hostHeld k) ∧
    (isHbm a = true → regionDom s a = 0 → heldLine s 0 true lines = false →
      ∀ d : List Byte, d.length = 64 → ∃ t, exec (.cxlMemWrite pa d) s = .next t ∧ t.ram.host = s.ram.host ∧
        ((∀ m ∈ s.ram.maps, a + 64 ≤ m.pa ∨ m.pa + m.len ≤ a) → t.ram.pads = s.ram.pads ∧ ramRead t.ram { sp := .hbm, a := a } 64 = d ∧
          ∀ b, (b < a ∨ a + 64 ≤ b) → rd8 t.ram.hbm b = rd8 s.ram.hbm b)) ∧
    (a < 2 ^ 48 → heldLine s 0 true (linesOf s.ram { sp := .host, a := a } 64) = false →
      ∀ d : List Byte, d.length = 64 → ∃ t, exec (.hostSnoop pa (some d)) s = .next t ∧ ramRead t.ram { sp := .host, a := a } 64 = d ∧ t.ram.hbm = s.ram.hbm ∧
        aget 0 t.hostMesi (a / 128) = 0 ∧ ∀ b, (b < a ∨ a + 64 ≤ b) → rd8 t.ram.host b = rd8 s.ram.host b) ∧
    (a < 2 ^ 48 → heldLine s 0 false (linesOf s.ram { sp := .host, a := a } 64) = false →
      (aget 0 s.hostMesi (a / 128) < 2 → exec (.hostSnoop pa none) s = .next s) ∧
      (2 ≤ aget 0 s.hostMesi (a / 128) → ∃ t, exec (.hostSnoop pa none) s = .next t ∧ t.ram = s.ram ∧ aget 0 t.hostMesi (a / 128) = 1 ∧
        ∀ (i : Nat) (g h : Grp), s.grps[i]? = some g → t.grps[i]? = some h → (∀ w ∈ g.wins, w.hit = false) → ∀ (j : Nat) (w v : Window),
          g.wins[j]? = some w → h.wins[j]? = some v → g.uid ≠ 0 → (v.hit = true ↔ ∃ l ∈ linesOf s.ram { sp := .host, a := a } 64, l ∈ w.reads))) ∧
    (∀ d, 2 ^ 48 ≤ a ∨ heldLine s 0 d.isSome (linesOf s.ram { sp := .host, a := a } 64) = true → exec (.hostSnoop pa d) s = .next s) ∧
    (∃ t, exec (.backInvalidationResponse pa) s = .next t ∧ { t with hostHeld := s.hostHeld } = s ∧ ∀ k, aget 0 t.hostHeld k = if k = pa / 64 then 0 else aget 0 s.hostHeld k) ∧
    ∀ c m, ∃ t s1, exec (.ideKm c m) s = .next t ∧ Responds s1 t 0x100 0 [] ∧
      LinkIs { s with arm := { s.arm with ideCache := c, ideMem := m } } s1 35 (if c = true ∧ m = true then link s 35 ||| 2 else link s 35 &&& 0xFFFFFFFD)

/-! Encodings, a step, an invariant and reset. -/

namespace Sys2Proof.Claims

/-- A lane header with only a destination and sources A and B. -/
def hdrAB (d : Dst) (a b : Src) : LaneHdr := { dst := d, lat := none, nowb := false, a := a, b := b, c := .vreg 0 false false, pred := 0, neg := false }

/-- What step starts from when the turn at the head of its agenda is taken. -/
def turnOf (s : State) (rest : List Turn) : State := { s with agenda := rest, actor := .none }

/-- The turn and the rest of the agenda that the next step takes: the head, or a turn that nothing names where none is listed. -/
def Takes (s : State) (t : Turn) (s0 : State) : Prop :=
  (∃ rest, s.agenda = t :: rest ∧ s0 = turnOf s rest) ∨
  (s.agenda = [] ∧ t = Config.freeTurn s.nonce ∧ s0 = { s with nonce := s.nonce + 1, actor := .none })

/-- The split x of group g in slot `slot` of core `core` is the one that issues (R83): no instruction of the group is between two of its events. -/
def IssuesNext (s : State) (core slot : Nat) (g : Grp) (x : Split) : Prop :=
  grpAt s core slot = some g ∧ attesting g = false ∧ lanePart g = false ∧ accessOut s g = false ∧ performer s g ≠ some none ∧ pickSplit s g = some x

/-- A turn of a unit that runs instruction i in state s: exec of i, and then what the turn notes for the choice of the next split (R83, R241). -/
noncomputable def turn (s : State) (i : Instr) : Host.Outcome State Fault Refusal :=
  match exec i s with
  | .next t => .next (noteTurn s t)
  | r => r

/-- What every step keeps: device and host memory in canonical form, and an incarnation that is not 0 (R446). -/
def Kept (s : State) : Prop := Safety.memOk s = true ∧ s.fab.incarn ≠ 0

end Sys2Proof.Claims

/-- Words that the spec writes out decode to the instructions that they stand for (R37, R40, R62, R63 and the examples of spec/02 to spec/15). -/
def Obligations.SpecWordsDecode : Prop :=
  decodeScalar 0x44287FEC = .ok (.addi 5 3 (-20)) ∧ decodeScalar 0x644BFD00 = .ok (.lui 9 0x3FD00) ∧
  decodeScalar 0xCA519000 = .ok (.csetbi 5 3 4096) ∧ decodeScalar 0xAE018A02 = .ok (.binit 3 5 true false) ∧
  decodeScalar 0xB4018007 = .ok (.waitph 3 0 7) ∧ decodeScalar 0xE0000001 = .ok (.trap 1) ∧ decodeScalar 0x20000000 = .ok .exit ∧
  decodeScalar 0xFFFFFFFF = .error 1 ∧
  decodeLane 256 true 0x00C016801E00940003800000 = .ok (.iadd { dst := .vreg 5, lat := some 1, nowb := false, a := .vreg 7 true false, b := .vreg 9 false true, c := .vreg 0 false false, pred := 3, neg := true } { ty := .dflt, rnd := .rne, ftz := false, sat := false, x := 0 }) ∧
  decodeLane 256 true 0x40C028002C00CB2140010000 = .ok (.ffma { hdrAB (.vreg 10) (.vreg 11 false false) (.vreg 12 true false) with c := .special 133 } { ty := .dflt, rnd := .ru, ftz := false, sat := false, x := 0 }) ∧
  decodeLane 256 true 0x8200100006C0200000000000 = .ok (.vcderive (hdrAB (.vreg 4) (.vreg 1 true false) (.special 2)) 0) ∧
  decodeLane 256 true 0x924000000400300000340100 = .ok (.red (hdrAB (.vreg 0) (.vreg 1 false false) (.vreg 3 false false)) { ty := .f32, scope := .dflt, atom := .none, x := 2 }) ∧
  decodeLane 256 true 0xB012000040C080000041C000 = .ok (.mloop (hdrAB (.qreg 128) (.vreg 16 false false) (.special 8)) 0x8380) ∧
  decodeCe 0x1803800000000000 0 0 = .ok (.ewait { s := 0, d := 0, k := 14, nb := false, t := 0, x := 0, ix := false, m := 0, l := 0 }) ∧
  decodeQueue 0 = .ok (.qnop false)

/-- The word that the encoder gives for a well-formed scalar instruction is decoded to that instruction, with every operand, and only a
well-formed instruction is decoded from a word, which the encoder gives back (R37, R39). -/
def Obligations.ScalarRoundTrip : Prop :=
  (∀ (i : Instr) (w : Word), i.wf = true → encodeScalar i = some w → decodeScalar w = .ok i) ∧
  ∀ (w : Word) (i : Instr), decodeScalar w = .ok i → i.wf = true ∧ encodeScalar i = some w

/-- The lane word, the words of a CE command and the queue record that the encoder gives for a well-formed instruction are decoded to that
instruction, with every operand (R40, R61 to R63). -/
def Obligations.UnitRoundTrip : Prop :=
  ∀ i : Instr, i.wf = true →
    (∀ w, encodeLane i = some w → decodeLane 256 true w = .ok i) ∧
    (∀ ws, encodeCe i = some ws → decodeCe (ws.getD 0 0) (ws.getD 1 0) (ws.getD 2 0) = .ok i ∧ ws.length = ceLen (ceOp (ws.getD 0 0))) ∧
    ∀ r, encodeQueue i = some r → decodeQueue r = .ok i

/-- A step takes the next turn and runs exec on the instruction that the turn's unit decodes (R65, R83, R89, R231, R232, R363, R379, R382, R384): the
scalar word at the PCC of the split that issues, from memory or a code cache; the lane word at the head of a lane queue; the command at a list
counter, or a data command of a list under way; the record at the read index of the queue whose turn it is; an event; an input. A word or record
that is not decoded is run as its own row, and a chip that does not run takes no turn of a unit. A turn changes nothing else but its notes for
the choice of the next split. The order of the agenda is the model's own (log 1). -/
def Obligations.StepRunsDecoded : Prop :=
  (∀ s t : State, { noteTurn s t with performing := t.performing, waiting := t.waiting } = t) ∧
  ∀ (s s0 : State) (t : Turn), Takes s t s0 →
    (∀ i, t = .event i → isEvent i = true → eventOn s.power i = true → step s = exec i s0) ∧
    (∀ i, t = .event i → (isEvent i = false ∨ eventOn s.power i = false) → step s = .next s0) ∧
    (∀ x, t = .input x → step s = .next (if s.power = .off then s0 else runInput s0 x)) ∧
    ((∀ i, t ≠ .event i) → (∀ x, t ≠ .input x) → s.power ≠ .run → step s = .next s0) ∧
    (s.power = .run → ∀ (core slot : Nat) (g : Grp) (x : Split) (u : State), t = .slot core slot → IssuesNext s0 core slot g x → u = freshRound s0 g →
      (∀ f, fetchCheck x.pcc x.pc = .error f → ∃ v, v = { u with actor := .split g.core g.slot x.idx 0 } ∧
        step s = turn v (.scalarFetchFault f.kind f.detail (BitVec.ofNat 64 f.addr) f.home)) ∧
      (fetchCheck x.pcc x.pc = .ok () → ∀ (s1 : State) (w : Word), fetchWord u g x.pcc x.pc = .ok s1 w →
        ∃ s2, s2 = { dropFetch s1 g.uid x.pc with actor := .split g.core g.slot x.idx w } ∧
          (∀ i, decodeScalar w = .ok i → step s = turn s2 i) ∧ ∀ c, decodeScalar w = .error c → step s = turn s2 (.illegalScalarWord w c)) ∧
      (∀ (s1 : State) (l : Loc) (lf : Option Leaf), target u (agtOf u g) x.pcc x.pc accFetch 0 (gangWg u g.gang) = .ok s1 (.here l lf) →
        aget 0 s1.codeCache (codeKey g.core (agtOf u g).pcid x.pc) = 0 → spoilAt s1 l 4 = none → fetchWord u g x.pcc x.pc =
          .ok { s1 with codeCache := aset 0 s1.codeCache (codeKey g.core (agtOf u g).pcid x.pc) (ramNat s1.ram l 4 + 1) } (BitVec.ofNat 32 (ramNat s1.ram l 4)))) ∧
    (s.power = .run → ∀ (core slot : Nat) (x : LX) (u : State), t = .lane core slot → u = { s0 with actor := .lane core slot } → actorLane u = some x →
      attesting x.g = false → accessOut u x.g = false → (performer u x.g = none ∨ performer u x.g = some none) → pipeHeld u x.g = false →
      blockCode x.g.regs (accsOf u x.g) x.b.words x.n = none → ∀ i, decodeLane x.g.regs (accsOf u x.g) x.w = .ok i → step s = turn u i) ∧
    (s.power = .run → ∀ (die engine ctx : Nat) (l : CeList) (s1 s2 s3 : State) (w0 w1 w2 : DWord), t = .ce die engine ctx none → ceAt s0 die engine ctx = some l →
      l.waiting = false → l.st ≠ .stopped → ceFetch s0 l l.pc = .ok s1 w0 → ceFetchRest s1 l w0 = .ok s2 (w1, w2) →
      s3 = modCe { dropAns s2 l.uid with actor := .ce die engine ctx none } l.uid (fun y => { y with word := w0, word1 := w1, word2 := w2 }) →
      (∀ i, decodeCe w0 w1 w2 = .ok i → step s = turn s3 i) ∧ ∀ d, decodeCe w0 w1 w2 = .error d → step s = turn s3 (.unassignedCeCommand w0 0 kIllegal d)) ∧
    (s.power = .run → ∀ (die engine ctx k : Nat) (l : CeList) (c : CeCmd) (i : Instr), t = .ce die engine ctx (some k) → ceAt s0 die engine ctx = some l →
      l.cmds[k]? = some c → c.asking = false → c.stop = none → decodeCe c.w0 c.w1 c.w2 = .ok i →
      step s = turn { s0 with actor := .ce die engine ctx (some k) } i) ∧
    (s.power = .run → ∀ (q : Nat) (sq u : State), t = .queue q → sq = { queueRetry s0 q with actor := .queue q } → q < 64 → (queOf sq q).en = true →
      ((queOf sq q).state = 1 ∨ (queOf sq q).state = 2) → (queOf sq q).rd ≠ (queOf sq q).wr → pushing sq q = false → servedFirst sq q = false →
      u = { sq with chip := { sq.chip with lastServed := q } } →
      ((ctxOf u (queOf sq q).pcid).valid = false → lateOp u q (queOf sq q) = 1 ∨ lateOp u q (queOf sq q) = 2 →
        step s = turn u (.unassignedQueueOp (BitVec.ofNat 8 (lateOp u q (queOf sq q))) 12 0)) ∧
      ∀ (r : Nat) (s1 : State), (ctxOf u (queOf sq q).pcid).valid = true → ringRecord u q (queOf sq q) = .ok s1 r →
        ∀ i, decodeQueue (BitVec.ofNat 256 r) = .ok i → step s = turn s1 i)

/-- Every step that answers a next state keeps device memory and host memory in canonical form and the node's incarnation other than 0 (R446). -/
def Obligations.InvariantKept : Prop := ∀ s t, Kept s → step s = .next t → Kept t

/-- The machine after reset (R196, R376, R400, R402, R432, R436, R446, R468, R470, R471): the chip runs with no group, launch, engine thread or valid
context; PGRACE is 50, the sweep of epoch 0 is done, the monitors and queues are off, every region is domain 0, no slot is bound, INCARN is 1, and
memory and its tags read 0. The values that the spec leaves open are the model's own (log 4). -/
def Obligations.ResetState : Prop :=
  Kept State.reset ∧ State.reset.power = .run ∧ State.reset.grps = [] ∧ State.reset.launches = [] ∧ State.reset.tces = [] ∧ State.reset.ces = [] ∧
  State.reset.chip.pgrace = 50 ∧ State.reset.rev.sweepDone = true ∧ State.reset.rev.epoch = 0 ∧ State.reset.fab.nodeSet = false ∧ State.reset.fab.incarn = 1 ∧
  (∀ p, (ctxOf State.reset p).valid = false) ∧ (∀ q, (queOf State.reset q).en = false) ∧ (∀ r, domainByte State.reset r = 0) ∧
  (∀ a, rd8 State.reset.ram.hbm a = 0) ∧ (∀ a, rd8 State.reset.ram.host a = 0) ∧ (∀ a, aget false State.reset.ram.tags a = false) ∧
  (∀ k, (slotOf State.reset k).st = .free) ∧ State.reset.arm.scrub.active = false ∧ State.reset.arm.unlocked = false ∧ State.reset.arm.cur = 0

/-! Statements that hold together. -/

/-- Together: ScalarIntegerResult; MaskClaimWaits; DivideResult (their docstrings say what each states and by which rules). -/
def Obligations.ScalarInteger : Prop := Claims.ScalarIntegerResult ∧ Claims.MaskClaimWaits ∧ Claims.DivideResult

/-- Together: ScalarTransferResult; SpecialRegisterWrite (their docstrings say what each states and by which rules). -/
def Obligations.ScalarTransfer : Prop := Claims.ScalarTransferResult ∧ Claims.SpecialRegisterWrite

/-- Together: BranchResult; BranchTargetFault; DivideSplits (their docstrings say what each states and by which rules). -/
def Obligations.BranchAndDivide : Prop := Claims.BranchResult ∧ Claims.BranchTargetFault ∧ Claims.DivideSplits

/-- Together: CallResult; JumpResult; YieldResult (their docstrings say what each states and by which rules). -/
def Obligations.CallJumpYield : Prop := Claims.CallResult ∧ Claims.JumpResult ∧ Claims.YieldResult

/-- Together: LaneCodeBase; BlockEnqueued (their docstrings say what each states and by which rules). -/
def Obligations.LaneBlockEnqueued : Prop := Claims.LaneCodeBase ∧ Claims.BlockEnqueued

/-- Together: LaneRegisterRead; LaneRegisterWrite (their docstrings say what each states and by which rules). -/
def Obligations.LaneRegisterTransfer : Prop := Claims.LaneRegisterRead ∧ Claims.LaneRegisterWrite

/-- Together: MergeResult; ExitLeavesSplits; ExitEndsGroup (their docstrings say what each states and by which rules). -/
def Obligations.MergeAndExit : Prop := Claims.MergeResult ∧ Claims.ExitLeavesSplits ∧ Claims.ExitEndsGroup

/-- Together: CompactAlone; CompactMeets; UncompactResult (their docstrings say what each states and by which rules). -/
def Obligations.CompactAndUncompact : Prop := Claims.CompactAlone ∧ Claims.CompactMeets ∧ Claims.UncompactResult

/-- Together: CapabilityDerivation; DerivationGrantsNothing (their docstrings say what each states and by which rules). -/
def Obligations.CapabilityDerivation : Prop := Claims.CapabilityDerivation ∧ Claims.DerivationGrantsNothing

/-- Together: RevokeResult; SweepResult (their docstrings say what each states and by which rules). -/
def Obligations.RevokeAndSweep : Prop := Claims.RevokeResult ∧ Claims.SweepResult

/-- Together: ScalarLoadResult; ScalarLoadDirect; ScalarStoreResult; CapabilityStoreRule; ScalarAccessTraps (their docstrings say what each states and by which rules). -/
def Obligations.ScalarAccess : Prop := Claims.ScalarLoadResult ∧ Claims.ScalarLoadDirect ∧ Claims.ScalarStoreResult ∧ Claims.CapabilityStoreRule ∧ Claims.ScalarAccessTraps

/-- Together: WindowBuffers; StorePerformed (their docstrings say what each states and by which rules). -/
def Obligations.WindowHoldsStores : Prop := Claims.WindowBuffers ∧ Claims.StorePerformed

/-- Together: TranslationRegisters; UnmapResult; MapResult; MapKeepsContents (their docstrings say what each states and by which rules). -/
def Obligations.TranslationAndMapping : Prop := Claims.TranslationRegisters ∧ Claims.UnmapResult ∧ Claims.MapResult ∧ Claims.MapKeepsContents

/-- Together: FlushAndUnpin; CodeInvalidate; PinResult; PrefetchAndEmptyRange (their docstrings say what each states and by which rules). -/
def Obligations.CacheOperation : Prop := Claims.FlushAndUnpin ∧ Claims.CodeInvalidate ∧ Claims.PinResult ∧ Claims.PrefetchAndEmptyRange

/-- Together: DiscardResult; DiscardedLine (their docstrings say what each states and by which rules). -/
def Obligations.DiscardResult : Prop := Claims.DiscardResult ∧ Claims.DiscardedLine

/-- Together: OrderingResult; DropResult (their docstrings say what each states and by which rules). -/
def Obligations.OrderingAndDrop : Prop := Claims.OrderingResult ∧ Claims.DropResult

/-- Together: TensorCopyIssued; ListIssued (their docstrings say what each states and by which rules). -/
def Obligations.EngineIssued : Prop := Claims.TensorCopyIssued ∧ Claims.ListIssued

/-- Together: SpawnResult; JoinDecrement (their docstrings say what each states and by which rules). -/
def Obligations.TaskTree : Prop := Claims.SpawnResult ∧ Claims.JoinDecrement

/-- Together: TrapInstructions; TrapEntry; TrapUnhandled (their docstrings say what each states and by which rules). -/
def Obligations.TrapTaken : Prop := Claims.TrapInstructions ∧ Claims.TrapEntry ∧ Claims.TrapUnhandled

/-- Together: GangSave; PageMapped (their docstrings say what each states and by which rules). -/
def Obligations.SaveAndPageMapped : Prop := Claims.GangSave ∧ Claims.PageMapped

/-- Together: PrivilegeChecked; SystemRegisterResult (their docstrings say what each states and by which rules). -/
def Obligations.SystemRegisterAccess : Prop := Claims.PrivilegeChecked ∧ Claims.SystemRegisterResult

/-- Together: ClusterClearAndScrub; AttestResult (their docstrings say what each states and by which rules). -/
def Obligations.ClusterAndAttest : Prop := Claims.ClusterClearAndScrub ∧ Claims.AttestResult

/-- Together: LaneReduction; TileStore (their docstrings say what each states and by which rules). -/
def Obligations.LaneReductionAndTile : Prop := Claims.LaneReduction ∧ Claims.TileStore

/-- Together: MatrixForked; MatrixContext (their docstrings say what each states and by which rules). -/
def Obligations.MatrixForkedAndContext : Prop := Claims.MatrixForked ∧ Claims.MatrixContext

/-- Together: CeControlAndSignal; CeDataCommand (their docstrings say what each states and by which rules). -/
def Obligations.CollectiveCommand : Prop := Claims.CeControlAndSignal ∧ Claims.CeDataCommand

/-- Together: QueueRecord; QueueAccess; QueueEvents (their docstrings say what each states and by which rules). -/
def Obligations.QueueProcessing : Prop := Claims.QueueRecord ∧ Claims.QueueAccess ∧ Claims.QueueEvents

/-- Together: SlotEvents; WindowEvents (their docstrings say what each states and by which rules). -/
def Obligations.SlotAndWindowEvents : Prop := Claims.SlotEvents ∧ Claims.WindowEvents

/-- Together: RegisterBlock; EpochAndMonitors (their docstrings say what each states and by which rules). -/
def Obligations.ChipRegisters : Prop := Claims.RegisterBlock ∧ Claims.EpochAndMonitors

/-- Together: LinkEvents; RequestEvents (their docstrings say what each states and by which rules). -/
def Obligations.LinkAndRequestEvents : Prop := Claims.LinkEvents ∧ Claims.RequestEvents

/-- Together: ProtectedContexts; PageRequests (their docstrings say what each states and by which rules). -/
def Obligations.ProtectedPages : Prop := Claims.ProtectedContexts ∧ Claims.PageRequests

/-- Together: PowerAndReset; HostAccess; InputEffects (their docstrings say what each states and by which rules). -/
def Obligations.PowerAndHost : Prop := Claims.PowerAndReset ∧ Claims.HostAccess ∧ Claims.InputEffects
end

