-- ==== Sys2Proof/Laws/AList.lean ====
section
/-! SUPPORT. Sparse maps and memory: what a read after a write gives, and that every write keeps the canonical form. -/

namespace Sys2Proof.Machine

variable {α : Type} [DecidableEq α]

omit [DecidableEq α] in
/-- A key that is taken out reads as the default. -/
@[simp] theorem aget_adel_self {d : α} {l : AList α} {k : Nat} : aget d (adel l k) k = d := by
  induction l with
  | nil => rfl
  | cons p l ih =>
    by_cases h : p.1 = k
    · simp [adel, h]; exact ih
    · have h' : ¬ k = p.1 := fun e => h e.symm
      simpa [adel, h, aget, h'] using ih

omit [DecidableEq α] in
/-- The other keys stay. -/
theorem aget_adel_ne {d : α} {l : AList α} {k m : Nat} (hm : m ≠ k) : aget d (adel l k) m = aget d l m := by
  induction l with
  | nil => rfl
  | cons p l ih =>
    by_cases h : p.1 = k
    · have : ¬ m = p.1 := fun e => hm (e.trans h)
      simp only [adel, List.filter_cons, h, bne_self_eq_false, aget] at *
      simp only [Bool.false_eq_true, if_false, ih, if_neg hm]
    · have h' : (p.1 != k) = true := by simpa using h
      simp only [adel, List.filter_cons, h', if_true, aget] at *
      rw [ih]

/-- A read of the place written gives the value written. -/
@[simp] theorem aget_aset_self {d : α} {l : AList α} {k : Nat} {v : α} : aget d (aset d l k v) k = v := by
  induction l with
  | nil => simp only [aset]; split <;> simp_all [aget]
  | cons p l ih =>
    obtain ⟨j, w⟩ := p
    simp only [aset]
    split_ifs with c1 c2 c3 c4
    · have : ¬ k = j := by omega
      simp only [aget, if_neg this, aget_adel_self, c2]
    · simp [aget]
    · simp only [aget_adel_self, c4]
    · simp [aget]
    · simp only [aget, if_neg c3, ih]

/-- A read of another place gives what it gave. -/
theorem aget_aset_ne {d : α} {l : AList α} {k m : Nat} {v : α} (hm : m ≠ k) : aget d (aset d l k v) m = aget d l m := by
  induction l with
  | nil => simp only [aset]; split <;> simp_all [aget]
  | cons p l ih =>
    obtain ⟨j, w⟩ := p
    simp only [aset]
    split_ifs with c1 c2 c3 c4
    · simp only [aget, aget_adel_ne hm]
    · simp only [aget, if_neg hm]
    · subst c3; simp only [aget, if_neg hm, aget_adel_ne hm]
    · subst c3; simp only [aget, if_neg hm]
    · simp only [aget, ih]

/-- Both in one. -/
theorem aget_aset {d : α} {l : AList α} {k m : Nat} {v : α} : aget d (aset d l k v) m = if m = k then v else aget d l m := by
  by_cases h : m = k
  · rw [h, aget_aset_self, if_pos rfl]
  · rw [aget_aset_ne h, if_neg h]

theorem awfFrom_mono {d : α} {l : AList α} : ∀ {lo hi : Nat}, lo ≤ hi → awfFrom d hi l = true → awfFrom d lo l = true := by
  cases l with
  | nil => intros; rfl
  | cons p l =>
    intro lo hi h w
    simp only [awfFrom, Bool.and_eq_true, decide_eq_true_eq] at w ⊢
    exact ⟨⟨by omega, w.1.2⟩, w.2⟩

theorem awfFrom_adel {d : α} {l : AList α} {k : Nat} : ∀ {lo : Nat}, awfFrom d lo l = true → awfFrom d lo (adel l k) = true := by
  induction l with
  | nil => intros; rfl
  | cons p l ih =>
    intro lo w
    simp only [awfFrom, Bool.and_eq_true, decide_eq_true_eq] at w
    simp only [adel, List.filter_cons]
    split
    · simp only [awfFrom, Bool.and_eq_true, decide_eq_true_eq]; exact ⟨w.1, ih w.2⟩
    · exact awfFrom_mono (by omega) (ih w.2)

theorem awfFrom_aset {d : α} {l : AList α} : ∀ {lo k : Nat} {v : α}, awfFrom d lo l = true → lo ≤ k → awfFrom d lo (aset d l k v) = true := by
  induction l with
  | nil =>
    intro lo k v _ h
    simp only [aset]
    split <;> simp_all [awfFrom]
  | cons p l ih =>
    obtain ⟨j, w⟩ := p
    intro lo k v hw h
    simp only [awfFrom, Bool.and_eq_true, decide_eq_true_eq] at hw
    obtain ⟨⟨h1, h2⟩, h3⟩ := hw
    simp only [aset]
    split_ifs with c1 c2 c3 c4
    · simp only [awfFrom, Bool.and_eq_true, decide_eq_true_eq]
      exact ⟨⟨h1, h2⟩, awfFrom_adel h3⟩
    · simp only [awfFrom, Bool.and_eq_true, decide_eq_true_eq]
      exact ⟨⟨h, c2⟩, ⟨by omega, h2⟩, h3⟩
    · exact awfFrom_mono (by omega) (awfFrom_adel h3)
    · subst c3
      simp only [awfFrom, Bool.and_eq_true, decide_eq_true_eq]
      exact ⟨⟨h, c4⟩, h3⟩
    · simp only [awfFrom, Bool.and_eq_true, decide_eq_true_eq]
      exact ⟨⟨h1, h2⟩, ih h3 (by omega)⟩

/-- A write keeps the canonical form. -/
theorem awf_aset {d : α} {l : AList α} {k : Nat} {v : α} (h : awf d l = true) : awf d (aset d l k v) = true :=
  awfFrom_aset h (Nat.zero_le k)

/-- A byte write keeps memory canonical. -/
theorem wr8_wf {m : Memory} {a : Nat} {b : Byte} (h : m.wf = true) : (wr8 m a b).wf = true := awf_aset h

/-- A write of bytes keeps memory canonical. -/
theorem wrBytes_wf {bs : List Byte} : ∀ {m : Memory} {a : Nat}, m.wf = true → (wrBytes m a bs).wf = true := by
  induction bs with
  | nil => intro m a h; exact h
  | cons b l ih => intro m a h; exact ih (wr8_wf h)

/-- A byte after a byte write. -/
theorem rd8_wr8 {m : Memory} {a x : Nat} {b : Byte} : rd8 (wr8 m a b) x = if x = a then b else rd8 m x := aget_aset

/-- A byte outside a write reads as before. -/
theorem rd8_wrBytes_ne {bs : List Byte} : ∀ {m : Memory} {a x : Nat}, (x < a ∨ a + bs.length ≤ x) → rd8 (wrBytes m a bs) x = rd8 m x := by
  induction bs with
  | nil => intros; rfl
  | cons b l ih =>
    intro m a x hx
    simp only [List.length_cons] at hx
    rw [wrBytes, ih (by omega), rd8_wr8, if_neg (by omega)]

/-- A byte inside a write reads as written. -/
theorem rd8_wrBytes_in {bs : List Byte} : ∀ {m : Memory} {a i : Nat}, i < bs.length → rd8 (wrBytes m a bs) (a + i) = bs.getD i 0 := by
  induction bs with
  | nil => intro m a i h; simp at h
  | cons b l ih =>
    intro m a i hi
    cases i with
    | zero => rw [wrBytes, rd8_wrBytes_ne (by omega), rd8_wr8, if_pos (by omega)]; rfl
    | succ i =>
      rw [wrBytes, show a + (i + 1) = a + 1 + i by omega, ih (by simpa using hi)]
      simp

end Sys2Proof.Machine
end

