-- ==== Sys2Proof/Laws/Access.lean ====
section
/-! SUPPORT. Translation, requests to other nodes and instruction fetch leave the groups alone but for the marks of conflicts: the
write of an anchor is a write event (R204, R245). -/

namespace Sys2Proof.Machine

/-- The state of an access, however it went. -/
def Got.state {α : Type} : Got α → State
  | .ok s _ => s
  | .fault s _ => s
  | .wait s => s

/-- Groups that differ in their windows alone. -/
def Marked (s t : State) : Prop := ∃ f : Grp → List Window, t.grps = s.grps.map fun g => { g with wins := f g }

theorem Marked.of_eq {s t : State} (h : t.grps = s.grps) : Marked s t := ⟨fun g => g.wins, by rw [h]; exact (List.map_id _).symm⟩

theorem Marked.rfl {s : State} : Marked s s := .of_eq (Eq.refl s.grps)

theorem Marked.trans {s t u : State} (h : Marked s t) (k : Marked t u) : Marked s u := by
  obtain ⟨f, hf⟩ := h
  obtain ⟨e, he⟩ := k
  exact ⟨fun g => e { g with wins := f g }, by rw [he, hf, List.map_map]; rfl⟩

/-- A marked group is found by its name, with its own contents. -/
theorem Marked.grpOf {s t : State} (h : Marked s t) {u : Nat} {g : Grp} (hg : grpOf s u = some g) :
    ∃ ws, grpOf t u = some { g with wins := ws } := by
  obtain ⟨f, hf⟩ := h
  unfold Machine.grpOf at *
  rw [hf]
  refine ⟨f g, ?_⟩
  rw [List.find?_map]
  have : ((fun x : Grp => decide (x.uid = u)) ∘ fun g : Grp => { g with wins := f g }) = fun x => decide (x.uid = u) := by funext x; rfl
  rw [this, hg]
  rfl

theorem markHit_marked (s : State) (u : Nat) (ls : List Loc) : Marked s (markHit s u ls) :=
  ⟨fun g => if g.uid = u then g.wins else g.wins.map fun w => if ls.any w.reads.contains then { w with hit := true } else w, by
    unfold markHit
    dsimp only
    apply List.map_congr_left
    intro g _
    split <;> rfl⟩

theorem hitReads_marked (s : State) (p : Loc → Bool) : Marked s (hitReads s p) :=
  ⟨fun g => g.wins.map fun w => if w.reads.any p then { w with hit := true } else w, rfl⟩

theorem wrapBumps_marked (s : State) (subs : List Nat) : Marked s (wrapBumps s subs) := by
  have h : ∀ (l : List Nat) (t : State), Marked t (l.foldl bumpEpoch t) := by
    intro l
    induction l with
    | nil => intro t; exact .rfl
    | cons a l ih =>
      intro t
      refine Marked.trans ?_ (ih (bumpEpoch t a))
      exact Marked.trans (.of_eq rfl) (hitReads_marked _ _)
  exact h _ _

@[simp] theorem mend_grps (s : State) (l : Loc) (n : Nat) : (mend s l n).grps = s.grps := by
  unfold mend; split <;> rfl

/-- One write event marks windows and changes nothing else of a group. -/
theorem putMem_marked (s : State) (u : Nat) (l : Loc) (sp : BitVec 3) (b : List Byte) : Marked s (putMem s u l sp b) := by
  unfold putMem
  refine Marked.trans ?_ (markHit_marked _ _ _)
  refine Marked.trans ?_ (wrapBumps_marked _ _)
  exact .of_eq (mend_grps ..)

theorem blocked_marked {s t : State} {u : Nat} {w : Bool} {ls : List Loc} (h : blocked s u w ls = some t) : Marked s t := by
  unfold blocked at h
  split at h
  · cases h; exact .rfl
  · split at h
    · cases h; exact .rfl
    · cases h

@[simp] theorem leafFor_grps (s : State) (c : CtxDesc) (p : Nat) (pod : Bool) (va : Nat) : (leafFor s c p pod va).1.grps = s.grps := by
  unfold leafFor tlbPut tlbKeep draw
  dsimp only
  cases tlbFind s p pod va with
  | none => cases walk s c pod va <;> rfl
  | some e => cases walk s c pod va <;> dsimp only <;> repeat' (first | rfl | split)

theorem translate_marked (s : State) (ag : Agt) (pod : Bool) (va access stated : Nat) :
    Marked s (translate s ag pod va access stated).state := by
  have h : Marked s (leafFor s (ctxOf s ag.pcid) ag.pcid pod va).1 := .of_eq (leafFor_grps ..)
  unfold translate
  dsimp only
  generalize (pod && _ : Bool) = bad
  cases bad with
  | true => exact .rfl
  | false =>
    simp only [Bool.false_eq_true, if_false]
    split
    · rename_i e; rw [e] at h; exact h
    · rename_i e; rw [e] at h
      split
      · exact h
      · split
        · exact h
        · split <;> exact h
        · split
          · rename_i e2; exact h.trans (blocked_marked e2)
          · exact h.trans (putMem_marked ..)

theorem target_marked (s : State) (ag : Agt) (x : Cap) (va access stated : Nat) (w : Nat → Option Nat) :
    Marked s (target s ag x va access stated w).state := by
  have h := fun pod va => translate_marked s ag pod va access stated
  unfold target
  split
  · split <;> exact .rfl
  · split
    · exact .rfl
    · split
      · exact .rfl
      · split
        · dsimp only
          split
          · split <;> (rename_i e; have := h true (va % 2 ^ 47); rw [e] at this; exact this)
          · exact .rfl
        · have := h false va
          cases e : translate s ag false va access stated <;> (rw [e] at this; exact this)

@[simp] theorem ask_grps (s : State) (au : Auth) (uid pcid node off : Nat) (k : ApKind) : (ask s au uid pcid node off k).1.grps = s.grps := by
  unfold ask
  repeat' (first | rfl | split)

theorem Got.bind_marked {α β : Type} {s : State} {x : Got α} {f : State → α → Got β} (hx : Marked s x.state)
    (h : ∀ t v, Marked t (f t v).state) : Marked s (x.bind f).state := by
  cases x
  · exact hx.trans (h _ _)
  · exact hx
  · exact hx

theorem codeWord_marked (s : State) (k : Nat) (now : State → Got Nat) (h : ∀ t, Marked t (now t).state) : Marked s (codeWord s k now).state := by
  have fresh : ∀ t, Marked t ((now t).bind fun s1 n => .ok { s1 with codeCache := aset 0 s1.codeCache k (n + 1) } (BitVec.ofNat 32 n)).state :=
    fun t => Got.bind_marked (h t) fun _ _ => .of_eq rfl
  have fd := fresh (draw s).2
  unfold codeWord
  dsimp only
  generalize (decide (aget 0 s.codeCache k = 0) || _ : Bool) = again
  cases again with
  | true => exact fresh s
  | false =>
    simp only [Bool.false_eq_true, if_false]
    split
    · exact .of_eq rfl
    · exact Marked.trans (.of_eq rfl) fd

theorem fetchWord_marked (s : State) (g : Grp) (c : Cap) (va : Nat) : Marked s (fetchWord s g c va).state := by
  have h := target_marked s (agtOf s g) c va accFetch 0 (gangWg s g.gang)
  unfold fetchWord
  dsimp only
  split
  · rename_i e; rw [e] at h; exact h
  · rename_i e; rw [e] at h; exact h
  · rename_i s1 p e; rw [e] at h
    refine h.trans (codeWord_marked _ _ _ fun t => ?_)
    split
    · split <;> exact .rfl
    · rename_i node off
      have h2 := ask_grps t { cap := c, stated := 0 } (agtOf s g).uid (agtOf s g).pcid node off .fetch
      split <;> (rename_i e2; rw [e2] at h2; exact .of_eq h2)

theorem fetchWords_marked (n : Nat) : ∀ (s : State) (g : Grp) (c : Cap) (va : Nat), Marked s (fetchWords s g c va n).state := by
  induction n with
  | zero => intros; exact .rfl
  | succ n ih =>
    intro s g c va
    unfold fetchWords
    exact Got.bind_marked (fetchWord_marked ..) fun s1 w => Got.bind_marked (ih ..) fun s2 ws => .rfl

end Sys2Proof.Machine
end

