-- ==== Sys2Proof/Laws/State.lean ====
section
/-! SUPPORT. One lemma for each field and each named update of the state and of a group, so that no proof unfolds a record
update. -/

namespace Sys2Proof.Machine

/-- What giving back a hold leaves alone, dropping answers leaves alone. -/
theorem dropAns_same {α : Type} (p : State → α) (h : ∀ s a, p (endHold s a) = p s) (hf : ∀ s f, p { s with fab := f } = p s) (s : State) (u : Nat) :
    p (dropAns s u) = p s := by
  have hl : ∀ (l : List Ans) (t : State), p (l.foldl endHold t) = p t := by
    intro l
    induction l with
    | nil => intro t; rfl
    | cons a l ih => intro t; exact (ih _).trans (h t a)
  exact (hl _ _).trans (hf s _)

/-! setGrp. -/

@[simp] theorem setGrp_ram (s : State) (g : Grp) : (setGrp s g).ram = s.ram := rfl
@[simp] theorem setGrp_grps (s : State) (g : Grp) : (setGrp s g).grps = updWhere (fun x => x.uid = g.uid) (fun _ => g) s.grps := rfl
@[simp] theorem setGrp_wgs (s : State) (g : Grp) : (setGrp s g).wgs = s.wgs := rfl
@[simp] theorem setGrp_gangs (s : State) (g : Grp) : (setGrp s g).gangs = s.gangs := rfl
@[simp] theorem setGrp_launches (s : State) (g : Grp) : (setGrp s g).launches = s.launches := rfl
@[simp] theorem setGrp_tces (s : State) (g : Grp) : (setGrp s g).tces = s.tces := rfl
@[simp] theorem setGrp_ces (s : State) (g : Grp) : (setGrp s g).ces = s.ces := rfl
@[simp] theorem setGrp_chip (s : State) (g : Grp) : (setGrp s g).chip = s.chip := rfl
@[simp] theorem setGrp_rev (s : State) (g : Grp) : (setGrp s g).rev = s.rev := rfl
@[simp] theorem setGrp_fab (s : State) (g : Grp) : (setGrp s g).fab = s.fab := rfl
@[simp] theorem setGrp_arm (s : State) (g : Grp) : (setGrp s g).arm = s.arm := rfl
@[simp] theorem setGrp_domains (s : State) (g : Grp) : (setGrp s g).domains = s.domains := rfl
@[simp] theorem setGrp_clearing (s : State) (g : Grp) : (setGrp s g).clearing = s.clearing := rfl
@[simp] theorem setGrp_ctxs (s : State) (g : Grp) : (setGrp s g).ctxs = s.ctxs := rfl
@[simp] theorem setGrp_tlb (s : State) (g : Grp) : (setGrp s g).tlb = s.tlb := rfl
@[simp] theorem setGrp_codeCache (s : State) (g : Grp) : (setGrp s g).codeCache = s.codeCache := rfl
@[simp] theorem setGrp_walks (s : State) (g : Grp) : (setGrp s g).walks = s.walks := rfl
@[simp] theorem setGrp_pins (s : State) (g : Grp) : (setGrp s g).pins = s.pins := rfl
@[simp] theorem setGrp_dirty (s : State) (g : Grp) : (setGrp s g).dirty = s.dirty := rfl
@[simp] theorem setGrp_hostHeld (s : State) (g : Grp) : (setGrp s g).hostHeld = s.hostHeld := rfl
@[simp] theorem setGrp_hostMesi (s : State) (g : Grp) : (setGrp s g).hostMesi = s.hostMesi := rfl
@[simp] theorem setGrp_bad (s : State) (g : Grp) : (setGrp s g).bad = s.bad := rfl
@[simp] theorem setGrp_drains (s : State) (g : Grp) : (setGrp s g).drains = s.drains := rfl
@[simp] theorem setGrp_waiting (s : State) (g : Grp) : (setGrp s g).waiting = s.waiting := rfl
@[simp] theorem setGrp_performing (s : State) (g : Grp) : (setGrp s g).performing = s.performing := rfl
@[simp] theorem setGrp_owners (s : State) (g : Grp) : (setGrp s g).owners = s.owners := rfl
@[simp] theorem setGrp_proxies (s : State) (g : Grp) : (setGrp s g).proxies = s.proxies := rfl
@[simp] theorem setGrp_saveUsed (s : State) (g : Grp) : (setGrp s g).saveUsed = s.saveUsed := rfl
@[simp] theorem setGrp_power (s : State) (g : Grp) : (setGrp s g).power = s.power := rfl
@[simp] theorem setGrp_agenda (s : State) (g : Grp) : (setGrp s g).agenda = s.agenda := rfl
@[simp] theorem setGrp_actor (s : State) (g : Grp) : (setGrp s g).actor = s.actor := rfl
@[simp] theorem setGrp_nonce (s : State) (g : Grp) : (setGrp s g).nonce = s.nonce := rfl
@[simp] theorem setGrp_uid (s : State) (g : Grp) : (setGrp s g).uid = s.uid := rfl
@[simp] theorem setGrp_outbox (s : State) (g : Grp) : (setGrp s g).outbox = s.outbox := rfl

/-! modGrp. -/

@[simp] theorem modGrp_ram (s : State) (u : Nat) (f : Grp → Grp) : (modGrp s u f).ram = s.ram := rfl
@[simp] theorem modGrp_grps (s : State) (u : Nat) (f : Grp → Grp) : (modGrp s u f).grps = updWhere (fun x => x.uid = u) f s.grps := rfl
@[simp] theorem modGrp_wgs (s : State) (u : Nat) (f : Grp → Grp) : (modGrp s u f).wgs = s.wgs := rfl
@[simp] theorem modGrp_gangs (s : State) (u : Nat) (f : Grp → Grp) : (modGrp s u f).gangs = s.gangs := rfl
@[simp] theorem modGrp_launches (s : State) (u : Nat) (f : Grp → Grp) : (modGrp s u f).launches = s.launches := rfl
@[simp] theorem modGrp_tces (s : State) (u : Nat) (f : Grp → Grp) : (modGrp s u f).tces = s.tces := rfl
@[simp] theorem modGrp_ces (s : State) (u : Nat) (f : Grp → Grp) : (modGrp s u f).ces = s.ces := rfl
@[simp] theorem modGrp_chip (s : State) (u : Nat) (f : Grp → Grp) : (modGrp s u f).chip = s.chip := rfl
@[simp] theorem modGrp_rev (s : State) (u : Nat) (f : Grp → Grp) : (modGrp s u f).rev = s.rev := rfl
@[simp] theorem modGrp_fab (s : State) (u : Nat) (f : Grp → Grp) : (modGrp s u f).fab = s.fab := rfl
@[simp] theorem modGrp_arm (s : State) (u : Nat) (f : Grp → Grp) : (modGrp s u f).arm = s.arm := rfl
@[simp] theorem modGrp_domains (s : State) (u : Nat) (f : Grp → Grp) : (modGrp s u f).domains = s.domains := rfl
@[simp] theorem modGrp_clearing (s : State) (u : Nat) (f : Grp → Grp) : (modGrp s u f).clearing = s.clearing := rfl
@[simp] theorem modGrp_ctxs (s : State) (u : Nat) (f : Grp → Grp) : (modGrp s u f).ctxs = s.ctxs := rfl
@[simp] theorem modGrp_tlb (s : State) (u : Nat) (f : Grp → Grp) : (modGrp s u f).tlb = s.tlb := rfl
@[simp] theorem modGrp_codeCache (s : State) (u : Nat) (f : Grp → Grp) : (modGrp s u f).codeCache = s.codeCache := rfl
@[simp] theorem modGrp_walks (s : State) (u : Nat) (f : Grp → Grp) : (modGrp s u f).walks = s.walks := rfl
@[simp] theorem modGrp_pins (s : State) (u : Nat) (f : Grp → Grp) : (modGrp s u f).pins = s.pins := rfl
@[simp] theorem modGrp_dirty (s : State) (u : Nat) (f : Grp → Grp) : (modGrp s u f).dirty = s.dirty := rfl
@[simp] theorem modGrp_hostHeld (s : State) (u : Nat) (f : Grp → Grp) : (modGrp s u f).hostHeld = s.hostHeld := rfl
@[simp] theorem modGrp_hostMesi (s : State) (u : Nat) (f : Grp → Grp) : (modGrp s u f).hostMesi = s.hostMesi := rfl
@[simp] theorem modGrp_bad (s : State) (u : Nat) (f : Grp → Grp) : (modGrp s u f).bad = s.bad := rfl
@[simp] theorem modGrp_drains (s : State) (u : Nat) (f : Grp → Grp) : (modGrp s u f).drains = s.drains := rfl
@[simp] theorem modGrp_waiting (s : State) (u : Nat) (f : Grp → Grp) : (modGrp s u f).waiting = s.waiting := rfl
@[simp] theorem modGrp_performing (s : State) (u : Nat) (f : Grp → Grp) : (modGrp s u f).performing = s.performing := rfl
@[simp] theorem modGrp_owners (s : State) (u : Nat) (f : Grp → Grp) : (modGrp s u f).owners = s.owners := rfl
@[simp] theorem modGrp_proxies (s : State) (u : Nat) (f : Grp → Grp) : (modGrp s u f).proxies = s.proxies := rfl
@[simp] theorem modGrp_saveUsed (s : State) (u : Nat) (f : Grp → Grp) : (modGrp s u f).saveUsed = s.saveUsed := rfl
@[simp] theorem modGrp_power (s : State) (u : Nat) (f : Grp → Grp) : (modGrp s u f).power = s.power := rfl
@[simp] theorem modGrp_agenda (s : State) (u : Nat) (f : Grp → Grp) : (modGrp s u f).agenda = s.agenda := rfl
@[simp] theorem modGrp_actor (s : State) (u : Nat) (f : Grp → Grp) : (modGrp s u f).actor = s.actor := rfl
@[simp] theorem modGrp_nonce (s : State) (u : Nat) (f : Grp → Grp) : (modGrp s u f).nonce = s.nonce := rfl
@[simp] theorem modGrp_uid (s : State) (u : Nat) (f : Grp → Grp) : (modGrp s u f).uid = s.uid := rfl
@[simp] theorem modGrp_outbox (s : State) (u : Nat) (f : Grp → Grp) : (modGrp s u f).outbox = s.outbox := rfl

/-! modWg. -/

@[simp] theorem modWg_ram (s : State) (u : Nat) (f : Wg → Wg) : (modWg s u f).ram = s.ram := rfl
@[simp] theorem modWg_grps (s : State) (u : Nat) (f : Wg → Wg) : (modWg s u f).grps = s.grps := rfl
@[simp] theorem modWg_wgs (s : State) (u : Nat) (f : Wg → Wg) : (modWg s u f).wgs = updWhere (fun x => x.uid = u) f s.wgs := rfl
@[simp] theorem modWg_gangs (s : State) (u : Nat) (f : Wg → Wg) : (modWg s u f).gangs = s.gangs := rfl
@[simp] theorem modWg_launches (s : State) (u : Nat) (f : Wg → Wg) : (modWg s u f).launches = s.launches := rfl
@[simp] theorem modWg_tces (s : State) (u : Nat) (f : Wg → Wg) : (modWg s u f).tces = s.tces := rfl
@[simp] theorem modWg_ces (s : State) (u : Nat) (f : Wg → Wg) : (modWg s u f).ces = s.ces := rfl
@[simp] theorem modWg_chip (s : State) (u : Nat) (f : Wg → Wg) : (modWg s u f).chip = s.chip := rfl
@[simp] theorem modWg_rev (s : State) (u : Nat) (f : Wg → Wg) : (modWg s u f).rev = s.rev := rfl
@[simp] theorem modWg_fab (s : State) (u : Nat) (f : Wg → Wg) : (modWg s u f).fab = s.fab := rfl
@[simp] theorem modWg_arm (s : State) (u : Nat) (f : Wg → Wg) : (modWg s u f).arm = s.arm := rfl
@[simp] theorem modWg_domains (s : State) (u : Nat) (f : Wg → Wg) : (modWg s u f).domains = s.domains := rfl
@[simp] theorem modWg_clearing (s : State) (u : Nat) (f : Wg → Wg) : (modWg s u f).clearing = s.clearing := rfl
@[simp] theorem modWg_ctxs (s : State) (u : Nat) (f : Wg → Wg) : (modWg s u f).ctxs = s.ctxs := rfl
@[simp] theorem modWg_tlb (s : State) (u : Nat) (f : Wg → Wg) : (modWg s u f).tlb = s.tlb := rfl
@[simp] theorem modWg_codeCache (s : State) (u : Nat) (f : Wg → Wg) : (modWg s u f).codeCache = s.codeCache := rfl
@[simp] theorem modWg_walks (s : State) (u : Nat) (f : Wg → Wg) : (modWg s u f).walks = s.walks := rfl
@[simp] theorem modWg_pins (s : State) (u : Nat) (f : Wg → Wg) : (modWg s u f).pins = s.pins := rfl
@[simp] theorem modWg_dirty (s : State) (u : Nat) (f : Wg → Wg) : (modWg s u f).dirty = s.dirty := rfl
@[simp] theorem modWg_hostHeld (s : State) (u : Nat) (f : Wg → Wg) : (modWg s u f).hostHeld = s.hostHeld := rfl
@[simp] theorem modWg_hostMesi (s : State) (u : Nat) (f : Wg → Wg) : (modWg s u f).hostMesi = s.hostMesi := rfl
@[simp] theorem modWg_bad (s : State) (u : Nat) (f : Wg → Wg) : (modWg s u f).bad = s.bad := rfl
@[simp] theorem modWg_drains (s : State) (u : Nat) (f : Wg → Wg) : (modWg s u f).drains = s.drains := rfl
@[simp] theorem modWg_waiting (s : State) (u : Nat) (f : Wg → Wg) : (modWg s u f).waiting = s.waiting := rfl
@[simp] theorem modWg_performing (s : State) (u : Nat) (f : Wg → Wg) : (modWg s u f).performing = s.performing := rfl
@[simp] theorem modWg_owners (s : State) (u : Nat) (f : Wg → Wg) : (modWg s u f).owners = s.owners := rfl
@[simp] theorem modWg_proxies (s : State) (u : Nat) (f : Wg → Wg) : (modWg s u f).proxies = s.proxies := rfl
@[simp] theorem modWg_saveUsed (s : State) (u : Nat) (f : Wg → Wg) : (modWg s u f).saveUsed = s.saveUsed := rfl
@[simp] theorem modWg_power (s : State) (u : Nat) (f : Wg → Wg) : (modWg s u f).power = s.power := rfl
@[simp] theorem modWg_agenda (s : State) (u : Nat) (f : Wg → Wg) : (modWg s u f).agenda = s.agenda := rfl
@[simp] theorem modWg_actor (s : State) (u : Nat) (f : Wg → Wg) : (modWg s u f).actor = s.actor := rfl
@[simp] theorem modWg_nonce (s : State) (u : Nat) (f : Wg → Wg) : (modWg s u f).nonce = s.nonce := rfl
@[simp] theorem modWg_uid (s : State) (u : Nat) (f : Wg → Wg) : (modWg s u f).uid = s.uid := rfl
@[simp] theorem modWg_outbox (s : State) (u : Nat) (f : Wg → Wg) : (modWg s u f).outbox = s.outbox := rfl

/-! modGang. -/

@[simp] theorem modGang_ram (s : State) (u : Nat) (f : Gang → Gang) : (modGang s u f).ram = s.ram := rfl
@[simp] theorem modGang_grps (s : State) (u : Nat) (f : Gang → Gang) : (modGang s u f).grps = s.grps := rfl
@[simp] theorem modGang_wgs (s : State) (u : Nat) (f : Gang → Gang) : (modGang s u f).wgs = s.wgs := rfl
@[simp] theorem modGang_gangs (s : State) (u : Nat) (f : Gang → Gang) : (modGang s u f).gangs = updWhere (fun x => x.uid = u) f s.gangs := rfl
@[simp] theorem modGang_launches (s : State) (u : Nat) (f : Gang → Gang) : (modGang s u f).launches = s.launches := rfl
@[simp] theorem modGang_tces (s : State) (u : Nat) (f : Gang → Gang) : (modGang s u f).tces = s.tces := rfl
@[simp] theorem modGang_ces (s : State) (u : Nat) (f : Gang → Gang) : (modGang s u f).ces = s.ces := rfl
@[simp] theorem modGang_chip (s : State) (u : Nat) (f : Gang → Gang) : (modGang s u f).chip = s.chip := rfl
@[simp] theorem modGang_rev (s : State) (u : Nat) (f : Gang → Gang) : (modGang s u f).rev = s.rev := rfl
@[simp] theorem modGang_fab (s : State) (u : Nat) (f : Gang → Gang) : (modGang s u f).fab = s.fab := rfl
@[simp] theorem modGang_arm (s : State) (u : Nat) (f : Gang → Gang) : (modGang s u f).arm = s.arm := rfl
@[simp] theorem modGang_domains (s : State) (u : Nat) (f : Gang → Gang) : (modGang s u f).domains = s.domains := rfl
@[simp] theorem modGang_clearing (s : State) (u : Nat) (f : Gang → Gang) : (modGang s u f).clearing = s.clearing := rfl
@[simp] theorem modGang_ctxs (s : State) (u : Nat) (f : Gang → Gang) : (modGang s u f).ctxs = s.ctxs := rfl
@[simp] theorem modGang_tlb (s : State) (u : Nat) (f : Gang → Gang) : (modGang s u f).tlb = s.tlb := rfl
@[simp] theorem modGang_codeCache (s : State) (u : Nat) (f : Gang → Gang) : (modGang s u f).codeCache = s.codeCache := rfl
@[simp] theorem modGang_walks (s : State) (u : Nat) (f : Gang → Gang) : (modGang s u f).walks = s.walks := rfl
@[simp] theorem modGang_pins (s : State) (u : Nat) (f : Gang → Gang) : (modGang s u f).pins = s.pins := rfl
@[simp] theorem modGang_dirty (s : State) (u : Nat) (f : Gang → Gang) : (modGang s u f).dirty = s.dirty := rfl
@[simp] theorem modGang_hostHeld (s : State) (u : Nat) (f : Gang → Gang) : (modGang s u f).hostHeld = s.hostHeld := rfl
@[simp] theorem modGang_hostMesi (s : State) (u : Nat) (f : Gang → Gang) : (modGang s u f).hostMesi = s.hostMesi := rfl
@[simp] theorem modGang_bad (s : State) (u : Nat) (f : Gang → Gang) : (modGang s u f).bad = s.bad := rfl
@[simp] theorem modGang_drains (s : State) (u : Nat) (f : Gang → Gang) : (modGang s u f).drains = s.drains := rfl
@[simp] theorem modGang_waiting (s : State) (u : Nat) (f : Gang → Gang) : (modGang s u f).waiting = s.waiting := rfl
@[simp] theorem modGang_performing (s : State) (u : Nat) (f : Gang → Gang) : (modGang s u f).performing = s.performing := rfl
@[simp] theorem modGang_owners (s : State) (u : Nat) (f : Gang → Gang) : (modGang s u f).owners = s.owners := rfl
@[simp] theorem modGang_proxies (s : State) (u : Nat) (f : Gang → Gang) : (modGang s u f).proxies = s.proxies := rfl
@[simp] theorem modGang_saveUsed (s : State) (u : Nat) (f : Gang → Gang) : (modGang s u f).saveUsed = s.saveUsed := rfl
@[simp] theorem modGang_power (s : State) (u : Nat) (f : Gang → Gang) : (modGang s u f).power = s.power := rfl
@[simp] theorem modGang_agenda (s : State) (u : Nat) (f : Gang → Gang) : (modGang s u f).agenda = s.agenda := rfl
@[simp] theorem modGang_actor (s : State) (u : Nat) (f : Gang → Gang) : (modGang s u f).actor = s.actor := rfl
@[simp] theorem modGang_nonce (s : State) (u : Nat) (f : Gang → Gang) : (modGang s u f).nonce = s.nonce := rfl
@[simp] theorem modGang_uid (s : State) (u : Nat) (f : Gang → Gang) : (modGang s u f).uid = s.uid := rfl
@[simp] theorem modGang_outbox (s : State) (u : Nat) (f : Gang → Gang) : (modGang s u f).outbox = s.outbox := rfl

/-! modLnch. -/

@[simp] theorem modLnch_ram (s : State) (u : Nat) (f : Lnch → Lnch) : (modLnch s u f).ram = s.ram := rfl
@[simp] theorem modLnch_grps (s : State) (u : Nat) (f : Lnch → Lnch) : (modLnch s u f).grps = s.grps := rfl
@[simp] theorem modLnch_wgs (s : State) (u : Nat) (f : Lnch → Lnch) : (modLnch s u f).wgs = s.wgs := rfl
@[simp] theorem modLnch_gangs (s : State) (u : Nat) (f : Lnch → Lnch) : (modLnch s u f).gangs = s.gangs := rfl
@[simp] theorem modLnch_launches (s : State) (u : Nat) (f : Lnch → Lnch) : (modLnch s u f).launches = updWhere (fun x => x.uid = u) f s.launches := rfl
@[simp] theorem modLnch_tces (s : State) (u : Nat) (f : Lnch → Lnch) : (modLnch s u f).tces = s.tces := rfl
@[simp] theorem modLnch_ces (s : State) (u : Nat) (f : Lnch → Lnch) : (modLnch s u f).ces = s.ces := rfl
@[simp] theorem modLnch_chip (s : State) (u : Nat) (f : Lnch → Lnch) : (modLnch s u f).chip = s.chip := rfl
@[simp] theorem modLnch_rev (s : State) (u : Nat) (f : Lnch → Lnch) : (modLnch s u f).rev = s.rev := rfl
@[simp] theorem modLnch_fab (s : State) (u : Nat) (f : Lnch → Lnch) : (modLnch s u f).fab = s.fab := rfl
@[simp] theorem modLnch_arm (s : State) (u : Nat) (f : Lnch → Lnch) : (modLnch s u f).arm = s.arm := rfl
@[simp] theorem modLnch_domains (s : State) (u : Nat) (f : Lnch → Lnch) : (modLnch s u f).domains = s.domains := rfl
@[simp] theorem modLnch_clearing (s : State) (u : Nat) (f : Lnch → Lnch) : (modLnch s u f).clearing = s.clearing := rfl
@[simp] theorem modLnch_ctxs (s : State) (u : Nat) (f : Lnch → Lnch) : (modLnch s u f).ctxs = s.ctxs := rfl
@[simp] theorem modLnch_tlb (s : State) (u : Nat) (f : Lnch → Lnch) : (modLnch s u f).tlb = s.tlb := rfl
@[simp] theorem modLnch_codeCache (s : State) (u : Nat) (f : Lnch → Lnch) : (modLnch s u f).codeCache = s.codeCache := rfl
@[simp] theorem modLnch_walks (s : State) (u : Nat) (f : Lnch → Lnch) : (modLnch s u f).walks = s.walks := rfl
@[simp] theorem modLnch_pins (s : State) (u : Nat) (f : Lnch → Lnch) : (modLnch s u f).pins = s.pins := rfl
@[simp] theorem modLnch_dirty (s : State) (u : Nat) (f : Lnch → Lnch) : (modLnch s u f).dirty = s.dirty := rfl
@[simp] theorem modLnch_hostHeld (s : State) (u : Nat) (f : Lnch → Lnch) : (modLnch s u f).hostHeld = s.hostHeld := rfl
@[simp] theorem modLnch_hostMesi (s : State) (u : Nat) (f : Lnch → Lnch) : (modLnch s u f).hostMesi = s.hostMesi := rfl
@[simp] theorem modLnch_bad (s : State) (u : Nat) (f : Lnch → Lnch) : (modLnch s u f).bad = s.bad := rfl
@[simp] theorem modLnch_drains (s : State) (u : Nat) (f : Lnch → Lnch) : (modLnch s u f).drains = s.drains := rfl
@[simp] theorem modLnch_waiting (s : State) (u : Nat) (f : Lnch → Lnch) : (modLnch s u f).waiting = s.waiting := rfl
@[simp] theorem modLnch_performing (s : State) (u : Nat) (f : Lnch → Lnch) : (modLnch s u f).performing = s.performing := rfl
@[simp] theorem modLnch_owners (s : State) (u : Nat) (f : Lnch → Lnch) : (modLnch s u f).owners = s.owners := rfl
@[simp] theorem modLnch_proxies (s : State) (u : Nat) (f : Lnch → Lnch) : (modLnch s u f).proxies = s.proxies := rfl
@[simp] theorem modLnch_saveUsed (s : State) (u : Nat) (f : Lnch → Lnch) : (modLnch s u f).saveUsed = s.saveUsed := rfl
@[simp] theorem modLnch_power (s : State) (u : Nat) (f : Lnch → Lnch) : (modLnch s u f).power = s.power := rfl
@[simp] theorem modLnch_agenda (s : State) (u : Nat) (f : Lnch → Lnch) : (modLnch s u f).agenda = s.agenda := rfl
@[simp] theorem modLnch_actor (s : State) (u : Nat) (f : Lnch → Lnch) : (modLnch s u f).actor = s.actor := rfl
@[simp] theorem modLnch_nonce (s : State) (u : Nat) (f : Lnch → Lnch) : (modLnch s u f).nonce = s.nonce := rfl
@[simp] theorem modLnch_uid (s : State) (u : Nat) (f : Lnch → Lnch) : (modLnch s u f).uid = s.uid := rfl
@[simp] theorem modLnch_outbox (s : State) (u : Nat) (f : Lnch → Lnch) : (modLnch s u f).outbox = s.outbox := rfl

/-! lifeInc. -/

@[simp] theorem lifeInc_ram (s : State) (i : Nat) : (lifeInc s i).ram = s.ram := rfl
@[simp] theorem lifeInc_grps (s : State) (i : Nat) : (lifeInc s i).grps = s.grps := rfl
@[simp] theorem lifeInc_wgs (s : State) (i : Nat) : (lifeInc s i).wgs = s.wgs := rfl
@[simp] theorem lifeInc_gangs (s : State) (i : Nat) : (lifeInc s i).gangs = s.gangs := rfl
@[simp] theorem lifeInc_launches (s : State) (i : Nat) : (lifeInc s i).launches = s.launches := rfl
@[simp] theorem lifeInc_tces (s : State) (i : Nat) : (lifeInc s i).tces = s.tces := rfl
@[simp] theorem lifeInc_ces (s : State) (i : Nat) : (lifeInc s i).ces = s.ces := rfl
@[simp] theorem lifeInc_chip (s : State) (i : Nat) : (lifeInc s i).chip = s.chip := rfl
@[simp] theorem lifeInc_rev (s : State) (i : Nat) : (lifeInc s i).rev = s.rev := rfl
@[simp] theorem lifeInc_fab (s : State) (i : Nat) : (lifeInc s i).fab = s.fab := rfl
@[simp] theorem lifeInc_arm (s : State) (i : Nat) : (lifeInc s i).arm = { s.arm with life := aset 0 s.arm.life i (satInc (aget 0 s.arm.life i)) } := rfl
@[simp] theorem lifeInc_domains (s : State) (i : Nat) : (lifeInc s i).domains = s.domains := rfl
@[simp] theorem lifeInc_clearing (s : State) (i : Nat) : (lifeInc s i).clearing = s.clearing := rfl
@[simp] theorem lifeInc_ctxs (s : State) (i : Nat) : (lifeInc s i).ctxs = s.ctxs := rfl
@[simp] theorem lifeInc_tlb (s : State) (i : Nat) : (lifeInc s i).tlb = s.tlb := rfl
@[simp] theorem lifeInc_codeCache (s : State) (i : Nat) : (lifeInc s i).codeCache = s.codeCache := rfl
@[simp] theorem lifeInc_walks (s : State) (i : Nat) : (lifeInc s i).walks = s.walks := rfl
@[simp] theorem lifeInc_pins (s : State) (i : Nat) : (lifeInc s i).pins = s.pins := rfl
@[simp] theorem lifeInc_dirty (s : State) (i : Nat) : (lifeInc s i).dirty = s.dirty := rfl
@[simp] theorem lifeInc_hostHeld (s : State) (i : Nat) : (lifeInc s i).hostHeld = s.hostHeld := rfl
@[simp] theorem lifeInc_hostMesi (s : State) (i : Nat) : (lifeInc s i).hostMesi = s.hostMesi := rfl
@[simp] theorem lifeInc_bad (s : State) (i : Nat) : (lifeInc s i).bad = s.bad := rfl
@[simp] theorem lifeInc_drains (s : State) (i : Nat) : (lifeInc s i).drains = s.drains := rfl
@[simp] theorem lifeInc_waiting (s : State) (i : Nat) : (lifeInc s i).waiting = s.waiting := rfl
@[simp] theorem lifeInc_performing (s : State) (i : Nat) : (lifeInc s i).performing = s.performing := rfl
@[simp] theorem lifeInc_owners (s : State) (i : Nat) : (lifeInc s i).owners = s.owners := rfl
@[simp] theorem lifeInc_proxies (s : State) (i : Nat) : (lifeInc s i).proxies = s.proxies := rfl
@[simp] theorem lifeInc_saveUsed (s : State) (i : Nat) : (lifeInc s i).saveUsed = s.saveUsed := rfl
@[simp] theorem lifeInc_power (s : State) (i : Nat) : (lifeInc s i).power = s.power := rfl
@[simp] theorem lifeInc_agenda (s : State) (i : Nat) : (lifeInc s i).agenda = s.agenda := rfl
@[simp] theorem lifeInc_actor (s : State) (i : Nat) : (lifeInc s i).actor = s.actor := rfl
@[simp] theorem lifeInc_nonce (s : State) (i : Nat) : (lifeInc s i).nonce = s.nonce := rfl
@[simp] theorem lifeInc_uid (s : State) (i : Nat) : (lifeInc s i).uid = s.uid := rfl
@[simp] theorem lifeInc_outbox (s : State) (i : Nat) : (lifeInc s i).outbox = s.outbox := rfl

/-! Answers that an agent has used: holds among them are given back, and nothing but the fabric and its messages changes. -/

@[simp] theorem endHold_ram (s : State) (a : Ans) : (endHold s a).ram = s.ram := by unfold endHold; repeat' (first | rfl | split)
@[simp] theorem endHold_grps (s : State) (a : Ans) : (endHold s a).grps = s.grps := by unfold endHold; repeat' (first | rfl | split)
@[simp] theorem endHold_wgs (s : State) (a : Ans) : (endHold s a).wgs = s.wgs := by unfold endHold; repeat' (first | rfl | split)
@[simp] theorem endHold_gangs (s : State) (a : Ans) : (endHold s a).gangs = s.gangs := by unfold endHold; repeat' (first | rfl | split)
@[simp] theorem endHold_launches (s : State) (a : Ans) : (endHold s a).launches = s.launches := by unfold endHold; repeat' (first | rfl | split)
@[simp] theorem endHold_tces (s : State) (a : Ans) : (endHold s a).tces = s.tces := by unfold endHold; repeat' (first | rfl | split)
@[simp] theorem endHold_ces (s : State) (a : Ans) : (endHold s a).ces = s.ces := by unfold endHold; repeat' (first | rfl | split)
@[simp] theorem endHold_chip (s : State) (a : Ans) : (endHold s a).chip = s.chip := by unfold endHold; repeat' (first | rfl | split)
@[simp] theorem endHold_rev (s : State) (a : Ans) : (endHold s a).rev = s.rev := by unfold endHold; repeat' (first | rfl | split)
@[simp] theorem endHold_arm (s : State) (a : Ans) : (endHold s a).arm = s.arm := by unfold endHold; repeat' (first | rfl | split)
@[simp] theorem endHold_domains (s : State) (a : Ans) : (endHold s a).domains = s.domains := by unfold endHold; repeat' (first | rfl | split)
@[simp] theorem endHold_clearing (s : State) (a : Ans) : (endHold s a).clearing = s.clearing := by unfold endHold; repeat' (first | rfl | split)
@[simp] theorem endHold_ctxs (s : State) (a : Ans) : (endHold s a).ctxs = s.ctxs := by unfold endHold; repeat' (first | rfl | split)
@[simp] theorem endHold_tlb (s : State) (a : Ans) : (endHold s a).tlb = s.tlb := by unfold endHold; repeat' (first | rfl | split)
@[simp] theorem endHold_codeCache (s : State) (a : Ans) : (endHold s a).codeCache = s.codeCache := by unfold endHold; repeat' (first | rfl | split)
@[simp] theorem endHold_walks (s : State) (a : Ans) : (endHold s a).walks = s.walks := by unfold endHold; repeat' (first | rfl | split)
@[simp] theorem endHold_pins (s : State) (a : Ans) : (endHold s a).pins = s.pins := by unfold endHold; repeat' (first | rfl | split)
@[simp] theorem endHold_dirty (s : State) (a : Ans) : (endHold s a).dirty = s.dirty := by unfold endHold; repeat' (first | rfl | split)
@[simp] theorem endHold_hostHeld (s : State) (a : Ans) : (endHold s a).hostHeld = s.hostHeld := by unfold endHold; repeat' (first | rfl | split)
@[simp] theorem endHold_hostMesi (s : State) (a : Ans) : (endHold s a).hostMesi = s.hostMesi := by unfold endHold; repeat' (first | rfl | split)
@[simp] theorem endHold_bad (s : State) (a : Ans) : (endHold s a).bad = s.bad := by unfold endHold; repeat' (first | rfl | split)
@[simp] theorem endHold_drains (s : State) (a : Ans) : (endHold s a).drains = s.drains := by unfold endHold; repeat' (first | rfl | split)
@[simp] theorem endHold_waiting (s : State) (a : Ans) : (endHold s a).waiting = s.waiting := by unfold endHold; repeat' (first | rfl | split)
@[simp] theorem endHold_performing (s : State) (a : Ans) : (endHold s a).performing = s.performing := by unfold endHold; repeat' (first | rfl | split)
@[simp] theorem endHold_owners (s : State) (a : Ans) : (endHold s a).owners = s.owners := by unfold endHold; repeat' (first | rfl | split)
@[simp] theorem endHold_proxies (s : State) (a : Ans) : (endHold s a).proxies = s.proxies := by unfold endHold; repeat' (first | rfl | split)
@[simp] theorem endHold_saveUsed (s : State) (a : Ans) : (endHold s a).saveUsed = s.saveUsed := by unfold endHold; repeat' (first | rfl | split)
@[simp] theorem endHold_power (s : State) (a : Ans) : (endHold s a).power = s.power := by unfold endHold; repeat' (first | rfl | split)
@[simp] theorem endHold_agenda (s : State) (a : Ans) : (endHold s a).agenda = s.agenda := by unfold endHold; repeat' (first | rfl | split)
@[simp] theorem endHold_actor (s : State) (a : Ans) : (endHold s a).actor = s.actor := by unfold endHold; repeat' (first | rfl | split)
@[simp] theorem endHold_nonce (s : State) (a : Ans) : (endHold s a).nonce = s.nonce := by unfold endHold; repeat' (first | rfl | split)
@[simp] theorem endHold_uid (s : State) (a : Ans) : (endHold s a).uid = s.uid := by unfold endHold; repeat' (first | rfl | split)

@[simp] theorem dropAns_ram (s : State) (u : Nat) : (dropAns s u).ram = s.ram := dropAns_same (·.ram) endHold_ram (fun _ _ => rfl) s u
@[simp] theorem dropAns_grps (s : State) (u : Nat) : (dropAns s u).grps = s.grps := dropAns_same (·.grps) endHold_grps (fun _ _ => rfl) s u
@[simp] theorem dropAns_wgs (s : State) (u : Nat) : (dropAns s u).wgs = s.wgs := dropAns_same (·.wgs) endHold_wgs (fun _ _ => rfl) s u
@[simp] theorem dropAns_gangs (s : State) (u : Nat) : (dropAns s u).gangs = s.gangs := dropAns_same (·.gangs) endHold_gangs (fun _ _ => rfl) s u
@[simp] theorem dropAns_launches (s : State) (u : Nat) : (dropAns s u).launches = s.launches := dropAns_same (·.launches) endHold_launches (fun _ _ => rfl) s u
@[simp] theorem dropAns_tces (s : State) (u : Nat) : (dropAns s u).tces = s.tces := dropAns_same (·.tces) endHold_tces (fun _ _ => rfl) s u
@[simp] theorem dropAns_ces (s : State) (u : Nat) : (dropAns s u).ces = s.ces := dropAns_same (·.ces) endHold_ces (fun _ _ => rfl) s u
@[simp] theorem dropAns_chip (s : State) (u : Nat) : (dropAns s u).chip = s.chip := dropAns_same (·.chip) endHold_chip (fun _ _ => rfl) s u
@[simp] theorem dropAns_rev (s : State) (u : Nat) : (dropAns s u).rev = s.rev := dropAns_same (·.rev) endHold_rev (fun _ _ => rfl) s u
@[simp] theorem dropAns_arm (s : State) (u : Nat) : (dropAns s u).arm = s.arm := dropAns_same (·.arm) endHold_arm (fun _ _ => rfl) s u
@[simp] theorem dropAns_domains (s : State) (u : Nat) : (dropAns s u).domains = s.domains := dropAns_same (·.domains) endHold_domains (fun _ _ => rfl) s u
@[simp] theorem dropAns_clearing (s : State) (u : Nat) : (dropAns s u).clearing = s.clearing := dropAns_same (·.clearing) endHold_clearing (fun _ _ => rfl) s u
@[simp] theorem dropAns_ctxs (s : State) (u : Nat) : (dropAns s u).ctxs = s.ctxs := dropAns_same (·.ctxs) endHold_ctxs (fun _ _ => rfl) s u
@[simp] theorem dropAns_tlb (s : State) (u : Nat) : (dropAns s u).tlb = s.tlb := dropAns_same (·.tlb) endHold_tlb (fun _ _ => rfl) s u
@[simp] theorem dropAns_codeCache (s : State) (u : Nat) : (dropAns s u).codeCache = s.codeCache := dropAns_same (·.codeCache) endHold_codeCache (fun _ _ => rfl) s u
@[simp] theorem dropAns_walks (s : State) (u : Nat) : (dropAns s u).walks = s.walks := dropAns_same (·.walks) endHold_walks (fun _ _ => rfl) s u
@[simp] theorem dropAns_pins (s : State) (u : Nat) : (dropAns s u).pins = s.pins := dropAns_same (·.pins) endHold_pins (fun _ _ => rfl) s u
@[simp] theorem dropAns_dirty (s : State) (u : Nat) : (dropAns s u).dirty = s.dirty := dropAns_same (·.dirty) endHold_dirty (fun _ _ => rfl) s u
@[simp] theorem dropAns_hostHeld (s : State) (u : Nat) : (dropAns s u).hostHeld = s.hostHeld := dropAns_same (·.hostHeld) endHold_hostHeld (fun _ _ => rfl) s u
@[simp] theorem dropAns_hostMesi (s : State) (u : Nat) : (dropAns s u).hostMesi = s.hostMesi := dropAns_same (·.hostMesi) endHold_hostMesi (fun _ _ => rfl) s u
@[simp] theorem dropAns_bad (s : State) (u : Nat) : (dropAns s u).bad = s.bad := dropAns_same (·.bad) endHold_bad (fun _ _ => rfl) s u
@[simp] theorem dropAns_drains (s : State) (u : Nat) : (dropAns s u).drains = s.drains := dropAns_same (·.drains) endHold_drains (fun _ _ => rfl) s u
@[simp] theorem dropAns_waiting (s : State) (u : Nat) : (dropAns s u).waiting = s.waiting := dropAns_same (·.waiting) endHold_waiting (fun _ _ => rfl) s u
@[simp] theorem dropAns_performing (s : State) (u : Nat) : (dropAns s u).performing = s.performing := dropAns_same (·.performing) endHold_performing (fun _ _ => rfl) s u
@[simp] theorem dropAns_owners (s : State) (u : Nat) : (dropAns s u).owners = s.owners := dropAns_same (·.owners) endHold_owners (fun _ _ => rfl) s u
@[simp] theorem dropAns_proxies (s : State) (u : Nat) : (dropAns s u).proxies = s.proxies := dropAns_same (·.proxies) endHold_proxies (fun _ _ => rfl) s u
@[simp] theorem dropAns_saveUsed (s : State) (u : Nat) : (dropAns s u).saveUsed = s.saveUsed := dropAns_same (·.saveUsed) endHold_saveUsed (fun _ _ => rfl) s u
@[simp] theorem dropAns_power (s : State) (u : Nat) : (dropAns s u).power = s.power := dropAns_same (·.power) endHold_power (fun _ _ => rfl) s u
@[simp] theorem dropAns_agenda (s : State) (u : Nat) : (dropAns s u).agenda = s.agenda := dropAns_same (·.agenda) endHold_agenda (fun _ _ => rfl) s u
@[simp] theorem dropAns_actor (s : State) (u : Nat) : (dropAns s u).actor = s.actor := dropAns_same (·.actor) endHold_actor (fun _ _ => rfl) s u
@[simp] theorem dropAns_nonce (s : State) (u : Nat) : (dropAns s u).nonce = s.nonce := dropAns_same (·.nonce) endHold_nonce (fun _ _ => rfl) s u
@[simp] theorem dropAns_uid (s : State) (u : Nat) : (dropAns s u).uid = s.uid := dropAns_same (·.uid) endHold_uid (fun _ _ => rfl) s u

/-! GCore.modSplit. -/

@[simp] theorem GCore.modSplit_splits (g : GCore) (i : Nat) (f : Split → Split) : (g.modSplit i f).splits = updWhere (fun y => y.idx = i) f g.splits := rfl
@[simp] theorem GCore.modSplit_k (g : GCore) (i : Nat) (f : Split → Split) : (g.modSplit i f).k = g.k := rfl
@[simp] theorem GCore.modSplit_v (g : GCore) (i : Nat) (f : Split → Split) : (g.modSplit i f).v = g.v := rfl
@[simp] theorem GCore.modSplit_dead (g : GCore) (i : Nat) (f : Split → Split) : (g.modSplit i f).dead = g.dead := rfl
@[simp] theorem GCore.modSplit_qtags (g : GCore) (i : Nat) (f : Split → Split) : (g.modSplit i f).qtags = g.qtags := rfl
@[simp] theorem GCore.modSplit_b (g : GCore) (i : Nat) (f : Split → Split) : (g.modSplit i f).b = g.b := rfl
@[simp] theorem GCore.modSplit_status (g : GCore) (i : Nat) (f : Split → Split) : (g.modSplit i f).status = g.status := rfl
@[simp] theorem GCore.modSplit_laneQ (g : GCore) (i : Nat) (f : Split → Split) : (g.modSplit i f).laneQ = g.laneQ := rfl
@[simp] theorem GCore.modSplit_compact (g : GCore) (i : Nat) (f : Split → Split) : (g.modSplit i f).compact = g.compact := rfl
@[simp] theorem GCore.modSplit_nbrSeq (g : GCore) (i : Nat) (f : Split → Split) : (g.modSplit i f).nbrSeq = g.nbrSeq := rfl
@[simp] theorem GCore.modSplit_nbrPosted (g : GCore) (i : Nat) (f : Split → Split) : (g.modSplit i f).nbrPosted = g.nbrPosted := rfl

/-! GCore.stick. -/

@[simp] theorem GCore.stick_splits (g : GCore) (w : Word) : (g.stick w).splits = g.splits := rfl
@[simp] theorem GCore.stick_k (g : GCore) (w : Word) : (g.stick w).k = g.k := rfl
@[simp] theorem GCore.stick_v (g : GCore) (w : Word) : (g.stick w).v = g.v := rfl
@[simp] theorem GCore.stick_dead (g : GCore) (w : Word) : (g.stick w).dead = g.dead := rfl
@[simp] theorem GCore.stick_qtags (g : GCore) (w : Word) : (g.stick w).qtags = g.qtags := rfl
@[simp] theorem GCore.stick_b (g : GCore) (w : Word) : (g.stick w).b = g.b := rfl
@[simp] theorem GCore.stick_status (g : GCore) (w : Word) : (g.stick w).status = g.status ||| w := rfl
@[simp] theorem GCore.stick_laneQ (g : GCore) (w : Word) : (g.stick w).laneQ = g.laneQ := rfl
@[simp] theorem GCore.stick_compact (g : GCore) (w : Word) : (g.stick w).compact = g.compact := rfl
@[simp] theorem GCore.stick_nbrSeq (g : GCore) (w : Word) : (g.stick w).nbrSeq = g.nbrSeq := rfl
@[simp] theorem GCore.stick_nbrPosted (g : GCore) (w : Word) : (g.stick w).nbrPosted = g.nbrPosted := rfl

/-! cSet. -/

@[simp] theorem cSet_idx (x : Split) (r : CReg) (v : Cap) : (cSet x r v).idx = x.idx := rfl
@[simp] theorem cSet_s (x : Split) (r : CReg) (v : Cap) : (cSet x r v).s = x.s := rfl
@[simp] theorem cSet_act (x : Split) (r : CReg) (v : Cap) : (cSet x r v).act = x.act := rfl
@[simp] theorem cSet_withheld (x : Split) (r : CReg) (v : Cap) : (cSet x r v).withheld = x.withheld := rfl
@[simp] theorem cSet_c (x : Split) (r : CReg) (v : Cap) : (cSet x r v).c = aset capNull x.c r.toNat v := rfl
@[simp] theorem cSet_pcc (x : Split) (r : CReg) (v : Cap) : (cSet x r v).pcc = x.pcc := rfl
@[simp] theorem cSet_lcc (x : Split) (r : CReg) (v : Cap) : (cSet x r v).lcc = x.lcc := rfl
@[simp] theorem cSet_st (x : Split) (r : CReg) (v : Cap) : (cSet x r v).st = x.st := rfl
@[simp] theorem cSet_age (x : Split) (r : CReg) (v : Cap) : (cSet x r v).age = x.age := rfl
@[simp] theorem cSet_issued (x : Split) (r : CReg) (v : Cap) : (cSet x r v).issued = x.issued := rfl
@[simp] theorem cSet_noWatch (x : Split) (r : CReg) (v : Cap) : (cSet x r v).noWatch = x.noWatch := rfl
@[simp] theorem cSet_part (x : Split) (r : CReg) (v : Cap) : (cSet x r v).part = x.part := rfl

end Sys2Proof.Machine
end

