-- ==== Sys2Proof/Laws/Group.lean ====
section
/-! SUPPORT. Groups and splits: what finding one after an update gives, and what a scalar instruction that retires leaves. -/

namespace Sys2Proof.Machine

theorem find_updWhere {α : Type} (q p : α → Bool) (f : α → α) (l : List α) (h : ∀ a, p a = true → q (f a) = q a) :
    (updWhere p f l).find? q = (l.find? q).map fun a => if p a then f a else a := by
  induction l with
  | nil => rfl
  | cons a l ih =>
    unfold updWhere at *
    simp only [List.map_cons, List.find?_cons]
    by_cases hp : p a = true
    · simp only [hp, if_true, h a hp]
      cases q a <;> simp [ih, hp]
    · simp only [hp, Bool.false_eq_true, if_false]
      cases q a <;> simp [ih, hp]

/-- A group found by name has that name. -/
theorem grpOf_uid {s : State} {u : Nat} {g : Grp} (h : grpOf s u = some g) : g.uid = u := by
  have := List.find?_some h
  simpa using this

/-- A split found by index has that index. -/
theorem split_idx {g : GCore} {i : Nat} {x : Split} (h : g.split i = some x) : x.idx = i := by
  have := List.find?_some h
  simpa using this

theorem grpOf_setGrp {s : State} {g g' : Grp} (h : grpOf s g'.uid = some g) : grpOf (setGrp s g') g'.uid = some g' := by
  unfold grpOf setGrp at *
  rw [find_updWhere]
  · rw [h]; have := grpOf_uid (s := s) h; simp [this]
  · intro a ha; simp at ha; simp [ha]

theorem split_modSplit {g : GCore} {i j : Nat} {f : Split → Split} (hf : ∀ y, (f y).idx = y.idx) :
    (g.modSplit i f).split j = (g.split j).map fun y => if j = i then f y else y := by
  unfold GCore.split GCore.modSplit
  rw [find_updWhere]
  · cases hh : List.find? (fun x => decide (x.idx = j)) g.splits with
    | none => rfl
    | some y =>
      have := List.find?_some hh
      simp only [decide_eq_true_eq] at this
      simp [this]
  · intro a _; simp [hf]

/-- The agent of a scalar instruction: its group is found by name and its split by index. -/
theorem actorSplit_spec {s : State} {g : Grp} {x : Split} (h : actorSplit s = some (g, x)) :
    grpOf s g.uid = some g ∧ g.g.split x.idx = some x ∧ x.st = .ready := by
  unfold actorSplit at h
  split at h
  · split at h
    · rename_i g0 hg
      split at h
      · rename_i y hy
        split at h
        · rename_i hr
          simp only [Option.some.injEq, Prod.mk.injEq] at h
          obtain ⟨rfl, rfl⟩ := h
          refine ⟨?_, ?_, hr⟩
          · unfold actorGrp at hg
            split at hg
            · rename_i g1 _
              rw [grpOf_uid hg]; exact hg
            · exact absurd hg (by simp)
          · rw [split_idx hy]; exact hy
        · exact absurd h (by simp)
      · exact absurd h (by simp)
    · exact absurd h (by simp)
  · exact absurd h (by simp)

theorem scalarStep_eq {s : State} {g : Grp} {x : Split} {f : Grp → Split → Fin} (h : actorSplit s = some (g, x)) :
    scalarStep s f = .next (finish s g.uid x.idx (f g x)) := by
  unfold scalarStep; rw [h]

/-- What a scalar instruction that retires leaves: the writes, the PCC, the order of issue and the SOLO count. -/
theorem finish_ret {s0 s : State} {g : Grp} {i : Nat} {ws : List (Nat × Word)} {p : Option Cap} (h : grpOf s g.uid = some g)
    (hc : g.g.claimWaits (g.g.sSets i ws) i = false) :
    finish s0 g.uid i (.ret s ws p) =
      setGrp s (tickSolo { g with g := stampSplit ((g.g.sSets i ws).modSplit i fun x => { x with pcc := p.getD (nextPcc x) }) i }) := by
  simp [finish, h, hc]

@[simp] theorem nextPcc_eq (x : Split) : nextPcc x = withAddr x.pcc (x.pc + 4) := rfl

theorem getLsbD_setBeat (m : LaneMask) (b : Nat) (w : Word) (hb : b < 3) (c : Nat) (hc : c < 3) (l : Nat) (hl : l < 32) :
    (setBeat m b w).getLsbD (32 * c + l) = if c = b then w.getLsbD l else m.getLsbD (32 * c + l) := by
  have h1 : ∀ i < 96, (BitVec.ofNat 96 ((2 ^ 32 - 1) * 2 ^ (32 * b))).getLsbD i = decide (32 * b ≤ i ∧ i < 32 * b + 32) := by
    intro i hi
    interval_cases b <;> (simp only [BitVec.getLsbD_ofNat]; revert i; decide)
  have h2 : (BitVec.ofNat 96 (w.toNat * 2 ^ (32 * b))).getLsbD (32 * c + l) = (decide (c = b) && w.getLsbD l) := by
    rw [BitVec.getLsbD_ofNat, Nat.testBit_mul_two_pow]
    have : 32 * c + l < 96 := by omega
    by_cases e : c = b
    · subst e; simp [this, BitVec.getLsbD]
    · by_cases q : 32 * b ≤ 32 * c + l
      · have : 32 ≤ 32 * c + l - 32 * b := by omega
        have h3 : w.toNat.testBit (32 * c + l - 32 * b) = false := by
          apply Nat.testBit_lt_two_pow; exact lt_of_lt_of_le w.isLt (Nat.pow_le_pow_right (by decide) this)
        simp [e, h3]
      · simp [e, q]
  unfold setBeat
  rw [BitVec.getLsbD_or, BitVec.getLsbD_and, BitVec.getLsbD_not, h1 _ (by omega), h2]
  have h96 : 32 * c + l < 96 := by omega
  by_cases e : c = b
  · subst e; simp [h96, hl]
  · have : ¬ (32 * b ≤ 32 * c + l ∧ 32 * c + l < 32 * b + 32) := by omega
    simp [e, h96, this]

theorem beat_bit (m : LaneMask) (b l : Nat) : (beat m b).getLsbD l = (decide (l < 32) && m.getLsbD (32 * b + l)) := by
  simp [beat, BitVec.getLsbD_extractLsb']

theorem beat_setBeat (m : LaneMask) (b c : Nat) (w : Word) (hb : b < 3) (hc : c < 3) : beat (setBeat m b w) c = if c = b then w else beat m c := by
  apply BitVec.eq_of_getLsbD_eq
  intro l hl
  rw [beat_bit, getLsbD_setBeat _ _ _ hb _ hc _ hl]
  split <;> simp [-BitVec.getLsbD_eq_getElem, beat_bit, hl]

theorem beat_and (m n : LaneMask) (b : Nat) (hb : b < 3) : beat (m &&& ~~~n) b = beat m b &&& ~~~ beat n b := by
  apply BitVec.eq_of_getLsbD_eq
  intro l hl
  simp [-BitVec.getLsbD_eq_getElem, beat_bit, hl, show 32 * b + l < 96 by omega]


/-- A split after one write of a scalar register, where h are the lanes it cannot claim (R38, R81). -/
def wrS (h : LaneMask) (x : Split) (d : Nat) (v : Word) : Split :=
  if d = 0 then x else if d ≥ 61 then { x with act := setBeat x.act (d - 61) v &&& ~~~ h } else { x with s := aset 0 x.s d v }

/-- A split after several writes. -/
def wrSs (h : LaneMask) (x : Split) : List (Nat × Word) → Split
  | [] => x
  | (d, v) :: l => wrSs h (wrS h x d v) l

theorem wrS_same (h : LaneMask) (x : Split) (d : Nat) (v : Word) : { wrS h x d v with s := x.s, act := x.act } = x := by
  unfold wrS; split <;> [rfl; split <;> rfl]

theorem wrSs_same (h : LaneMask) (ws : List (Nat × Word)) : ∀ x, { wrSs h x ws with s := x.s, act := x.act } = x := by
  induction ws with
  | nil => intro x; rfl
  | cons a l ih =>
    intro x
    have h1 := ih (wrS h x a.1 a.2)
    have h2 := wrS_same h x a.1 a.2
    have h3 := congrArg (fun y : Split => { y with s := x.s, act := x.act }) h1
    simp only at h3
    exact h3.trans h2

theorem sGet_wrS (h : LaneMask) (x : Split) (d r : SReg) (v : Word) :
    sGet (wrS h x d.toNat v) r =
      if r = 0 then 0
      else if d.toNat ≥ 61 ∧ r.toNat ≥ 61 then (if r = d then v else sGet x r) &&& ~~~ beat h (r.toNat - 61)
      else if r = d then v else sGet x r := by
  unfold sGet wrS
  by_cases r0 : r = 0
  · simp [r0]
  · have hr : r.toNat < 64 := r.isLt
    have hd : d.toNat < 64 := d.isLt
    have e1 : (r = d) ↔ r.toNat = d.toNat := BitVec.toNat_inj.symm
    have n0 : r.toNat ≠ 0 := fun h => r0 (BitVec.eq_of_toNat_eq (by simpa using h))
    simp only [r0, if_false]
    by_cases d0 : d.toNat = 0
    · have : ¬ r = d := by rw [e1]; omega
      have hq : ¬ (d.toNat ≥ 61 ∧ r.toNat ≥ 61) := by omega
      simp only [d0, if_true, this, if_false, show ¬ (0 ≥ 61 ∧ r.toNat ≥ 61) by omega]
    · simp only [d0, if_false]
      by_cases d61 : d.toNat ≥ 61
      · simp only [d61, if_true, true_and]
        by_cases r61 : r.toNat ≥ 61
        · simp only [r61, if_true]
          rw [beat_and _ _ _ (by omega), beat_setBeat _ _ _ _ (by omega) (by omega)]
          have : (r.toNat - 61 = d.toNat - 61) ↔ r = d := by rw [e1]; omega
          simp only [this]
        · have : ¬ r = d := by rw [e1]; omega
          simp only [r61, if_false, this]
      · simp only [d61, if_false, false_and]
        by_cases r61 : r.toNat ≥ 61
        · have : ¬ r = d := by rw [e1]; omega
          simp only [r61, if_true, this, if_false]
        · simp only [r61, if_false]
          rw [aget_aset]
          by_cases e : r = d
          · simp [e]
          · have : ¬ r.toNat = d.toNat := by rw [← e1]; exact e
            simp [e, this]

theorem foldl_or_congr {α : Type} (f g : α → LaneMask) (l : List α) (h : ∀ a ∈ l, f a = g a) : ∀ m, l.foldl (fun m a => m ||| f a) m = l.foldl (fun m a => m ||| g a) m := by
  induction l with
  | nil => intro m; rfl
  | cons a l ih =>
    intro m
    simp only [List.foldl_cons, h a (by simp)]
    exact ih (fun b hb => h b (by simp [hb])) _

theorem foreign_modSplit (g : GCore) (i : Nat) (f : Split → Split) (h : ∀ y, (f y).idx = y.idx ∧ (f y).withheld = y.withheld) :
    (g.modSplit i f).foreign i = g.foreign i := by
  unfold GCore.foreign GCore.modSplit updWhere
  simp only [List.foldl_map]
  have e1 : ∀ l : List Split, ∀ m, l.foldl (fun m x => m ||| (if decide (x.idx = i) = true then f x else x).withheld ||| (if (if decide (x.idx = i) = true then f x else x).idx = i then 0 else (if decide (x.idx = i) = true then f x else x).act)) m
      = l.foldl (fun m x => m ||| x.withheld ||| (if x.idx = i then 0 else x.act)) m := by
    intro l
    induction l with
    | nil => intro m; rfl
    | cons a l ih =>
      intro m
      simp only [List.foldl_cons]
      rw [ih]
      by_cases ha : a.idx = i
      · simp [ha, h a]
      · simp [ha]
  exact e1 _ _

theorem sSet_foreign (g : GCore) (i d : Nat) (v : Word) : (g.sSet i d v).foreign i = g.foreign i := by
  unfold GCore.sSet
  split
  · rfl
  · split <;> exact foreign_modSplit _ _ _ (fun y => ⟨rfl, rfl⟩)

theorem sSet_spec {g : GCore} {i : Nat} {x : Split} (h : g.split i = some x) (d : Nat) (v : Word) :
    (g.sSet i d v).split i = some (wrS (g.foreign i) x d v) ∧ (∀ j, j ≠ i → (g.sSet i d v).split j = g.split j) ∧
    { g.sSet i d v with splits := [] } = { g with splits := [] } := by
  unfold GCore.sSet wrS
  split
  · simp [h]
  · split
    · refine ⟨?_, ?_, rfl⟩
      · rw [split_modSplit (by intro y; rfl), h]; simp
      · intro j hj; rw [split_modSplit (by intro y; rfl)]; simp [hj]
    · refine ⟨?_, ?_, rfl⟩
      · rw [split_modSplit (by intro y; rfl), h]; simp
      · intro j hj; rw [split_modSplit (by intro y; rfl)]; simp [hj]

/-- What several writes leave: the split, the other splits and the rest of the group's core. -/
theorem sSets_spec (ws : List (Nat × Word)) : ∀ {g : GCore} {i : Nat} {x : Split}, g.split i = some x →
    (g.sSets i ws).split i = some (wrSs (g.foreign i) x ws) ∧ (∀ j, j ≠ i → (g.sSets i ws).split j = g.split j) ∧
    { g.sSets i ws with splits := [] } = { g with splits := [] } := by
  induction ws with
  | nil => intro g i x h; exact ⟨h, fun _ _ => rfl, rfl⟩
  | cons a l ih =>
    intro g i x h
    obtain ⟨e1, e2, e3⟩ := sSet_spec h a.1 a.2
    obtain ⟨f1, f2, f3⟩ := ih e1
    rw [sSet_foreign] at f1
    exact ⟨f1, fun j hj => (f2 j hj).trans (e2 j hj), f3.trans e3⟩

theorem foldl_max (l : List Split) : ∀ m, m ≤ l.foldl (fun m y => max m y.issued) m ∧ ∀ y ∈ l, y.issued ≤ l.foldl (fun m y => max m y.issued) m := by
  induction l with
  | nil => intro m; simp
  | cons a l ih =>
    intro m
    simp only [List.foldl_cons, List.mem_cons, forall_eq_or_imp]
    have := ih (max m a.issued)
    exact ⟨by omega, by omega, this.2⟩

/-- Splits found by index with the stamps of issue of those before. -/
theorem map_issued {g : GCore} {i : Nat} {f : Split → Split} (hf : ∀ y, (f y).issued = y.issued) :
    ∀ y ∈ g.splits, ∃ z ∈ (g.modSplit i f).splits, z.issued = y.issued := by
  intro y hy
  refine ⟨if decide (y.idx = i) = true then f y else y, List.mem_map.2 ⟨y, hy, rfl⟩, ?_⟩
  split <;> simp [hf]

theorem sSets_issued (ws : List (Nat × Word)) : ∀ (g : GCore) (i : Nat), ∀ y ∈ g.splits, ∃ z ∈ (g.sSets i ws).splits, z.issued = y.issued := by
  induction ws with
  | nil => intro g i y hy; exact ⟨y, hy, rfl⟩
  | cons a l ih =>
    intro g i y hy
    have : ∃ z ∈ (g.sSet i a.1 a.2).splits, z.issued = y.issued := by
      unfold GCore.sSet
      split
      · exact ⟨y, hy, rfl⟩
      · split
        · exact map_issued (fun z => by rfl) y hy
        · exact map_issued (fun z => by rfl) y hy
    obtain ⟨z, hz, e⟩ := this
    obtain ⟨w, hw, e'⟩ := ih _ i z hz
    exact ⟨w, hw, e'.trans e⟩

theorem setGrp_setGrp (s : State) (g h : Grp) (e : h.uid = g.uid) : setGrp (setGrp s g) h = setGrp s h := by
  unfold setGrp updWhere
  simp only [List.map_map]
  congr 1
  apply List.map_congr_left
  intro a _
  simp only [Function.comp_apply, e]
  by_cases ha : a.uid = g.uid <;> simp [ha]

theorem mask_ext {m n : LaneMask} (h : ∀ b < 3, beat m b = beat n b) : m = n := by
  apply BitVec.eq_of_getLsbD_eq
  intro i hi
  have h1 := congrArg (fun w => w.getLsbD (i % 32)) (h (i / 32) (by omega))
  simp only [beat_bit, Nat.mod_lt _ (show 32 > 0 by decide), decide_true, Bool.true_and] at h1
  rw [show 32 * (i / 32) + i % 32 = i by omega] at h1
  exact h1

/-- The beats of the activity mask are s61 to s63. -/
theorem sGet_beat (x : Split) (b : Nat) (hb : b < 3) : sGet x (BitVec.ofNat 6 (61 + b)) = beat x.act b := by
  have : (BitVec.ofNat 6 (61 + b)).toNat = 61 + b := by simp; omega
  unfold sGet
  rw [if_neg (by intro h; have h2 := congrArg BitVec.toNat h; rw [this] at h2; simp at h2), if_pos (by omega), this]
  congr 1; omega

/-- What a scalar instruction that retires leaves: its writes, the PCC, the order of issue and the SOLO count; a write that claims
a lane of another split's queued block does not retire (R79, R81, R83). -/
theorem finish_spec {s0 s1 : State} {gg : Grp} {i : Nat} {x : Split} {ws : List (Nat × Word)} {p : Option Cap}
    (hg : grpOf s1 gg.uid = some gg) (hx : gg.g.split i = some x)
    (hw : ∀ b ∈ gg.g.laneQ, b.split ≠ i → b.mask &&& ((wrSs (gg.g.foreign i) x ws).act &&& ~~~ x.act) = 0) :
    ∃ g' n, finish s0 gg.uid i (.ret s1 ws p) = setGrp s1 g' ∧ { g' with g := gg.g, solo := gg.solo } = gg ∧
      g'.solo = gg.solo.map (· - 1) ∧ { g'.g with splits := [] } = { gg.g with splits := [] } ∧
      g'.g.split i = some { wrSs (gg.g.foreign i) x ws with pcc := p.getD (withAddr x.pcc (x.pc + 4)), issued := n, noWatch := false } ∧
      (∀ j, j ≠ i → g'.g.split j = gg.g.split j) ∧ ∀ y ∈ gg.g.splits, y.issued < n := by
  obtain ⟨e1, e2, e3⟩ := sSets_spec ws hx
  have hc : gg.g.claimWaits (gg.g.sSets i ws) i = false := by
    unfold GCore.claimWaits
    rw [hx, e1]
    by_contra hh
    simp only [Bool.not_eq_false, Bool.and_eq_true, List.any_eq_true, bne_iff_ne] at hh
    obtain ⟨-, b, hb, hbi, hm⟩ := hh
    exact hm (hw b hb hbi)
  have hp : nextPcc (wrSs (gg.g.foreign i) x ws) = withAddr x.pcc (x.pc + 4) := by
    have := congrArg (·.pcc) (wrSs_same (gg.g.foreign i) ws x)
    simp only at this
    unfold nextPcc Split.pc; rw [this]
  rw [finish_ret hg hc]
  refine ⟨_, 1 + ((gg.g.sSets i ws).modSplit i fun x => { x with pcc := p.getD (nextPcc x) }).splits.foldl (fun m y => max m y.issued) 0,
    rfl, rfl, rfl, ?_, ?_, ?_, ?_⟩
  · exact e3
  · simp only [tickSolo, stampSplit]
    rw [split_modSplit (by intro y; rfl), split_modSplit (by intro y; rfl), e1]
    simp only [Option.map_some, if_true, hp]
  · intro j hj
    simp only [tickSolo, stampSplit]
    rw [split_modSplit (by intro y; rfl), split_modSplit (by intro y; rfl), e2 j hj]
    cases gg.g.split j <;> simp [hj]
  · intro y hy
    obtain ⟨z, hz, hzi⟩ := sSets_issued ws gg.g i y hy
    obtain ⟨w, hw, hwi⟩ := map_issued (g := gg.g.sSets i ws) (i := i) (f := fun x => { x with pcc := p.getD (nextPcc x) }) (fun y => rfl) z hz
    have := (foldl_max _ 0).2 w hw
    omega

/-- An instruction whose write claims a lane of another split's queued block stays to be tried again (R81). -/
theorem finish_waits {s0 s1 : State} {gg : Grp} {i : Nat} {x : Split} {ws : List (Nat × Word)} {p : Option Cap}
    (hg : grpOf s1 gg.uid = some gg) (hx : gg.g.split i = some x) {b : LaneBlock} (hb : b ∈ gg.g.laneQ) (hi : b.split ≠ i)
    (hw : b.mask &&& ((wrSs (gg.g.foreign i) x ws).act &&& ~~~ x.act) ≠ 0) : finish s0 gg.uid i (.ret s1 ws p) = s0 := by
  obtain ⟨e1, -, -⟩ := sSets_spec ws hx
  have hc : gg.g.claimWaits (gg.g.sSets i ws) i = true := by
    unfold GCore.claimWaits
    rw [hx, e1]
    simp only [Bool.and_eq_true, bne_iff_ne, List.any_eq_true]
    exact ⟨fun h => hw (by rw [h]; simp), b, hb, hi, hw⟩
  simp [finish, hg, hc]

end Sys2Proof.Machine
end

