-- ==== Sys2Proof/Laws/Claims.lean ====
section
/-! SUPPORT. How a scalar instruction ends, in the terms of the statements: it completes with its writes, or it traps. -/

namespace Sys2Proof.Claims

open Sys2Proof Sys2Proof.Machine

theorem puts_wr (g : Grp) (x0 : Split) (ws : List (SReg × Word)) : ∀ (x : Split) (f : SReg → Word), (∀ r, sGet x r = f r) →
    ∀ r, sGet (wrSs (g.g.foreign x0.idx) x (ws.map fun w => (w.1.toNat, w.2))) r = ws.foldl (fun f w => put g x0 f w.1 w.2) f r := by
  induction ws with
  | nil => intro x f h r; exact h r
  | cons a l ih =>
    intro x f h r
    simp only [List.map_cons, wrSs, List.foldl_cons]
    apply ih
    intro r'
    rw [sGet_wrS]
    unfold put
    simp only [h]

theorem claim_iff {g : Grp} {x : Split} {ws : List (SReg × Word)} :
    Seizes g x ws ↔ ∃ b ∈ g.g.laneQ, b.split ≠ x.idx ∧
      b.mask &&& ((wrSs (g.g.foreign x.idx) x (ws.map fun w => (w.1.toNat, w.2))).act &&& ~~~ x.act) ≠ 0 := by
  have key : ∀ b < 3, beat (wrSs (g.g.foreign x.idx) x (ws.map fun w => (w.1.toNat, w.2))).act b = puts g x ws (BitVec.ofNat 6 (61 + b)) := by
    intro b hb
    rw [← sGet_beat _ _ hb, puts_wr g x ws x (sGet x) (fun _ => rfl)]; rfl
  have ext : ∀ m : LaneMask, m ≠ 0 ↔ ∃ b < 3, beat m b ≠ 0 := by
    intro m
    constructor
    · intro h; by_contra hn; push Not at hn
      exact h (mask_ext fun b hb => by rw [hn b hb]; unfold beat; interval_cases b <;> decide)
    · rintro ⟨b, hb, h⟩ e; apply h; rw [e]; unfold beat; interval_cases b <;> decide
  have band : ∀ (m n : LaneMask) b, beat (m &&& n) b = beat m b &&& beat n b := by
    intro m n b; unfold beat; exact BitVec.extractLsb'_and ..
  unfold Seizes
  constructor
  · rintro ⟨b, hb, hi, r, hr, hm⟩
    refine ⟨b, hb, hi, (ext _).2 ⟨r.toNat - 61, by omega, ?_⟩⟩
    have hr' : BitVec.ofNat 6 (61 + (r.toNat - 61)) = r := by rw [show 61 + (r.toNat - 61) = r.toNat by omega]; simp
    rw [band, beat_and _ _ _ (by omega), key _ (by omega), ← sGet_beat x _ (by omega), hr']
    exact hm
  · rintro ⟨b, hb, hi, hm⟩
    obtain ⟨k, hk, hm⟩ := (ext _).1 hm
    have hr' : (BitVec.ofNat 6 (61 + k)).toNat = 61 + k := by simp; omega
    refine ⟨b, hb, hi, BitVec.ofNat 6 (61 + k), by omega, ?_⟩
    rw [band, beat_and _ _ _ hk, key _ hk, ← sGet_beat x _ hk] at hm
    rw [hr', show 61 + k - 61 = k by omega]
    exact hm

theorem pcc1 (x : Split) : withAddr x.pcc (x.pc + 4) = pccAt x 1 := rfl

theorem retires {s0 s1 : State} {g : Grp} {x : Split} {ws : List (SReg × Word)} {p : Option Cap} (hg : grpOf s1 g.uid = some g)
    (hx : g.g.split x.idx = some x) (hc : ¬ Seizes g x ws) :
    Retires s1 g x (p.getD (pccAt x 1)) (puts g x ws) (finish s0 g.uid x.idx (.ret s1 (ws.map fun w => (w.1.toNat, w.2)) p)) := by
  rw [claim_iff] at hc
  obtain ⟨g', n, e1, e2, e3, e4, e5, e6, e7⟩ := finish_spec (s0 := s0) (ws := ws.map fun w => (w.1.toNat, w.2)) (p := p) hg hx
    (by intro b hb hi; by_contra h; exact hc ⟨b, hb, hi, h⟩)
  refine ⟨g', _, e1, e2, e3, e4, e5, ?_, ?_, e6, e7⟩
  · have := wrSs_same (g.g.foreign x.idx) (ws.map fun w => (w.1.toNat, w.2)) x
    have := congrArg (fun y : Split => { y with pcc := p.getD (pccAt x 1), issued := x.issued, noWatch := x.noWatch }) this
    exact this
  · intro r
    exact puts_wr g x ws x (sGet x) (fun _ => rfl) r

theorem retires_set {s0 s : State} {g0 g : Grp} {x : Split} {ws : List (SReg × Word)} {p : Option Cap} (hg : grpOf s g.uid = some g0)
    (hx : g.g.split x.idx = some x) (hc : ¬ Seizes g x ws) :
    Retires s g x (p.getD (pccAt x 1)) (puts g x ws) (finish s0 g.uid x.idx (.ret (setGrp s g) (ws.map fun w => (w.1.toNat, w.2)) p)) := by
  obtain ⟨g', x', e1, e2, r⟩ := retires (s0 := s0) (p := p) (grpOf_setGrp hg) hx hc
  refine ⟨g', x', ?_, e2, r⟩
  rw [e1, setGrp_setGrp]
  exact congrArg (·.uid) e2

theorem no_claim (g : Grp) (x : Split) : ¬ Seizes g x [] := by
  rw [claim_iff]
  rintro ⟨b, -, -, h⟩
  apply h
  simp [wrSs]

theorem runs_spec {s : State} {g : Grp} {x : Split} (h : Runs s g x) : grpOf s g.uid = some g ∧ g.g.split x.idx = some x := 
  ⟨(actorSplit_spec h).1, (actorSplit_spec h).2.1⟩
/-- completion of a scalar instruction whose effect is a plain ret in the same state -/
theorem completes_ret {i : Instr} {s : State} {g : Grp} {x : Split} {ws : List (SReg × Word)} {f : Grp → Split → Fin} (p : Option Cap) {p' : Cap}
    (h : Runs s g x) (he : exec i s = scalarStep s f)
    (hf : f g x = .ret s (ws.map fun w => (w.1.toNat, w.2)) p) (hp : p.getD (pccAt x 1) = p') (hc : ¬ Seizes g x ws) :
    Completes i s g x p' ws := by
  refine ⟨_, (he.trans (scalarStep_eq h)), ?_⟩
  rw [hf, ← hp]
  exact retires (runs_spec h).1 (runs_spec h).2 hc

theorem completes_set {i : Instr} {s : State} {g g1 : Grp} {x : Split} {ws : List (SReg × Word)} {f : Grp → Split → Fin} (p : Option Cap) {p' : Cap}
    (h : Runs s g x) (he : exec i s = scalarStep s f)
    (hf : f g x = .ret (setGrp s g1) (ws.map fun w => (w.1.toNat, w.2)) p) (hu : g1.uid = g.uid) (hx : g1.g.split x.idx = some x) (hp : p.getD (pccAt x 1) = p') (hc : ¬ Seizes g1 x ws) :
    Completes i s g1 x p' ws := by
  refine ⟨_, (he.trans (scalarStep_eq h)), ?_⟩
  rw [hf, ← hp, ← hu]
  exact retires_set (by rw [hu]; exact (runs_spec h).1) hx hc

theorem traps_of {i : Instr} {s s1 : State} {g g1 : Grp} {x : Split} {f : Grp → Split → Fin} {t : TrapInfo}
    (h : Runs s g x) (he : exec i s = scalarStep s f) (hf : f g x = .trap s1 t) (hg : grpOf s1 g.uid = some g1) (hx : g1.g.split x.idx = some x) :
    Traps i s s1 g x t := by
  unfold Traps
  rw [he, scalarStep_eq h, hf]
  simp [finish, hg, hx]

theorem cSet_idx (x : Split) (d : CReg) (v : Cap) : (cSet x d v).idx = x.idx := rfl

theorem split_setSplit {g : GCore} {x y : Split} (h : g.split y.idx = some x) : (g.setSplit y).split y.idx = some y := by
  unfold GCore.split GCore.setSplit at *
  rw [find_updWhere]
  · rw [h]
    have := List.find?_some h
    simp only [decide_eq_true_eq] at this
    simp [this]
  · intro a ha; simp at ha; simp [ha]

theorem completes_set' {i : Instr} {s : State} {g g1 : Grp} {x x1 : Split} {ws : List (SReg × Word)} {f : Grp → Split → Fin} (p : Option Cap) {p' : Cap}
    (h : Runs s g x) (he : exec i s = scalarStep s f) (hi : x1.idx = x.idx)
    (hf : f g x = .ret (setGrp s g1) (ws.map fun w => (w.1.toNat, w.2)) p) (hu : g1.uid = g.uid) (hx : g1.g.split x.idx = some x1) (hp : p.getD (pccAt x1 1) = p') (hc : ¬ Seizes g1 x1 ws) :
    Completes i s g1 x1 p' ws := by
  refine ⟨_, (he.trans (scalarStep_eq h)), ?_⟩
  rw [hf, ← hp, ← hu, ← hi]
  exact retires_set (by rw [hu]; exact (runs_spec h).1) (by rw [hi]; exact hx) hc

theorem below_range (n : Nat) : below n = List.range n := by
  have : ∀ n k, upto k n = List.range' k n := by
    intro n; induction n with
    | zero => intro k; rfl
    | succ n ih => intro k; simp [upto, ih, List.range'_succ]
  rw [below, this, List.range_eq_range']
theorem settles_committed {s s1 : State} {g g1 : Grp} {x x1 : Split} (h : Settles s g x s1 g1 x1) (f : State → Grp → Split → Machine.Fin) :
    committed s g x f = f s1 g1 x1 := by
  obtain ⟨h1, h2, h3, -⟩ := h
  unfold committed; rw [h1]; simp only [h2, h3]

theorem settles_busy {s s1 : State} {g g1 : Grp} {x x1 : Split} (h : Settles s g x s1 g1 x1) : mcastBusy s1 g.uid = false := by
  obtain ⟨-, -, -, h4⟩ := h
  unfold mcastBusy; simp only [List.any_eq_false, decide_eq_true_eq]; exact h4

theorem settles_uid {s s1 : State} {g g1 : Grp} {x x1 : Split} (h : Settles s g x s1 g1 x1) : g1.uid = g.uid ∧ x1.idx = x.idx := 
  ⟨grpOf_uid h.2.1, split_idx h.2.2.1⟩

theorem settles_irr {s s1 : State} {g g1 : Grp} {x x1 : Split} (hr : NoRegion g) (h : Settles s g x s1 g1 x1) (f : State → Grp → Split → Machine.Fin) :
    irrevocable s g x f = f s1 g1 x1 := by
  have hb := settles_busy h
  obtain ⟨h1, h2, h3, -⟩ := h
  have : (g.region.isSome && g.frame.isNone) = false := by
    rcases hr with hr | hr
    · simp [hr]
    · cases hf : g.frame
      · exact absurd hf hr
      · simp
  unfold irrevocable; rw [h1]; simp [this, hb, h2, h3]

theorem completes_in {i : Instr} {s s1 : State} {g g1 : Grp} {x x1 : Split} {ws : List (SReg × Word)} {f : Grp → Split → Machine.Fin} (p : Option Cap) {p' : Cap}
    (h : Runs s g x) (he : exec i s = scalarStep s f) (hf : f g x = .ret s1 (ws.map fun w => (w.1.toNat, w.2)) p)
    (hg : grpOf s1 g.uid = some g1) (hx : g1.g.split x.idx = some x1) (hp : p.getD (pccAt x1 1) = p') (hc : ¬ Seizes g1 x1 ws) :
    CompletesIn i s s1 g1 x1 p' ws := by
  refine ⟨_, (he.trans (scalarStep_eq h)), ?_⟩
  rw [hf, ← hp, ← grpOf_uid hg, ← split_idx hx]
  exact retires (by rw [grpOf_uid hg]; exact hg) (by rw [split_idx hx]; exact hx) hc

theorem traps_in {i : Instr} {s s1 : State} {g g1 : Grp} {x x1 : Split} {f : Grp → Split → Machine.Fin} {t : TrapInfo}
    (h : Runs s g x) (he : exec i s = scalarStep s f) (hf : f g x = .trap s1 t) (hg : grpOf s1 g.uid = some g1) (hx : g1.g.split x.idx = some x1) :
    Traps i s s1 g1 x1 t := by
  unfold Traps
  rw [he, scalarStep_eq h, hf]
  simp only [finish, hg, hx]
  rw [grpOf_uid hg, split_idx hx]

end Sys2Proof.Claims
end

