-- ==== Sys2Proof/Laws/Memory.lean ====
section
/-! SUPPORT. Every operation on memory keeps its canonical form. -/

namespace Sys2Proof.Machine

/-- Memory in canonical form: device memory, host memory and each scratchpad. -/
theorem ramOk_iff {r : Ram} : Safety.ramOk r = true ↔ r.hbm.wf = true ∧ r.host.wf = true ∧ ∀ p ∈ r.pads, p.2.mem.wf = true := by
  simp [Safety.ramOk, and_assoc]

/-- The memory of the machine after reset has the canonical form. -/
theorem reset_memOk : Safety.memOk State.reset = true := rfl

/-- What a sparse map holds after a write was there or is the value written. -/
theorem mem_aset {α : Type} [DecidableEq α] {d : α} {l : AList α} {k : Nat} {v : α} {p : Nat × α} (h : p ∈ aset d l k v) :
    p ∈ l ∨ p.2 = v := by
  induction l with
  | nil => simp only [aset] at h; split at h <;> simp_all
  | cons q l ih =>
    obtain ⟨j, w⟩ := q
    simp only [aset] at h
    split_ifs at h
    · rcases List.mem_cons.1 h with rfl | h
      · exact .inl (by simp)
      · exact .inl (List.mem_cons_of_mem _ (List.mem_filter.1 h).1)
    · rcases List.mem_cons.1 h with rfl | h
      · exact .inr rfl
      · exact .inl h
    · exact .inl (List.mem_cons_of_mem _ (List.mem_filter.1 h).1)
    · rcases List.mem_cons.1 h with rfl | h
      · exact .inr rfl
      · exact .inl (List.mem_cons_of_mem _ h)
    · rcases List.mem_cons.1 h with rfl | h
      · exact .inl (by simp)
      · rcases ih h with h | h
        · exact .inl (List.mem_cons_of_mem _ h)
        · exact .inr h

/-- A property of every value of a sparse map holds of what is read from it. -/
theorem aget_prop {α : Type} {P : α → Prop} {d : α} {l : AList α} {k : Nat} (hd : P d) (h : ∀ p ∈ l, P p.2) : P (aget d l k) := by
  induction l with
  | nil => exact hd
  | cons q l ih =>
    obtain ⟨j, w⟩ := q
    simp only [aget]
    split
    · exact h (j, w) (by simp)
    · exact ih fun p hp => h p (by simp [hp])

theorem padOf_wf {r : Ram} (h : Safety.ramOk r = true) (w : Nat) : (padOf r w).mem.wf = true :=
  aget_prop (P := fun p : Pad => p.mem.wf = true) rfl (ramOk_iff.1 h).2.2

/-- A scratchpad written with canonical memory keeps memory canonical. -/
theorem setPad_ok {r : Ram} {w : Nat} {p : Pad} (h : Safety.ramOk r = true) (hp : p.mem.wf = true) :
    Safety.ramOk { r with pads := aset padNone r.pads w p } = true := by
  obtain ⟨h1, h2, h3⟩ := ramOk_iff.1 h
  refine ramOk_iff.2 ⟨h1, h2, fun q hq => ?_⟩
  rcases mem_aset hq with hq | hq
  · exact h3 q hq
  · rw [hq]; exact hp

theorem putByte_ok {r : Ram} {l : Loc} {b : Byte} (h : Safety.ramOk r = true) : Safety.ramOk (putByte r l b) = true := by
  obtain ⟨h1, h2, h3⟩ := ramOk_iff.1 h
  unfold putByte
  split
  · exact ramOk_iff.2 ⟨wr8_wf h1, h2, h3⟩
  · exact ramOk_iff.2 ⟨h1, wr8_wf h2, h3⟩
  · exact setPad_ok h (wr8_wf (padOf_wf h _))
  · exact h

theorem putTag_ok {r : Ram} {l : Loc} {t : Bool} (h : Safety.ramOk r = true) : Safety.ramOk (putTag r l t) = true := by
  unfold putTag
  split
  · exact ramOk_iff.2 (ramOk_iff.1 h)
  · exact setPad_ok h (padOf_wf h _)
  · exact h

theorem putSpan_ok {r : Ram} {l : Loc} {c : BitVec 3} (h : Safety.ramOk r = true) : Safety.ramOk (putSpan r l c) = true := by
  unfold putSpan
  split
  · exact setPad_ok h (padOf_wf h _)
  · exact h

/-- A write of bytes anywhere keeps memory canonical. -/
theorem ramWrite_ok {sp : BitVec 3} (bs : List Byte) : ∀ {r : Ram} {l : Loc}, Safety.ramOk r = true → Safety.ramOk (ramWrite r l sp bs) = true := by
  induction bs with
  | nil => intro r l h; exact h
  | cons b bs ih => intro r l h; exact ih (putSpan_ok (putTag_ok (putByte_ok h)))

/-- A write of a capability keeps memory canonical. -/
theorem ramWriteCap_ok {r : Ram} {l : Loc} {v : Cap} (h : Safety.ramOk r = true) : Safety.ramOk (ramWriteCap r l v) = true :=
  putTag_ok (ramWrite_ok _ h)

theorem bumpVers_ok {r : Ram} {l : Loc} {n : Nat} (h : Safety.ramOk r = true) : Safety.ramOk (bumpVers r l n) = true := by
  exact ramOk_iff.2 (ramOk_iff.1 h)

/-- A barrier operation keeps memory canonical. -/
theorem barRam_ok {r : Ram} {l : Loc} {op : BarOp} (h : Safety.ramOk r = true) : Safety.ramOk (barRam r l op) = true := ramWrite_ok _ h

theorem foldl_ok {α : Type} {f : Ram → α → Ram} (hf : ∀ r a, Safety.ramOk r = true → Safety.ramOk (f r a) = true) (l : List α) :
    ∀ {r : Ram}, Safety.ramOk r = true → Safety.ramOk (l.foldl f r) = true := by
  induction l with
  | nil => intro r h; exact h
  | cons a l ih => intro r h; exact ih (hf r a h)

/-- The end of a mapping keeps memory canonical. -/
theorem unmapRam_ok {r : Ram} {m : MapEnt} (h : Safety.ramOk r = true) : Safety.ramOk (unmapRam r m) = true := by
  unfold unmapRam
  exact foldl_ok (fun r _ h => putTag_ok h) _ (ramWrite_ok _ (ramOk_iff.2 (ramOk_iff.1 h)))

/-! Events on the state. -/

@[simp] theorem markHit_ram (s : State) (u : Nat) (ls : List Loc) : (markHit s u ls).ram = s.ram := rfl
@[simp] theorem hitReads_ram (s : State) (p : Loc → Bool) : (hitReads s p).ram = s.ram := rfl
@[simp] theorem bumpEpoch_ram (s : State) (k : Nat) : (bumpEpoch s k).ram = s.ram := rfl
@[simp] theorem markDirty_ram (s : State) (ls : List Loc) : (markDirty s ls).ram = s.ram := rfl
@[simp] theorem markClean_ram (s : State) (ls : List Loc) : (markClean s ls).ram = s.ram := rfl
@[simp] theorem takeHost_ram (s : State) (ls : List Loc) : (takeHost s ls).ram = s.ram := rfl
@[simp] theorem hostState_ram (s : State) (st : Nat) (ls : List Loc) : (hostState s st ls).ram = s.ram := rfl
@[simp] theorem shareHost_ram (s : State) (ls : List Loc) : (shareHost s ls).ram = s.ram := rfl
@[simp] theorem askHost_ram (s : State) (ls : List Loc) : (askHost s ls).ram = s.ram := rfl
@[simp] theorem aliasReads_ram (s : State) (m : MapEnt) : (aliasReads s m).ram = s.ram := rfl

@[simp] theorem mend_ram (s : State) (l : Loc) (n : Nat) : (mend s l n).ram = s.ram := by
  unfold mend; split <;> rfl

/-- A wait for a line changes no memory. -/
theorem blocked_ram {s t : State} {u : Nat} {w : Bool} {ls : List Loc} (h : blocked s u w ls = some t) : t.ram = s.ram := by
  unfold blocked at h
  split at h
  · cases h; rfl
  · split at h
    · cases h; rfl
    · cases h

@[simp] theorem wrapBumps_ram (s : State) (subs : List Nat) : (wrapBumps s subs).ram = s.ram := by
  have h : ∀ (l : List Nat) (t : State), (l.foldl bumpEpoch t).ram = t.ram := by
    intro l
    induction l with
    | nil => intro t; rfl
    | cons a l ih => intro t; exact (ih _).trans (bumpEpoch_ram t a)
  exact h _ _

/-- One write event keeps memory canonical. -/
theorem putMem_ok {s : State} {u : Nat} {l : Loc} {sp : BitVec 3} {bs : List Byte} (h : Safety.memOk s = true) :
    Safety.memOk (putMem s u l sp bs) = true := by
  simp only [Safety.memOk, putMem, markHit_ram, wrapBumps_ram, hostState_ram, takeHost_ram, markDirty_ram, mend_ram]
  exact bumpVers_ok (ramWrite_ok _ h)

/-- One write event of a capability keeps memory canonical. -/
theorem putCap_ok {s : State} {u : Nat} {l : Loc} {v : Cap} (h : Safety.memOk s = true) : Safety.memOk (putCap s u l v) = true := by
  simp only [Safety.memOk, putCap, markHit_ram, wrapBumps_ram, hostState_ram, takeHost_ram, markDirty_ram, mend_ram]
  exact bumpVers_ok (ramWriteCap_ok h)

theorem putTagEv_ok {s : State} {u : Nat} {l : Loc} {t : Bool} (h : Safety.memOk s = true) : Safety.memOk (putTagEv s u l t) = true :=
  putTag_ok h

theorem barEvent_ok {s : State} {u : Nat} {l : Loc} {op : BarOp} (h : Safety.memOk s = true) : Safety.memOk (barEvent s u l op) = true :=
  putMem_ok h

/-- Tags that pass the load barrier keep memory canonical. -/
theorem barTags_ok {s : State} {w : Nat} {l : Loc} {n : Nat} (h : Safety.memOk s = true) : Safety.memOk (barTags s w l n) = true := by
  simp only [Safety.memOk, barTags]
  exact foldl_ok (fun r k h => by generalize epochBar _ _ _ = w; split <;> first | exact h | exact putTag_ok h) _ h

theorem unmapOne_ok {s : State} {m : MapEnt} (h : Safety.memOk s = true) : Safety.memOk (unmapOne s m) = true := by
  simp only [Safety.memOk, unmapOne, aliasReads_ram]
  exact barTags_ok (s := { s with ram := unmapRam s.ram m }) (unmapRam_ok h)

/-- A mapping that takes effect keeps memory canonical. -/
theorem mapOne_ok {s : State} {m : MapEnt} (h : Safety.memOk s = true) : Safety.memOk (mapOne s m) = true := by
  unfold mapOne
  dsimp only
  simp only [Safety.memOk, aliasReads_ram]
  refine barTags_ok ?_
  simp only [Safety.memOk, markHit_ram]
  exact ramOk_iff.2 (ramOk_iff.1 (foldl_ok (fun r _ h => putTag_ok h) _ (ramWrite_ok _ h)))

/-- An event record of the host keeps memory canonical. -/
theorem raiseEvent_ok {s : State} {k src d : Nat} {p : List Byte} (h : Safety.memOk s = true) : Safety.memOk (raiseEvent s k src d p) = true := by
  have keep : ∀ (t : State) (c : Chip) (o : List Out), Safety.memOk t = true → Safety.memOk { t with chip := c, outbox := o } = true :=
    fun _ _ _ h => h
  unfold raiseEvent
  dsimp only
  split
  · exact keep s _ _ h
  · exact keep (putMem s 0 _ 0 _) _ _ (putMem_ok h)

/-! Ranges. -/

theorem awfFrom_filter {α : Type} [DecidableEq α] {d : α} (p : Nat × α → Bool) {l : AList α} :
    ∀ {lo : Nat}, awfFrom d lo l = true → awfFrom d lo (l.filter p) = true := by
  induction l with
  | nil => intros; rfl
  | cons q l ih =>
    intro lo w
    simp only [awfFrom, Bool.and_eq_true, decide_eq_true_eq] at w
    simp only [List.filter_cons]
    split
    · simp only [awfFrom, Bool.and_eq_true, decide_eq_true_eq]; exact ⟨w.1, ih w.2⟩
    · exact awfFrom_mono (by omega) (ih w.2)

/-- Canonical form, said of the list: keys strictly rise and no value is the default. -/
theorem awfFrom_iff {α : Type} [DecidableEq α] {d : α} {l : AList α} : ∀ {lo : Nat},
    awfFrom d lo l = true ↔ (∀ p ∈ l, lo ≤ p.1 ∧ p.2 ≠ d) ∧ l.Pairwise fun p q => p.1 < q.1 := by
  induction l with
  | nil => intro lo; simp [awfFrom]
  | cons q l ih =>
    intro lo
    simp only [awfFrom, Bool.and_eq_true, decide_eq_true_eq, ih, List.mem_cons, forall_eq_or_imp, List.pairwise_cons]
    constructor
    · rintro ⟨⟨h1, h2⟩, h3, h4⟩
      exact ⟨⟨⟨h1, h2⟩, fun p hp => ⟨by have := (h3 p hp).1; omega, (h3 p hp).2⟩⟩, fun p hp => (h3 p hp).1, h4⟩
    · rintro ⟨⟨⟨h1, h2⟩, h3⟩, h4, h5⟩
      exact ⟨⟨h1, h2⟩, fun p hp => ⟨h4 p hp, (h3 p hp).2⟩, h5⟩

theorem wf_iff {m : Memory} : m.wf = true ↔ (∀ p ∈ m, p.2 ≠ 0) ∧ m.Pairwise fun p q => p.1 < q.1 := by
  unfold Memory.wf awf
  rw [awfFrom_iff]
  simp

/-- Memory cut to some of its bytes is canonical. -/
theorem wf_filter {m : Memory} {p : Nat × Byte → Bool} (h : m.wf = true) : Memory.wf (m.filter p) = true := awfFrom_filter p h

/-- A range filled with canonical contents that lie in it is canonical. -/
theorem putRange_wf {m new : Memory} {lo n : Nat} (h : m.wf = true) (h' : new.wf = true) (hr : ∀ p ∈ new, lo ≤ p.1 ∧ p.1 < lo + n) :
    Memory.wf (putRange m lo n new) = true := by
  rw [wf_iff] at *
  unfold putRange
  refine ⟨?_, ?_⟩
  · intro p hp
    simp only [List.mem_append, List.mem_filter, decide_eq_true_eq] at hp
    rcases hp with (hp | hp) | hp
    · exact h.1 p hp.1
    · exact h'.1 p hp
    · exact h.1 p hp.1
  · rw [List.pairwise_append, List.pairwise_append]
    refine ⟨⟨h.2.filter _, h'.2, ?_⟩, h.2.filter _, ?_⟩
    · intro p hp q hq
      simp only [List.mem_filter, decide_eq_true_eq] at hp
      have := hr q hq
      omega
    · intro p hp q hq
      simp only [List.mem_append, List.mem_filter, decide_eq_true_eq] at hp hq
      rcases hp with hp | hp
      · omega
      · have := hr p hp; omega

/-- Bytes as a sparse map are canonical and lie where they stand. -/
theorem memFrom_wf (a : Nat) (b : List Byte) : (memFrom a b).wf = true ∧ ∀ p ∈ memFrom a b, a ≤ p.1 ∧ p.1 < a + b.length := by
  have hz : ∀ e ∈ b.zipIdx, e.2 < b.length := by
    intro e he
    obtain ⟨x, i⟩ := e
    have := List.mem_zipIdx he
    simpa using this.2.1
  refine ⟨wf_iff.2 ⟨?_, ?_⟩, ?_⟩
  · intro p hp
    simp only [memFrom, List.mem_map, List.mem_filter, bne_iff_ne] at hp
    obtain ⟨e, ⟨-, he⟩, rfl⟩ := hp
    exact he
  · unfold memFrom
    rw [List.pairwise_map]
    have h0 : ∀ (l : List Byte) (k : Nat), (l.zipIdx k).Pairwise fun p q => p.2 < q.2 := by
      intro l
      induction l with
      | nil => intro k; simp
      | cons x l ih =>
        intro k
        rw [List.zipIdx_cons, List.pairwise_cons]
        refine ⟨?_, ih _⟩
        rintro ⟨y, i⟩ he
        have := (List.mem_zipIdx he).1
        simp only; omega
    exact ((h0 b 0).filter _).imp fun h => by omega
  · intro p hp
    simp only [memFrom, List.mem_map, List.mem_filter] at hp
    obtain ⟨e, ⟨he, -⟩, rfl⟩ := hp
    have := hz e he
    simp only; omega

/-- A region's bytes moved to another region are canonical and lie in it. -/
theorem moveData_wf {m : Memory} (src dst : Nat) (h : m.wf = true) :
    (moveData m src dst).wf = true ∧ ∀ p ∈ moveData m src dst, regionBase dst ≤ p.1 ∧ p.1 < regionBase dst + regionSize := by
  rw [wf_iff] at *
  have hin : ∀ e ∈ m.filter (fun e => regionBase src ≤ e.1 && e.1 < regionBase (src + 1)), regionBase src ≤ e.1 ∧ e.1 < regionBase src + regionSize := by
    intro e he
    simp only [List.mem_filter, Bool.and_eq_true, decide_eq_true_eq] at he
    exact ⟨he.2.1, by have := he.2.2; unfold regionBase at *; rw [Nat.add_mul] at this; omega⟩
  refine ⟨⟨?_, ?_⟩, ?_⟩
  · intro p hp
    simp only [moveData, List.mem_map] at hp
    obtain ⟨e, he, rfl⟩ := hp
    exact h.1 e (List.mem_filter.1 he).1
  · unfold moveData
    rw [List.pairwise_map]
    have := h.2.filter (fun e => regionBase src ≤ e.1 && e.1 < regionBase (src + 1))
    refine List.Pairwise.imp_of_mem ?_ this
    intro a b ha hb hab
    have := hin a ha; have := hin b hb
    simp only; omega
  · intro p hp
    simp only [moveData, List.mem_map] at hp
    obtain ⟨e, he, rfl⟩ := hp
    have := hin e he
    simp only; omega

theorem unmapRegion_ok {s : State} {r : Nat} (h : Safety.memOk s = true) : Safety.memOk (unmapRegion s r) = true := by
  unfold unmapRegion
  have : ∀ (l : List MapEnt) (t : State), Safety.memOk t = true → Safety.memOk (l.foldl unmapOne t) = true := by
    intro l
    induction l with
    | nil => intro t h; exact h
    | cons a l ih => intro t h; exact ih _ (unmapOne_ok h)
  exact this _ _ h

/-- A region that takes contents in its range keeps memory canonical. -/
theorem fillRegion_ok {s : State} {r : Nat} {data : Memory} {tags : AList Bool} (h : Safety.memOk s = true) (hd : data.wf = true)
    (hr : ∀ p ∈ data, regionBase r ≤ p.1 ∧ p.1 < regionBase r + regionSize) : Safety.memOk (fillRegion s r data tags) = true := by
  simp only [Safety.memOk, fillRegion, hitReads_ram, wrapBumps_ram]
  obtain ⟨h1, h2, h3⟩ := ramOk_iff.1 (unmapRegion_ok (r := r) h)
  exact ramOk_iff.2 ⟨putRange_wf h1 hd hr, h2, h3⟩

/-- A range of device memory set to 0 keeps memory canonical. -/
theorem zeroRange_ok {s : State} {a n : Nat} (h : Safety.memOk s = true) : Safety.memOk (zeroRange s a n) = true := by
  obtain ⟨h1, h2, h3⟩ := ramOk_iff.1 h
  simp only [Safety.memOk, zeroRange, hitReads_ram, markDirty_ram]
  exact bumpVers_ok (foldl_ok (fun r _ h => ramWrite_ok _ h) _ (ramOk_iff.2 ⟨wf_filter h1, h2, h3⟩))

end Sys2Proof.Machine
end

