-- ==== Sys2Proof/Laws/PerInstr.lean ====
section
/-! SUPPORT. Said of every instruction: no bits of one stream's encoding stand for an instruction of another, and what happens by
itself has no encoding (spec/02_instruction_words.md R37, R40, R62, R63). -/

namespace Sys2Proof.Laws

/-- The number of encodings that give an instruction a word. -/
def OneStream.words (i : Instr) : Nat :=
  (encodeScalar i).isSome.toNat + (encodeLane i).isSome.toNat + (encodeCe i).isSome.toNat + (encodeQueue i).isSome.toNat

/-- An instruction has its word in exactly one encoding and is no event, or it has none. -/
def OneStream.Statement (i : Instr) : Prop :=
  (OneStream.words i = 1 ∧ Machine.isEvent i = false) ∨ OneStream.words i = 0

theorem OneStream.snop : OneStream.Statement (.snop) := .inl ⟨rfl, rfl⟩
theorem OneStream.br (off : BitVec 25) : OneStream.Statement (.br off) := .inl ⟨rfl, rfl⟩
theorem OneStream.brc (cond : BitVec 4) (sa : SReg) (off : BitVec 15) : OneStream.Statement (.brc cond sa off) := .inl ⟨rfl, rfl⟩
theorem OneStream.brk (cond : BitVec 4) (ka : KReg) (off : BitVec 15) : OneStream.Statement (.brk cond ka off) := .inl ⟨rfl, rfl⟩
theorem OneStream.bdiv (neg : Bool) (ka : KReg) (off : BitVec 15) : OneStream.Statement (.bdiv neg ka off) := .inl ⟨rfl, rfl⟩
theorem OneStream.merge : OneStream.Statement (.merge) := .inl ⟨rfl, rfl⟩
theorem OneStream.call (off : BitVec 25) : OneStream.Statement (.call off) := .inl ⟨rfl, rfl⟩
theorem OneStream.calli (cd ca : CReg) : OneStream.Statement (.calli cd ca) := .inl ⟨rfl, rfl⟩
theorem OneStream.ret (ca : CReg) : OneStream.Statement (.ret ca) := .inl ⟨rfl, rfl⟩
theorem OneStream.jmpi (ca : CReg) (sb : SReg) : OneStream.Statement (.jmpi ca sb) := .inl ⟨rfl, rfl⟩
theorem OneStream.execBlk (len : BitVec 5) (off : BitVec 16) : OneStream.Statement (.execBlk len off) := .inl ⟨rfl, rfl⟩
theorem OneStream.execwBlk (len : BitVec 5) (off : BitVec 16) : OneStream.Statement (.execwBlk len off) := .inl ⟨rfl, rfl⟩
theorem OneStream.lcb (ca : CReg) : OneStream.Statement (.lcb ca) := .inl ⟨rfl, rfl⟩
theorem OneStream.lcbGet (cd : CReg) : OneStream.Statement (.lcbGet cd) := .inl ⟨rfl, rfl⟩
theorem OneStream.compact (sd sa : SReg) : OneStream.Statement (.compact sd sa) := .inl ⟨rfl, rfl⟩
theorem OneStream.uncompact (sd : SReg) : OneStream.Statement (.uncompact sd) := .inl ⟨rfl, rfl⟩
theorem OneStream.yieldS (sa : SReg) : OneStream.Statement (.yieldS sa) := .inl ⟨rfl, rfl⟩
theorem OneStream.exit : OneStream.Statement (.exit) := .inl ⟨rfl, rfl⟩
theorem OneStream.splitq (sd : SReg) : OneStream.Statement (.splitq sd) := .inl ⟨rfl, rfl⟩
theorem OneStream.dbnz (sa : SReg) (off : BitVec 15) : OneStream.Statement (.dbnz sa off) := .inl ⟨rfl, rfl⟩
theorem OneStream.vread (sd sa sb : SReg) : OneStream.Statement (.vread sd sa sb) := .inl ⟨rfl, rfl⟩
theorem OneStream.vwrite (sd sa sb : SReg) : OneStream.Statement (.vwrite sd sa sb) := .inl ⟨rfl, rfl⟩
theorem OneStream.add (sd sa sb : SReg) (sat : Bool) : OneStream.Statement (.add sd sa sb sat) := .inl ⟨rfl, rfl⟩
theorem OneStream.sub (sd sa sb : SReg) (sat : Bool) : OneStream.Statement (.sub sd sa sb sat) := .inl ⟨rfl, rfl⟩
theorem OneStream.addi (sd sa : SReg) (imm : BitVec 13) : OneStream.Statement (.addi sd sa imm) := .inl ⟨rfl, rfl⟩
theorem OneStream.mul (sd sa sb : SReg) : OneStream.Statement (.mul sd sa sb) := .inl ⟨rfl, rfl⟩
theorem OneStream.mulh (sd sa sb : SReg) (uns : Bool) : OneStream.Statement (.mulh sd sa sb uns) := .inl ⟨rfl, rfl⟩
theorem OneStream.and (sd sa sb : SReg) : OneStream.Statement (.and sd sa sb) := .inl ⟨rfl, rfl⟩
theorem OneStream.or (sd sa sb : SReg) : OneStream.Statement (.or sd sa sb) := .inl ⟨rfl, rfl⟩
theorem OneStream.xor (sd sa sb : SReg) : OneStream.Statement (.xor sd sa sb) := .inl ⟨rfl, rfl⟩
theorem OneStream.andi (sd sa : SReg) (imm : BitVec 13) : OneStream.Statement (.andi sd sa imm) := .inl ⟨rfl, rfl⟩
theorem OneStream.ori (sd sa : SReg) (imm : BitVec 13) : OneStream.Statement (.ori sd sa imm) := .inl ⟨rfl, rfl⟩
theorem OneStream.xori (sd sa : SReg) (imm : BitVec 13) : OneStream.Statement (.xori sd sa imm) := .inl ⟨rfl, rfl⟩
theorem OneStream.shl (sd sa sb : SReg) : OneStream.Statement (.shl sd sa sb) := .inl ⟨rfl, rfl⟩
theorem OneStream.shr (sd sa sb : SReg) : OneStream.Statement (.shr sd sa sb) := .inl ⟨rfl, rfl⟩
theorem OneStream.sar (sd sa sb : SReg) : OneStream.Statement (.sar sd sa sb) := .inl ⟨rfl, rfl⟩
theorem OneStream.shli (sd sa : SReg) (n : BitVec 5) : OneStream.Statement (.shli sd sa n) := .inl ⟨rfl, rfl⟩
theorem OneStream.shri (sd sa : SReg) (n : BitVec 5) : OneStream.Statement (.shri sd sa n) := .inl ⟨rfl, rfl⟩
theorem OneStream.sari (sd sa : SReg) (n : BitVec 5) : OneStream.Statement (.sari sd sa n) := .inl ⟨rfl, rfl⟩
theorem OneStream.rori (sd sa : SReg) (n : BitVec 5) : OneStream.Statement (.rori sd sa n) := .inl ⟨rfl, rfl⟩
theorem OneStream.min (sd sa sb : SReg) (uns : Bool) : OneStream.Statement (.min sd sa sb uns) := .inl ⟨rfl, rfl⟩
theorem OneStream.max (sd sa sb : SReg) (uns : Bool) : OneStream.Statement (.max sd sa sb uns) := .inl ⟨rfl, rfl⟩
theorem OneStream.slt (sd sa sb : SReg) (uns : Bool) : OneStream.Statement (.slt sd sa sb uns) := .inl ⟨rfl, rfl⟩
theorem OneStream.slti (sd sa : SReg) (imm : BitVec 13) : OneStream.Statement (.slti sd sa imm) := .inl ⟨rfl, rfl⟩
theorem OneStream.lui (sd : SReg) (imm : BitVec 19) : OneStream.Statement (.lui sd imm) := .inl ⟨rfl, rfl⟩
theorem OneStream.clz (sd sa : SReg) : OneStream.Statement (.clz sd sa) := .inl ⟨rfl, rfl⟩
theorem OneStream.popc (sd sa : SReg) : OneStream.Statement (.popc sd sa) := .inl ⟨rfl, rfl⟩
theorem OneStream.sel (sd sa sb sc : SReg) : OneStream.Statement (.sel sd sa sb sc) := .inl ⟨rfl, rfl⟩
theorem OneStream.div (sd sa sb : SReg) (rem uns : Bool) : OneStream.Statement (.div sd sa sb rem uns) := .inl ⟨rfl, rfl⟩
theorem OneStream.kmov (kd : KReg) (sa : SReg) (beat : BitVec 2) : OneStream.Statement (.kmov kd sa beat) := .inl ⟨rfl, rfl⟩
theorem OneStream.skmov (sd : SReg) (ka : KReg) (beat : BitVec 2) : OneStream.Statement (.skmov sd ka beat) := .inl ⟨rfl, rfl⟩
theorem OneStream.kop (kd ka kb : KReg) (op : BitVec 3) : OneStream.Statement (.kop kd ka kb op) := .inl ⟨rfl, rfl⟩
theorem OneStream.kpopc (sd : SReg) (ka : KReg) (all : Bool) : OneStream.Statement (.kpopc sd ka all) := .inl ⟨rfl, rfl⟩
theorem OneStream.kfirst (sd : SReg) (ka : KReg) (last : Bool) : OneStream.Statement (.kfirst sd ka last) := .inl ⟨rfl, rfl⟩
theorem OneStream.smov (sd : SReg) (code : BitVec 4) : OneStream.Statement (.smov sd code) := .inl ⟨rfl, rfl⟩
theorem OneStream.smovWrite (sa : SReg) (code : BitVec 4) : OneStream.Statement (.smovWrite sa code) := .inl ⟨rfl, rfl⟩
theorem OneStream.smovw (sd sa : SReg) (n : BitVec 13) : OneStream.Statement (.smovw sd sa n) := .inl ⟨rfl, rfl⟩
theorem OneStream.sld (sd : SReg) (ca : CReg) (imm : BitVec 14) : OneStream.Statement (.sld sd ca imm) := .inl ⟨rfl, rfl⟩
theorem OneStream.sst (sd : SReg) (ca : CReg) (imm : BitVec 14) : OneStream.Statement (.sst sd ca imm) := .inl ⟨rfl, rfl⟩
theorem OneStream.sldc (cd ca : CReg) (sb : SReg) (f : BitVec 9) : OneStream.Statement (.sldc cd ca sb f) := .inl ⟨rfl, rfl⟩
theorem OneStream.sstc (cd ca : CReg) (sb : SReg) (f : BitVec 9) : OneStream.Statement (.sstc cd ca sb f) := .inl ⟨rfl, rfl⟩
theorem OneStream.xlate (b : BRegIx) (ca : CReg) : OneStream.Statement (.xlate b ca) := .inl ⟨rfl, rfl⟩
theorem OneStream.xlateLim (b : BRegIx) (sb : SReg) : OneStream.Statement (.xlateLim b sb) := .inl ⟨rfl, rfl⟩
theorem OneStream.xdrop (b : BRegIx) : OneStream.Statement (.xdrop b) := .inl ⟨rfl, rfl⟩
theorem OneStream.xdropAll : OneStream.Statement (.xdropAll) := .inl ⟨rfl, rfl⟩
theorem OneStream.map (cd ca : CReg) (sb : SReg) (slot : BitVec 3) : OneStream.Statement (.map cd ca sb slot) := .inl ⟨rfl, rfl⟩
theorem OneStream.unmap (slot : BitVec 3) : OneStream.Statement (.unmap slot) := .inl ⟨rfl, rfl⟩
theorem OneStream.unmapAll : OneStream.Statement (.unmapAll) := .inl ⟨rfl, rfl⟩
theorem OneStream.cflush (ca : CReg) (sb : SReg) (inv : Bool) : OneStream.Statement (.cflush ca sb inv) := .inl ⟨rfl, rfl⟩
theorem OneStream.cinv (ca : CReg) (sb : SReg) : OneStream.Statement (.cinv ca sb) := .inl ⟨rfl, rfl⟩
theorem OneStream.cdiscard (ca : CReg) (sb : SReg) : OneStream.Statement (.cdiscard ca sb) := .inl ⟨rfl, rfl⟩
theorem OneStream.cpin (ca : CReg) (sb : SReg) : OneStream.Statement (.cpin ca sb) := .inl ⟨rfl, rfl⟩
theorem OneStream.cunpin (ca : CReg) (sb : SReg) : OneStream.Statement (.cunpin ca sb) := .inl ⟨rfl, rfl⟩
theorem OneStream.pref (ca : CReg) (sb : SReg) (l1 : Bool) : OneStream.Statement (.pref ca sb l1) := .inl ⟨rfl, rfl⟩
theorem OneStream.commit : OneStream.Statement (.commit) := .inl ⟨rfl, rfl⟩
theorem OneStream.commitClose : OneStream.Statement (.commitClose) := .inl ⟨rfl, rfl⟩
theorem OneStream.solo (sa : SReg) : OneStream.Statement (.solo sa) := .inl ⟨rfl, rfl⟩
theorem OneStream.soloEnd : OneStream.Statement (.soloEnd) := .inl ⟨rfl, rfl⟩
theorem OneStream.soloGet (sd : SReg) : OneStream.Statement (.soloGet sd) := .inl ⟨rfl, rfl⟩
theorem OneStream.tcopy (cd ca : CReg) (sb : SReg) (nobar nt : Bool) : OneStream.Statement (.tcopy cd ca sb nobar nt) := .inl ⟨rfl, rfl⟩
theorem OneStream.tcopyG (cd ca : CReg) (sb : SReg) (nobar nt : Bool) : OneStream.Statement (.tcopyG cd ca sb nobar nt) := .inl ⟨rfl, rfl⟩
theorem OneStream.tstore (cd ca : CReg) (sb : SReg) (nobar nt : Bool) : OneStream.Statement (.tstore cd ca sb nobar nt) := .inl ⟨rfl, rfl⟩
theorem OneStream.tmcast (cd ca : CReg) (sb : SReg) (nobar nt : Bool) : OneStream.Statement (.tmcast cd ca sb nobar nt) := .inl ⟨rfl, rfl⟩
theorem OneStream.treduce (cd ca : CReg) (sb : SReg) (op : BitVec 2) (nobar nt : Bool) : OneStream.Statement (.treduce cd ca sb op nobar nt) := .inl ⟨rfl, rfl⟩
theorem OneStream.tstat (sd : SReg) : OneStream.Statement (.tstat sd) := .inl ⟨rfl, rfl⟩
theorem OneStream.tstatDone (sd sa : SReg) : OneStream.Statement (.tstatDone sd sa) := .inl ⟨rfl, rfl⟩
theorem OneStream.tstatDrop : OneStream.Statement (.tstatDrop) := .inl ⟨rfl, rfl⟩
theorem OneStream.celaunch (cd ca : CReg) (sb : SReg) (die : Bool) (engine : BitVec 4) : OneStream.Statement (.celaunch cd ca sb die engine) := .inl ⟨rfl, rfl⟩
theorem OneStream.celaunchDetach (cd ca : CReg) (sb : SReg) (die : Bool) (engine : BitVec 4) : OneStream.Statement (.celaunchDetach cd ca sb die engine) := .inl ⟨rfl, rfl⟩
theorem OneStream.cestat (sd : SReg) : OneStream.Statement (.cestat sd) := .inl ⟨rfl, rfl⟩
theorem OneStream.cestatDone (sd sa : SReg) : OneStream.Statement (.cestatDone sd sa) := .inl ⟨rfl, rfl⟩
theorem OneStream.cestatDrop : OneStream.Statement (.cestatDrop) := .inl ⟨rfl, rfl⟩
theorem OneStream.binit (ca : CReg) (sb : SReg) (z keep : Bool) : OneStream.Statement (.binit ca sb z keep) := .inl ⟨rfl, rfl⟩
theorem OneStream.arrive (ca : CReg) (sb : SReg) (w : Bool) : OneStream.Statement (.arrive ca sb w) := .inl ⟨rfl, rfl⟩
theorem OneStream.expect (ca : CReg) (sb : SReg) (w : Bool) : OneStream.Statement (.expect ca sb w) := .inl ⟨rfl, rfl⟩
theorem OneStream.waitph (ca : CReg) (sb sr : SReg) : OneStream.Statement (.waitph ca sb sr) := .inl ⟨rfl, rfl⟩
theorem OneStream.waitphy (cd ca : CReg) (sb sr : SReg) : OneStream.Statement (.waitphy cd ca sb sr) := .inl ⟨rfl, rfl⟩
theorem OneStream.btest (ca : CReg) (sb sr : SReg) : OneStream.Statement (.btest ca sb sr) := .inl ⟨rfl, rfl⟩
theorem OneStream.spawn (ca : CReg) : OneStream.Statement (.spawn ca) := .inl ⟨rfl, rfl⟩
theorem OneStream.joindec (ca : CReg) (sr : SReg) : OneStream.Statement (.joindec ca sr) := .inl ⟨rfl, rfl⟩
theorem OneStream.launch (ca : CReg) (sb : SReg) : OneStream.Statement (.launch ca sb) := .inl ⟨rfl, rfl⟩
theorem OneStream.cget (ca : CReg) (sb : SReg) (f : BitVec 4) : OneStream.Statement (.cget ca sb f) := .inl ⟨rfl, rfl⟩
theorem OneStream.cseta (cd ca : CReg) (sb : SReg) (exact : Bool) : OneStream.Statement (.cseta cd ca sb exact) := .inl ⟨rfl, rfl⟩
theorem OneStream.cinc (cd ca : CReg) (sb : SReg) (w exact : Bool) : OneStream.Statement (.cinc cd ca sb w exact) := .inl ⟨rfl, rfl⟩
theorem OneStream.cinci (cd ca : CReg) (imm : BitVec 15) : OneStream.Statement (.cinci cd ca imm) := .inl ⟨rfl, rfl⟩
theorem OneStream.csetb (cd ca : CReg) (sb : SReg) (w exact : Bool) : OneStream.Statement (.csetb cd ca sb w exact) := .inl ⟨rfl, rfl⟩
theorem OneStream.csetbi (cd ca : CReg) (imm : BitVec 15) : OneStream.Statement (.csetbi cd ca imm) := .inl ⟨rfl, rfl⟩
theorem OneStream.candp (cd ca : CReg) (sb : SReg) : OneStream.Statement (.candp cd ca sb) := .inl ⟨rfl, rfl⟩
theorem OneStream.cseal (cd ca ck : CReg) : OneStream.Statement (.cseal cd ca ck) := .inl ⟨rfl, rfl⟩
theorem OneStream.csealSentry (cd ca : CReg) : OneStream.Statement (.csealSentry cd ca) := .inl ⟨rfl, rfl⟩
theorem OneStream.cunseal (cd ca ck : CReg) : OneStream.Statement (.cunseal cd ca ck) := .inl ⟨rfl, rfl⟩
theorem OneStream.ctest (ca : CReg) (sb : SReg) (f : BitVec 3) : OneStream.Statement (.ctest ca sb f) := .inl ⟨rfl, rfl⟩
theorem OneStream.ctestSubset (cd ca : CReg) (sb : SReg) : OneStream.Statement (.ctestSubset cd ca sb) := .inl ⟨rfl, rfl⟩
theorem OneStream.cmov (cd ca : CReg) : OneStream.Statement (.cmov cd ca) := .inl ⟨rfl, rfl⟩
theorem OneStream.cclr (cd : CReg) : OneStream.Statement (.cclr cd) := .inl ⟨rfl, rfl⟩
theorem OneStream.cclrTag (cd : CReg) : OneStream.Statement (.cclrTag cd) := .inl ⟨rfl, rfl⟩
theorem OneStream.revoke (ca : CReg) : OneStream.Statement (.revoke ca) := .inl ⟨rfl, rfl⟩
theorem OneStream.revokeClear (ca : CReg) : OneStream.Statement (.revokeClear ca) := .inl ⟨rfl, rfl⟩
theorem OneStream.rsweep (sd : SReg) : OneStream.Statement (.rsweep sd) := .inl ⟨rfl, rfl⟩
theorem OneStream.trap (code : BitVec 12) : OneStream.Statement (.trap code) := .inl ⟨rfl, rfl⟩
theorem OneStream.tret (s1 : Bool) : OneStream.Statement (.tret s1) := .inl ⟨rfl, rfl⟩
theorem OneStream.tretSkip (s1 : Bool) : OneStream.Statement (.tretSkip s1) := .inl ⟨rfl, rfl⟩
theorem OneStream.frec (sd : SReg) (i : BitVec 5) : OneStream.Statement (.frec sd i) := .inl ⟨rfl, rfl⟩
theorem OneStream.frecCap (cd : CReg) : OneStream.Statement (.frecCap cd) := .inl ⟨rfl, rfl⟩
theorem OneStream.pgmap (ca : CReg) (sb : SReg) : OneStream.Statement (.pgmap ca sb) := .inl ⟨rfl, rfl⟩
theorem OneStream.idemb (sa : SReg) : OneStream.Statement (.idemb sa) := .inl ⟨rfl, rfl⟩
theorem OneStream.ideme : OneStream.Statement (.ideme) := .inl ⟨rfl, rfl⟩
theorem OneStream.prmpt (sd : SReg) : OneStream.Statement (.prmpt sd) := .inl ⟨rfl, rfl⟩
theorem OneStream.prmptNow : OneStream.Statement (.prmptNow) := .inl ⟨rfl, rfl⟩
theorem OneStream.sysrd (sd : SReg) (n : BitVec 12) : OneStream.Statement (.sysrd sd n) := .inl ⟨rfl, rfl⟩
theorem OneStream.syswr (sa : SReg) (n : BitVec 12) : OneStream.Statement (.syswr sa n) := .inl ⟨rfl, rfl⟩
theorem OneStream.moncfg (sd sa sb : SReg) : OneStream.Statement (.moncfg sd sa sb) := .inl ⟨rfl, rfl⟩
theorem OneStream.monrd (sd sa : SReg) (f : BitVec 7) : OneStream.Statement (.monrd sd sa f) := .inl ⟨rfl, rfl⟩
theorem OneStream.pclear (sd sa : SReg) : OneStream.Statement (.pclear sd sa) := .inl ⟨rfl, rfl⟩
theorem OneStream.scrub (ca : CReg) (sb : SReg) : OneStream.Statement (.scrub ca sb) := .inl ⟨rfl, rfl⟩
theorem OneStream.fabcfgWin (ca : CReg) (sb : SReg) : OneStream.Statement (.fabcfgWin ca sb) := .inl ⟨rfl, rfl⟩
theorem OneStream.fabcfgWinrm (ca : CReg) (sb : SReg) : OneStream.Statement (.fabcfgWinrm ca sb) := .inl ⟨rfl, rfl⟩
theorem OneStream.fabcfgMcast (ca : CReg) (sb : SReg) : OneStream.Statement (.fabcfgMcast ca sb) := .inl ⟨rfl, rfl⟩
theorem OneStream.fabcfgPlane (ca : CReg) (sb : SReg) : OneStream.Statement (.fabcfgPlane ca sb) := .inl ⟨rfl, rfl⟩
theorem OneStream.fabcfgEp (ca : CReg) (sb : SReg) : OneStream.Statement (.fabcfgEp ca sb) := .inl ⟨rfl, rfl⟩
theorem OneStream.fabcfgRegion (ca : CReg) (sb : SReg) : OneStream.Statement (.fabcfgRegion ca sb) := .inl ⟨rfl, rfl⟩
theorem OneStream.attest (cd ca : CReg) (sb : SReg) : OneStream.Statement (.attest cd ca sb) := .inl ⟨rfl, rfl⟩
theorem OneStream.lnop (pred : KReg) (neg : Bool) : OneStream.Statement (.lnop pred neg) := .inl ⟨rfl, rfl⟩
theorem OneStream.mov (h : LaneHdr) (m : AMods) : OneStream.Statement (.mov h m) := .inl ⟨rfl, rfl⟩
theorem OneStream.movi (h : IHdr) (imm : Word) (m : BitVec 3) : OneStream.Statement (.movi h imm m) := .inl ⟨rfl, rfl⟩
theorem OneStream.iadd (h : LaneHdr) (m : AMods) : OneStream.Statement (.iadd h m) := .inl ⟨rfl, rfl⟩
theorem OneStream.isub (h : LaneHdr) (m : AMods) : OneStream.Statement (.isub h m) := .inl ⟨rfl, rfl⟩
theorem OneStream.iaddi (h : IHdr) (imm : Word) (m : BitVec 3) : OneStream.Statement (.iaddi h imm m) := .inl ⟨rfl, rfl⟩
theorem OneStream.imul (h : LaneHdr) (m : AMods) : OneStream.Statement (.imul h m) := .inl ⟨rfl, rfl⟩
theorem OneStream.imulh (h : LaneHdr) (m : AMods) : OneStream.Statement (.imulh h m) := .inl ⟨rfl, rfl⟩
theorem OneStream.imad (h : LaneHdr) (m : AMods) : OneStream.Statement (.imad h m) := .inl ⟨rfl, rfl⟩
theorem OneStream.imadw (h : LaneHdr) (m : AMods) : OneStream.Statement (.imadw h m) := .inl ⟨rfl, rfl⟩
theorem OneStream.iabs (h : LaneHdr) (m : AMods) : OneStream.Statement (.iabs h m) := .inl ⟨rfl, rfl⟩
theorem OneStream.imin (h : LaneHdr) (m : AMods) : OneStream.Statement (.imin h m) := .inl ⟨rfl, rfl⟩
theorem OneStream.imax (h : LaneHdr) (m : AMods) : OneStream.Statement (.imax h m) := .inl ⟨rfl, rfl⟩
theorem OneStream.andLane (h : LaneHdr) (m : AMods) : OneStream.Statement (.andLane h m) := .inl ⟨rfl, rfl⟩
theorem OneStream.orLane (h : LaneHdr) (m : AMods) : OneStream.Statement (.orLane h m) := .inl ⟨rfl, rfl⟩
theorem OneStream.xorLane (h : LaneHdr) (m : AMods) : OneStream.Statement (.xorLane h m) := .inl ⟨rfl, rfl⟩
theorem OneStream.bool3 (h : LaneHdr) (m : AMods) : OneStream.Statement (.bool3 h m) := .inl ⟨rfl, rfl⟩
theorem OneStream.shlLane (h : LaneHdr) (m : AMods) : OneStream.Statement (.shlLane h m) := .inl ⟨rfl, rfl⟩
theorem OneStream.shrLane (h : LaneHdr) (m : AMods) : OneStream.Statement (.shrLane h m) := .inl ⟨rfl, rfl⟩
theorem OneStream.sarLane (h : LaneHdr) (m : AMods) : OneStream.Statement (.sarLane h m) := .inl ⟨rfl, rfl⟩
theorem OneStream.wshift (h : LaneHdr) (m : AMods) : OneStream.Statement (.wshift h m) := .inl ⟨rfl, rfl⟩
theorem OneStream.extr (h : LaneHdr) (m : AMods) : OneStream.Statement (.extr h m) := .inl ⟨rfl, rfl⟩
theorem OneStream.insr (h : LaneHdr) (m : AMods) : OneStream.Statement (.insr h m) := .inl ⟨rfl, rfl⟩
theorem OneStream.popcLane (h : LaneHdr) (m : AMods) : OneStream.Statement (.popcLane h m) := .inl ⟨rfl, rfl⟩
theorem OneStream.clzLane (h : LaneHdr) (m : AMods) : OneStream.Statement (.clzLane h m) := .inl ⟨rfl, rfl⟩
theorem OneStream.bitrev (h : LaneHdr) (m : AMods) : OneStream.Statement (.bitrev h m) := .inl ⟨rfl, rfl⟩
theorem OneStream.bswz (h : LaneHdr) (m : AMods) : OneStream.Statement (.bswz h m) := .inl ⟨rfl, rfl⟩
theorem OneStream.icmp (h : LaneHdr) (m : AMods) : OneStream.Statement (.icmp h m) := .inl ⟨rfl, rfl⟩
theorem OneStream.selLane (h : LaneHdr) (m : AMods) : OneStream.Statement (.selLane h m) := .inl ⟨rfl, rfl⟩
theorem OneStream.idot4 (h : LaneHdr) (m : AMods) : OneStream.Statement (.idot4 h m) := .inl ⟨rfl, rfl⟩
theorem OneStream.isad (h : LaneHdr) (m : AMods) : OneStream.Statement (.isad h m) := .inl ⟨rfl, rfl⟩
theorem OneStream.nbr (h : LaneHdr) (m : AMods) : OneStream.Statement (.nbr h m) := .inl ⟨rfl, rfl⟩
theorem OneStream.lbcast (h : LaneHdr) (m : AMods) : OneStream.Statement (.lbcast h m) := .inl ⟨rfl, rfl⟩
theorem OneStream.fadd (h : LaneHdr) (m : AMods) : OneStream.Statement (.fadd h m) := .inl ⟨rfl, rfl⟩
theorem OneStream.fsub (h : LaneHdr) (m : AMods) : OneStream.Statement (.fsub h m) := .inl ⟨rfl, rfl⟩
theorem OneStream.fmul (h : LaneHdr) (m : AMods) : OneStream.Statement (.fmul h m) := .inl ⟨rfl, rfl⟩
theorem OneStream.ffma (h : LaneHdr) (m : AMods) : OneStream.Statement (.ffma h m) := .inl ⟨rfl, rfl⟩
theorem OneStream.fmin (h : LaneHdr) (m : AMods) : OneStream.Statement (.fmin h m) := .inl ⟨rfl, rfl⟩
theorem OneStream.fmax (h : LaneHdr) (m : AMods) : OneStream.Statement (.fmax h m) := .inl ⟨rfl, rfl⟩
theorem OneStream.fcmp (h : LaneHdr) (m : AMods) : OneStream.Statement (.fcmp h m) := .inl ⟨rfl, rfl⟩
theorem OneStream.fclass (h : LaneHdr) (m : AMods) : OneStream.Statement (.fclass h m) := .inl ⟨rfl, rfl⟩
theorem OneStream.fdiv (h : LaneHdr) (m : AMods) : OneStream.Statement (.fdiv h m) := .inl ⟨rfl, rfl⟩
theorem OneStream.fsqrt (h : LaneHdr) (m : AMods) : OneStream.Statement (.fsqrt h m) := .inl ⟨rfl, rfl⟩
theorem OneStream.frcp (h : LaneHdr) (m : AMods) : OneStream.Statement (.frcp h m) := .inl ⟨rfl, rfl⟩
theorem OneStream.frsq (h : LaneHdr) (m : AMods) : OneStream.Statement (.frsq h m) := .inl ⟨rfl, rfl⟩
theorem OneStream.fexp2 (h : LaneHdr) (m : AMods) : OneStream.Statement (.fexp2 h m) := .inl ⟨rfl, rfl⟩
theorem OneStream.flog2 (h : LaneHdr) (m : AMods) : OneStream.Statement (.flog2 h m) := .inl ⟨rfl, rfl⟩
theorem OneStream.fsin (h : LaneHdr) (m : AMods) : OneStream.Statement (.fsin h m) := .inl ⟨rfl, rfl⟩
theorem OneStream.fcos (h : LaneHdr) (m : AMods) : OneStream.Statement (.fcos h m) := .inl ⟨rfl, rfl⟩
theorem OneStream.ftanh (h : LaneHdr) (m : AMods) : OneStream.Statement (.ftanh h m) := .inl ⟨rfl, rfl⟩
theorem OneStream.frnd (h : LaneHdr) (m : AMods) : OneStream.Statement (.frnd h m) := .inl ⟨rfl, rfl⟩
theorem OneStream.fscale (h : LaneHdr) (m : AMods) : OneStream.Statement (.fscale h m) := .inl ⟨rfl, rfl⟩
theorem OneStream.pkadd (h : LaneHdr) (m : AMods) : OneStream.Statement (.pkadd h m) := .inl ⟨rfl, rfl⟩
theorem OneStream.pkmul (h : LaneHdr) (m : AMods) : OneStream.Statement (.pkmul h m) := .inl ⟨rfl, rfl⟩
theorem OneStream.pkfma (h : LaneHdr) (m : AMods) : OneStream.Statement (.pkfma h m) := .inl ⟨rfl, rfl⟩
theorem OneStream.dadd (h : LaneHdr) (m : AMods) : OneStream.Statement (.dadd h m) := .inl ⟨rfl, rfl⟩
theorem OneStream.dmul (h : LaneHdr) (m : AMods) : OneStream.Statement (.dmul h m) := .inl ⟨rfl, rfl⟩
theorem OneStream.dfma (h : LaneHdr) (m : AMods) : OneStream.Statement (.dfma h m) := .inl ⟨rfl, rfl⟩
theorem OneStream.cvt (h : LaneHdr) (m : AMods) : OneStream.Statement (.cvt h m) := .inl ⟨rfl, rfl⟩
theorem OneStream.pack (h : LaneHdr) (m : AMods) : OneStream.Statement (.pack h m) := .inl ⟨rfl, rfl⟩
theorem OneStream.unpack (h : LaneHdr) (m : AMods) : OneStream.Statement (.unpack h m) := .inl ⟨rfl, rfl⟩
theorem OneStream.qblk (h : LaneHdr) (m : AMods) : OneStream.Statement (.qblk h m) := .inl ⟨rfl, rfl⟩
theorem OneStream.dqblk (h : LaneHdr) (m : AMods) : OneStream.Statement (.dqblk h m) := .inl ⟨rfl, rfl⟩
theorem OneStream.vcget (h : LaneHdr) (m : BitVec 16) : OneStream.Statement (.vcget h m) := .inl ⟨rfl, rfl⟩
theorem OneStream.vcseta (h : LaneHdr) (m : BitVec 16) : OneStream.Statement (.vcseta h m) := .inl ⟨rfl, rfl⟩
theorem OneStream.vcinc (h : LaneHdr) (m : BitVec 16) : OneStream.Statement (.vcinc h m) := .inl ⟨rfl, rfl⟩
theorem OneStream.vcsetb (h : LaneHdr) (m : BitVec 16) : OneStream.Statement (.vcsetb h m) := .inl ⟨rfl, rfl⟩
theorem OneStream.vcandp (h : LaneHdr) (m : BitVec 16) : OneStream.Statement (.vcandp h m) := .inl ⟨rfl, rfl⟩
theorem OneStream.vctest (h : LaneHdr) (m : BitVec 16) : OneStream.Statement (.vctest h m) := .inl ⟨rfl, rfl⟩
theorem OneStream.vcmov (h : LaneHdr) (m : BitVec 16) : OneStream.Statement (.vcmov h m) := .inl ⟨rfl, rfl⟩
theorem OneStream.vcclr (h : LaneHdr) (m : BitVec 16) : OneStream.Statement (.vcclr h m) := .inl ⟨rfl, rfl⟩
theorem OneStream.vcderive (h : LaneHdr) (m : BitVec 16) : OneStream.Statement (.vcderive h m) := .inl ⟨rfl, rfl⟩
theorem OneStream.ld (h : LaneHdr) (m : MMods) : OneStream.Statement (.ld h m) := .inl ⟨rfl, rfl⟩
theorem OneStream.st (h : LaneHdr) (m : MMods) : OneStream.Statement (.st h m) := .inl ⟨rfl, rfl⟩
theorem OneStream.ldc (h : LaneHdr) (m : MMods) : OneStream.Statement (.ldc h m) := .inl ⟨rfl, rfl⟩
theorem OneStream.ldcX (h : LaneHdr) (m : MMods) : OneStream.Statement (.ldcX h m) := .inl ⟨rfl, rfl⟩
theorem OneStream.stc (h : LaneHdr) (m : MMods) : OneStream.Statement (.stc h m) := .inl ⟨rfl, rfl⟩
theorem OneStream.stcX (h : LaneHdr) (m : MMods) : OneStream.Statement (.stcX h m) := .inl ⟨rfl, rfl⟩
theorem OneStream.ldx (h : LaneHdr) (m : MMods) : OneStream.Statement (.ldx h m) := .inl ⟨rfl, rfl⟩
theorem OneStream.stx (h : LaneHdr) (m : MMods) : OneStream.Statement (.stx h m) := .inl ⟨rfl, rfl⟩
theorem OneStream.lds (h : LaneHdr) (m : MMods) : OneStream.Statement (.lds h m) := .inl ⟨rfl, rfl⟩
theorem OneStream.sts (h : LaneHdr) (m : MMods) : OneStream.Statement (.sts h m) := .inl ⟨rfl, rfl⟩
theorem OneStream.atom (h : LaneHdr) (m : MMods) : OneStream.Statement (.atom h m) := .inl ⟨rfl, rfl⟩
theorem OneStream.red (h : LaneHdr) (m : MMods) : OneStream.Statement (.red h m) := .inl ⟨rfl, rfl⟩
theorem OneStream.atoms (h : LaneHdr) (m : MMods) : OneStream.Statement (.atoms h m) := .inl ⟨rfl, rfl⟩
theorem OneStream.matchL (h : LaneHdr) (m : MMods) : OneStream.Statement (.matchL h m) := .inl ⟨rfl, rfl⟩
theorem OneStream.ldsum (h : LaneHdr) (m : MMods) : OneStream.Statement (.ldsum h m) := .inl ⟨rfl, rfl⟩
theorem OneStream.stm (h : LaneHdr) (m : MMods) : OneStream.Statement (.stm h m) := .inl ⟨rfl, rfl⟩
theorem OneStream.redsp (h : LaneHdr) (m : MMods) : OneStream.Statement (.redsp h m) := .inl ⟨rfl, rfl⟩
theorem OneStream.stt (h : LaneHdr) (m : BitVec 16) : OneStream.Statement (.stt h m) := .inl ⟨rfl, rfl⟩
theorem OneStream.mloop (h : LaneHdr) (m : BitVec 16) : OneStream.Statement (.mloop h m) := .inl ⟨rfl, rfl⟩
theorem OneStream.mstep (h : LaneHdr) (m : BitVec 16) : OneStream.Statement (.mstep h m) := .inl ⟨rfl, rfl⟩
theorem OneStream.mzero (h : LaneHdr) (m : BitVec 16) : OneStream.Statement (.mzero h m) := .inl ⟨rfl, rfl⟩
theorem OneStream.mlda (h : LaneHdr) (m : BitVec 16) : OneStream.Statement (.mlda h m) := .inl ⟨rfl, rfl⟩
theorem OneStream.msta (h : LaneHdr) (m : BitVec 16) : OneStream.Statement (.msta h m) := .inl ⟨rfl, rfl⟩
theorem OneStream.mjoin (h : LaneHdr) (m : BitVec 16) : OneStream.Statement (.mjoin h m) := .inl ⟨rfl, rfl⟩
theorem OneStream.mjoinDrop (h : LaneHdr) (m : BitVec 16) : OneStream.Statement (.mjoinDrop h m) := .inl ⟨rfl, rfl⟩
theorem OneStream.mctxAcq (h : LaneHdr) (m : BitVec 16) : OneStream.Statement (.mctxAcq h m) := .inl ⟨rfl, rfl⟩
theorem OneStream.mctxRel (h : LaneHdr) (m : BitVec 16) : OneStream.Statement (.mctxRel h m) := .inl ⟨rfl, rfl⟩
theorem OneStream.mscale (h : LaneHdr) (m : BitVec 16) : OneStream.Statement (.mscale h m) := .inl ⟨rfl, rfl⟩
theorem OneStream.mchk (h : LaneHdr) (m : BitVec 16) : OneStream.Statement (.mchk h m) := .inl ⟨rfl, rfl⟩
theorem OneStream.mepi (h : LaneHdr) (m : BitVec 16) : OneStream.Statement (.mepi h m) := .inl ⟨rfl, rfl⟩
theorem OneStream.yieldDelayExpiry (core slot split : Nat) : OneStream.Statement (.yieldDelayExpiry core slot split) := .inr rfl
theorem OneStream.soloCountExpiry (core slot : Nat) : OneStream.Statement (.soloCountExpiry core slot) := .inr rfl
theorem OneStream.waitphRelease (core slot split : Nat) : OneStream.Statement (.waitphRelease core slot split) := .inr rfl
theorem OneStream.groupReactivation (group : Nat) : OneStream.Statement (.groupReactivation group) := .inr rfl
theorem OneStream.revocationEpochComplete : OneStream.Statement (.revocationEpochComplete) := .inr rfl
theorem OneStream.attestAnswer (core slot : Nat) : OneStream.Statement (.attestAnswer core slot) := .inr rfl
theorem OneStream.matrixOperationStart (core ctx : Nat) : OneStream.Statement (.matrixOperationStart core ctx) := .inr rfl
theorem OneStream.matrixStep (core ctx : Nat) : OneStream.Statement (.matrixStep core ctx) := .inr rfl
theorem OneStream.tceOperationStart (core : Nat) : OneStream.Statement (.tceOperationStart core) := .inr rfl
theorem OneStream.tceElement (core op : Nat) : OneStream.Statement (.tceElement core op) := .inr rfl
theorem OneStream.ceListStart (die engine : Nat) : OneStream.Statement (.ceListStart die engine) := .inr rfl
theorem OneStream.enop : OneStream.Statement (.enop) := .inl ⟨rfl, rfl⟩
theorem OneStream.esend (f : CeFields) (data : DWord) : OneStream.Statement (.esend f data) := .inl ⟨rfl, rfl⟩
theorem OneStream.eput (f : CeFields) (dstOff srcOff : Word) : OneStream.Statement (.eput f dstOff srcOff) := .inl ⟨rfl, rfl⟩
theorem OneStream.eget (f : CeFields) (dstOff srcOff : Word) : OneStream.Statement (.eget f dstOff srcOff) := .inl ⟨rfl, rfl⟩
theorem OneStream.ered (f : CeFields) (dstOff srcOff : Word) : OneStream.Statement (.ered f dstOff srcOff) := .inl ⟨rfl, rfl⟩
theorem OneStream.emcast (f : CeFields) (dstOff srcOff : Word) : OneStream.Statement (.emcast f dstOff srcOff) := .inl ⟨rfl, rfl⟩
theorem OneStream.ewait (f : CeFields) : OneStream.Statement (.ewait f) := .inl ⟨rfl, rfl⟩
theorem OneStream.ewaitRelease (die engine ctx : Nat) : OneStream.Statement (.ewaitRelease die engine ctx) := .inr rfl
theorem OneStream.earrive (f : CeFields) : OneStream.Statement (.earrive f) := .inl ⟨rfl, rfl⟩
theorem OneStream.esig (f : CeFields) (operand : DWord) : OneStream.Statement (.esig f operand) := .inl ⟨rfl, rfl⟩
theorem OneStream.eadd (f : CeFields) : OneStream.Statement (.eadd f) := .inl ⟨rfl, rfl⟩
theorem OneStream.ebr (f : CeFields) : OneStream.Statement (.ebr f) := .inl ⟨rfl, rfl⟩
theorem OneStream.eloop (f : CeFields) : OneStream.Statement (.eloop f) := .inl ⟨rfl, rfl⟩
theorem OneStream.enput (f : CeFields) (w : NetWords) : OneStream.Statement (.enput f w) := .inl ⟨rfl, rfl⟩
theorem OneStream.enget (f : CeFields) (w : NetWords) : OneStream.Statement (.enget f w) := .inl ⟨rfl, rfl⟩
theorem OneStream.esnap (f : CeFields) (w1 w2 : DWord) : OneStream.Statement (.esnap f w1 w2) := .inl ⟨rfl, rfl⟩
theorem OneStream.eend : OneStream.Statement (.eend) := .inl ⟨rfl, rfl⟩
theorem OneStream.qnop (after : Bool) : OneStream.Statement (.qnop after) := .inl ⟨rfl, rfl⟩
theorem OneStream.qlaunch (after : Bool) (block sem : DWord) (count : Word) : OneStream.Statement (.qlaunch after block sem count) := .inl ⟨rfl, rfl⟩
theorem OneStream.qtask (after : Bool) (shelf : BitVec 4) (block sem : DWord) (count : Word) : OneStream.Statement (.qtask after shelf block sem count) := .inl ⟨rfl, rfl⟩
theorem OneStream.qwait (after : Bool) (cmp : BitVec 3) (sem operand mask : DWord) : OneStream.Statement (.qwait after cmp sem operand mask) := .inl ⟨rfl, rfl⟩
theorem OneStream.qwaitReread (q : Nat) : OneStream.Statement (.qwaitReread q) := .inr rfl
theorem OneStream.qwaitPoll (q : Nat) : OneStream.Statement (.qwaitPoll q) := .inr rfl
theorem OneStream.qsignal (after : Bool) (op : BitVec 2) (sem operand : DWord) : OneStream.Statement (.qsignal after op sem operand) := .inl ⟨rfl, rfl⟩
theorem OneStream.qgraph (after : Bool) (op : BitVec 2) (obj : BitVec 10) : OneStream.Statement (.qgraph after op obj) := .inl ⟨rfl, rfl⟩
theorem OneStream.qphase (after : Bool) (op : BitVec 2) (obj : BitVec 10) : OneStream.Statement (.qphase after op obj) := .inl ⟨rfl, rfl⟩
theorem OneStream.qjob (after : Bool) (op : BitVec 2) (obj : BitVec 10) : OneStream.Statement (.qjob after op obj) := .inl ⟨rfl, rfl⟩
theorem OneStream.qcancel (after : Bool) (kind : BitVec 3) (obj : BitVec 10) : OneStream.Statement (.qcancel after kind obj) := .inl ⟨rfl, rfl⟩
theorem OneStream.qcount (after : Bool) (kind : BitVec 3) (obj : BitVec 10) (target : DWord) : OneStream.Statement (.qcount after kind obj target) := .inl ⟨rfl, rfl⟩
theorem OneStream.qjump (after : Bool) (target : Word) : OneStream.Statement (.qjump after target) := .inl ⟨rfl, rfl⟩
theorem OneStream.qprio (after : Bool) (prio : BitVec 2) : OneStream.Statement (.qprio after prio) := .inl ⟨rfl, rfl⟩
theorem OneStream.qwrWrite (q : Nat) (v : Word) : OneStream.Statement (.qwrWrite q v) := .inr rfl
theorem OneStream.queueEnable (q : Nat) (ctl : Word) : OneStream.Statement (.queueEnable q ctl) := .inr rfl
theorem OneStream.queueDisable (q : Nat) (ctl : Word) : OneStream.Statement (.queueDisable q ctl) := .inr rfl
theorem OneStream.lvcancel (n : Nat) : OneStream.Statement (.lvcancel n) := .inr rfl
theorem OneStream.invalidationGo (ctl : Word) : OneStream.Statement (.invalidationGo ctl) := .inr rfl
theorem OneStream.translationInvalidationComplete : OneStream.Statement (.translationInvalidationComplete) := .inr rfl
theorem OneStream.registerWrite (off size : Nat) (v : DWord) : OneStream.Statement (.registerWrite off size v) := .inr rfl
theorem OneStream.dispatchPlace : OneStream.Statement (.dispatchPlace) := .inr rfl
theorem OneStream.taskPop (core slot : Nat) : OneStream.Statement (.taskPop core slot) := .inr rfl
theorem OneStream.shelfFullTimeout (shelf : Nat) : OneStream.Statement (.shelfFullTimeout shelf) := .inr rfl
theorem OneStream.queueFullTimeout (q : Nat) : OneStream.Statement (.queueFullTimeout q) := .inr rfl
theorem OneStream.pgraceExpiry : OneStream.Statement (.pgraceExpiry) := .inr rfl
theorem OneStream.pslackExpiry (gang : Nat) : OneStream.Statement (.pslackExpiry gang) := .inr rfl
theorem OneStream.gangSaveComplete (gang : Nat) : OneStream.Statement (.gangSaveComplete gang) := .inr rfl
theorem OneStream.clusterDomainMove (cluster : Nat) (dom : BitVec 6) : OneStream.Statement (.clusterDomainMove cluster dom) := .inr rfl
theorem OneStream.windowCommit (core slot : Nat) : OneStream.Statement (.windowCommit core slot) := .inr rfl
theorem OneStream.storeDrain : OneStream.Statement (.storeDrain) := .inr rfl
theorem OneStream.lineFill (node line : Nat) (data : List Byte) (tags : List Bool) (version : Word) : OneStream.Statement (.lineFill node line data tags version) := .inr rfl
theorem OneStream.validationReply (node sub : Nat) (version : Word) : OneStream.Statement (.validationReply node sub version) := .inr rfl
theorem OneStream.walkComplete (die : Nat) : OneStream.Statement (.walkComplete die) := .inr rfl
theorem OneStream.walkStarvationTimeout (die i : Nat) : OneStream.Statement (.walkStarvationTimeout die i) := .inr rfl
theorem OneStream.dieProxyForward (i : Nat) : OneStream.Statement (.dieProxyForward i) := .inr rfl
theorem OneStream.proxyPhaseUpdate (i : Nat) : OneStream.Statement (.proxyPhaseUpdate i) := .inr rfl
theorem OneStream.apertureRequest (r : ApReq) : OneStream.Statement (.apertureRequest r) := .inr rfl
theorem OneStream.validationRequest (asker : NodeDie) (pcid : BitVec 16) (sub : Nat) (stamp : Word) (write : Bool) : OneStream.Statement (.validationRequest asker pcid sub stamp write) := .inr rfl
theorem OneStream.epochBump (node sub : Nat) : OneStream.Statement (.epochBump node sub) := .inr rfl
theorem OneStream.contributionArrival (c : Contribution) : OneStream.Statement (.contributionArrival c) := .inr rfl
theorem OneStream.sparsePairArrival (head : PairHead) (gen : BitVec 16) (index value : Word) : OneStream.Statement (.sparsePairArrival head gen index value) := .inr rfl
theorem OneStream.mergeTableTimeout (win : Nat) (index : Word) : OneStream.Statement (.mergeTableTimeout win index) := .inr rfl
theorem OneStream.multicastPacketArrival (i : Nat) : OneStream.Statement (.multicastPacketArrival i) := .inr rfl
theorem OneStream.ualinkFlitReceive (f : Flit) : OneStream.Statement (.ualinkFlitReceive f) := .inr rfl
theorem OneStream.ucieFlitReceive (tagOk replay : Bool) (consumers : List (Nat × Nat × Nat)) : OneStream.Statement (.ucieFlitReceive tagOk replay consumers) := .inr rfl
theorem OneStream.portTraining (x : KeyExchange) : OneStream.Statement (.portTraining x) := .inr rfl
theorem OneStream.sealRekey (x : KeyExchange) : OneStream.Statement (.sealRekey x) := .inr rfl
theorem OneStream.stompNotice (tag : BitVec 16) : OneStream.Statement (.stompNotice tag) := .inr rfl
theorem OneStream.requestRetryTimeout (tag : BitVec 16) : OneStream.Statement (.requestRetryTimeout tag) := .inr rfl
theorem OneStream.peerlostTimeout (tag : BitVec 16) : OneStream.Statement (.peerlostTimeout tag) := .inr rfl
theorem OneStream.switchPortsDown (node : Nat) : OneStream.Statement (.switchPortsDown node) := .inr rfl
theorem OneStream.homeTagRecordExpiry (node : Nat) (tag : BitVec 16) : OneStream.Statement (.homeTagRecordExpiry node tag) := .inr rfl
theorem OneStream.ueInboundPut (region : BitVec 16) (off : DWord) (data : List Byte) : OneStream.Statement (.ueInboundPut region off data) := .inr rfl
theorem OneStream.ueInboundGet (region : BitVec 16) (off : DWord) (n : Nat) : OneStream.Statement (.ueInboundGet region off n) := .inr rfl
theorem OneStream.cxlMemRead (pa : Nat) : OneStream.Statement (.cxlMemRead pa) := .inr rfl
theorem OneStream.cxlMemWrite (pa : Nat) (data : List Byte) : OneStream.Statement (.cxlMemWrite pa data) := .inr rfl
theorem OneStream.hostSnoop (line : Nat) (data : Option (List Byte)) : OneStream.Statement (.hostSnoop line data) := .inr rfl
theorem OneStream.ideKm (cache mem : Bool) : OneStream.Statement (.ideKm cache mem) := .inr rfl
theorem OneStream.nodeset (node : BitVec 9) : OneStream.Statement (.nodeset node) := .inr rfl
theorem OneStream.ctxcreate (pcid : BitVec 16) (mask : BitVec 18) (dom : BitVec 16) : OneStream.Statement (.ctxcreate pcid mask dom) := .inr rfl
theorem OneStream.ctxassign (slot die first count : Nat) : OneStream.Statement (.ctxassign slot die first count) := .inr rfl
theorem OneStream.ctxload (slot src dst : Nat) (va : DWord) : OneStream.Statement (.ctxload slot src dst va) := .inr rfl
theorem OneStream.ctxseal (slot : Nat) : OneStream.Statement (.ctxseal slot) := .inr rfl
theorem OneStream.pageout (slot : Nat) (va hpa : DWord) : OneStream.Statement (.pageout slot va hpa) := .inr rfl
theorem OneStream.pagein (slot : Nat) (va hpa : DWord) (region : Nat) : OneStream.Statement (.pagein slot va hpa region) := .inr rfl
theorem OneStream.ctxdestroy (slot : Nat) : OneStream.Statement (.ctxdestroy slot) := .inr rfl
theorem OneStream.doeStatus (slot : Nat) : OneStream.Statement (.doeStatus slot) := .inr rfl
theorem OneStream.quote (pcid : BitVec 16) (nonce user : List Byte) : OneStream.Statement (.quote pcid nonce user) := .inr rfl
theorem OneStream.extend (x : List Byte) : OneStream.Statement (.extend x) := .inr rfl
theorem OneStream.linkattest (x : KeyExchange) : OneStream.Statement (.linkattest x) := .inr rfl
theorem OneStream.uekey (endpoint : BitVec 10) (blob : List Byte) : OneStream.Statement (.uekey endpoint blob) := .inr rfl
theorem OneStream.debugnonce : OneStream.Statement (.debugnonce) := .inr rfl
theorem OneStream.debug (token : List Byte) : OneStream.Statement (.debug token) := .inr rfl
theorem OneStream.pstate (p : BitVec 2) : OneStream.Statement (.pstate p) := .inr rfl
theorem OneStream.p3Entry : OneStream.Statement (.p3Entry) := .inr rfl
theorem OneStream.reset : OneStream.Statement (.reset) := .inr rfl
theorem OneStream.coldReset : OneStream.Statement (.coldReset) := .inr rfl
theorem OneStream.warmReset : OneStream.Statement (.warmReset) := .inr rfl
theorem OneStream.scrubRecordComplete : OneStream.Statement (.scrubRecordComplete) := .inr rfl
theorem OneStream.thermalTrip : OneStream.Statement (.thermalTrip) := .inr rfl
theorem OneStream.lifetimeCounterFlush : OneStream.Statement (.lifetimeCounterFlush) := .inr rfl
theorem OneStream.monitorSample (die src core : Nat) (value : Word) : OneStream.Statement (.monitorSample die src core value) := .inr rfl
theorem OneStream.illegalScalarWord (w : Word) (code : Nat) : OneStream.Statement (.illegalScalarWord w code) := .inr rfl
theorem OneStream.scalarFetchFault (kind detail : Nat) (addr : DWord) (home : Bool) : OneStream.Statement (.scalarFetchFault kind detail addr home) := .inr rfl
theorem OneStream.unassignedCeCommand (w : DWord) (addr : DWord) (kind detail : Nat) : OneStream.Statement (.unassignedCeCommand w addr kind detail) := .inr rfl
theorem OneStream.unassignedQueueOp (op : Byte) (code detail : Nat) : OneStream.Statement (.unassignedQueueOp op code detail) := .inr rfl
theorem OneStream.accessAnswer (tag : BitVec 16) (a : ApAns) : OneStream.Statement (.accessAnswer tag a) := .inr rfl
theorem OneStream.ueResponse (list : Nat) (data : List Byte) (ok : Bool) : OneStream.Statement (.ueResponse list data ok) := .inr rfl
theorem OneStream.ueTransportFailure (list : Nat) : OneStream.Statement (.ueTransportFailure list) := .inr rfl
theorem OneStream.backInvalidationResponse (line : Nat) : OneStream.Statement (.backInvalidationResponse line) := .inr rfl
theorem OneStream.linkDown (port : Nat) : OneStream.Statement (.linkDown port) := .inr rfl
theorem OneStream.powerRemoved : OneStream.Statement (.powerRemoved) := .inr rfl
theorem OneStream.clearSequenceComplete (cluster : Nat) : OneStream.Statement (.clearSequenceComplete cluster) := .inr rfl
theorem OneStream.p3ExitComplete : OneStream.Statement (.p3ExitComplete) := .inr rfl
theorem OneStream.gangRestoreComplete (gang : Nat) : OneStream.Statement (.gangRestoreComplete gang) := .inr rfl
theorem OneStream.hourPowered : OneStream.Statement (.hourPowered) := .inr rfl

end Sys2Proof.Laws
end

