-- ==== Sys2Proof/Laws/Translate.lean ====
section
/-! SUPPORT. Translation, requests, fetches and proxies: what they may change of memory, and that they keep its canonical form. -/

namespace Sys2Proof.Machine

@[simp] theorem leafFor_ram (s : State) (c : CtxDesc) (p : Nat) (pod : Bool) (va : Nat) : (leafFor s c p pod va).1.ram = s.ram := by
  unfold leafFor tlbPut tlbKeep draw
  dsimp only
  cases tlbFind s p pod va with
  | none => cases walk s c pod va <;> rfl
  | some e => cases walk s c pod va <;> dsimp only <;> repeat' (first | rfl | split)

/-- Memory is canonical after an access where it was before. -/
theorem memOk_of_ram {s t : State} (h : Safety.memOk s = true) (e : t.ram = s.ram) : Safety.memOk t = true := by
  unfold Safety.memOk at *; rwa [e]

/-- Translation, which writes memory only for an anchor (R204), keeps memory canonical. -/
theorem translate_ok {s : State} {ag : Agt} {pod : Bool} {va access stated : Nat} (h : Safety.memOk s = true) :
    Safety.memOk (translate s ag pod va access stated).state = true := by
  have h1 := memOk_of_ram h (leafFor_ram s (ctxOf s ag.pcid) ag.pcid pod va)
  unfold translate
  dsimp only
  generalize (pod && _ : Bool) = bad
  cases bad with
  | true => exact h
  | false =>
    simp only [Bool.false_eq_true, if_false]
    split
    · rename_i e; rw [e] at h1; exact h1
    · rename_i e; rw [e] at h1
      split
      · exact h1
      · split
        · exact h1
        · split <;> exact h1
        · split
          · rename_i e2; exact memOk_of_ram h1 (blocked_ram e2)
          · exact putMem_ok (u := walkName) h1

/-- The place of an access, found, keeps memory canonical. -/
theorem target_ok {s : State} {ag : Agt} {x : Cap} {va access stated : Nat} {w : Nat → Option Nat} (h : Safety.memOk s = true) :
    Safety.memOk (target s ag x va access stated w).state = true := by
  have ht := fun pod va => translate_ok (ag := ag) (pod := pod) (va := va) (access := access) (stated := stated) h
  unfold target
  split
  · split <;> exact h
  · split
    · exact h
    · split
      · exact h
      · split
        · dsimp only
          split
          · split <;> (rename_i e; have := ht true (va % 2 ^ 47); rw [e] at this; exact this)
          · exact h
        · have := ht false va
          cases e : translate s ag false va access stated <;> (rw [e] at this; exact this)

@[simp] theorem ask_ram (s : State) (au : Auth) (uid pcid node off : Nat) (k : ApKind) : (ask s au uid pcid node off k).1.ram = s.ram := by
  unfold ask
  repeat' (first | rfl | split)

theorem Got.bind_ok {α β : Type} {x : Got α} {f : State → α → Got β} (hx : Safety.memOk x.state = true)
    (h : ∀ s v, Safety.memOk s = true → Safety.memOk (f s v).state = true) : Safety.memOk (x.bind f).state = true := by
  cases x
  · exact h _ _ hx
  · exact hx
  · exact hx

/-- A code word drawn from a code cache or found in memory keeps memory canonical. -/
theorem codeWord_ok {s : State} {k : Nat} {now : State → Got Nat} (h : ∀ t, Safety.memOk t = true → Safety.memOk (now t).state = true)
    (hs : Safety.memOk s = true) : Safety.memOk (codeWord s k now).state = true := by
  have fresh : ∀ t, Safety.memOk t = true →
      Safety.memOk ((now t).bind fun s1 n => .ok { s1 with codeCache := aset 0 s1.codeCache k (n + 1) } (BitVec.ofNat 32 n)).state = true :=
    fun t ht => Got.bind_ok (h t ht) fun _ _ h => h
  have hd : Safety.memOk (draw s).2 = true := hs
  unfold codeWord
  dsimp only
  generalize (decide (aget 0 s.codeCache k = 0) || _ : Bool) = again
  cases again with
  | true => exact fresh s hs
  | false =>
    simp only [Bool.false_eq_true, if_false]
    split
    · exact hs
    · exact fresh _ hd

/-- A fetch of a code word keeps memory canonical. -/
theorem fetchWord_ok {s : State} {g : Grp} {c : Cap} {va : Nat} (h : Safety.memOk s = true) : Safety.memOk (fetchWord s g c va).state = true := by
  have h := target_ok (ag := agtOf s g) (x := c) (va := va) (access := accFetch) (stated := 0) (w := gangWg s g.gang) h
  unfold fetchWord
  dsimp only
  split
  · rename_i e; rw [e] at h; exact h
  · rename_i e; rw [e] at h; exact h
  · rename_i s1 p e; rw [e] at h
    refine codeWord_ok (fun t ht => ?_) h
    split
    · split <;> exact ht
    · rename_i node off
      have h2 := ask_ram t { cap := c, stated := 0 } (agtOf s g).uid (agtOf s g).pcid node off .fetch
      split <;> (rename_i e2; rw [e2] at h2; exact memOk_of_ram ht h2)

theorem fetchWords_ok (n : Nat) : ∀ {s : State} {g : Grp} {c : Cap} {va : Nat}, Safety.memOk s = true → Safety.memOk (fetchWords s g c va n).state = true := by
  induction n with
  | zero => intro s g c va h; exact h
  | succ n ih =>
    intro s g c va h
    unfold fetchWords
    exact Got.bind_ok (fetchWord_ok h) fun s1 w h1 => Got.bind_ok (ih h1) fun s2 ws h2 => h2

@[simp] theorem proxyOpen_ram (s : State) (die : Nat) (l : Loc) : (proxyOpen s die l).ram = s.ram := by
  unfold proxyOpen
  split
  · split <;> rfl
  · rfl

@[simp] theorem proxyGather_ram (s : State) (uid die : Nat) (l : Loc) : (proxyGather s uid die l).ram = s.ram := proxyOpen_ram s die l

/-- A barrier operation keeps memory canonical, with or without a proxy. -/
theorem barIssue_ok {s : State} {u die : Nat} {l : Loc} {op : BarOp} (h : Safety.memOk s = true) : Safety.memOk (barIssue s u die l op) = true := by
  have h1 := barEvent_ok (u := u) (l := l) (op := op) (memOk_of_ram h (proxyGather_ram s u die l))
  unfold barIssue
  dsimp only
  split <;> exact h1

end Sys2Proof.Machine
end

