-- ==== Sys2Proof/Tests/Slice0.lean ====
section
/-! SUPPORT. Tests of this model: ill-formed terms, words that the spec writes out, one step of instructions on small states, and
for each statement a state and operands that meet its hypotheses. Expected values are worked from the rules that each test names. -/

namespace Sys2Proof.Tests

open Sys2Proof Sys2Proof.Machine Sys2Proof.Claims

set_option maxRecDepth 8000
set_option Elab.async false

/-! Ill-formed terms: one for each check of WellFormed. -/

theorem test_wf_branch : (Instr.brc 6 0 0).wf = false ∧ (Instr.brk 4 0 0).wf = false ∧ (Instr.brc 5 0 0).wf = true := by decide
theorem test_wf_mask : (Instr.kmov 0 1 0).wf = false ∧ (Instr.kmov 1 62 3).wf = false ∧ (Instr.skmov 62 1 3).wf = false ∧ (Instr.kop 1 2 0 7).wf = false ∧
    (Instr.kop 1 2 3 5).wf = false ∧ (Instr.kop 0 2 3 0).wf = false ∧ (Instr.kmov 1 61 3).wf = true := by decide
theorem test_wf_smov : (Instr.smov 1 15).wf = false ∧ (Instr.smovWrite 1 8).wf = false ∧ (Instr.smovw 1 2 0).wf = false ∧ (Instr.smovw 1 2 17).wf = false ∧
    (Instr.smovw 60 2 5).wf = false ∧ (Instr.smovw 2 60 5).wf = false ∧ (Instr.smovw 48 0 16).wf = true := by decide
theorem test_wf_engine : (Instr.tcopy 0 0 62 false false).wf = false ∧ (Instr.tcopyG 31 0 0 false false).wf = false ∧ (Instr.tstore 0 0 62 false false).wf = false ∧
    (Instr.tmcast 0 0 61 false false).wf = false ∧ (Instr.treduce 0 0 1 3 false false).wf = false ∧ (Instr.celaunch 25 0 1 false 0).wf = false ∧
    (Instr.celaunchDetach 0 0 63 false 0).wf = false := by decide
theorem test_wf_barrier : (Instr.arrive 0 63 true).wf = false ∧ (Instr.expect 0 63 true).wf = false ∧ (Instr.arrive 0 63 false).wf = true := by decide
theorem test_wf_cap : (Instr.cget 1 0 14).wf = false ∧ (Instr.cseta 0 0 63 false).wf = false ∧ (Instr.cinc 0 0 63 true false).wf = false ∧
    (Instr.csetb 0 0 63 true false).wf = false ∧ (Instr.ctest 0 0 3).wf = false ∧ (Instr.ctest 0 0 6).wf = false := by decide
theorem test_wf_system : (Instr.frec 0 22).wf = false ∧ (Instr.monrd 0 0 36).wf = false ∧ (Instr.sysrd 0 0x13).wf = false ∧ (Instr.syswr 0 0x108).wf = false ∧
    (Instr.sysrd 0 0x12).wf = true := by decide

/-- An arithmetic modifier with a type only. -/
def am (t : Ty) : AMods := { ty := t, rnd := .rne, ftz := false, sat := false, x := 0 }
/-- A memory modifier with a type only. -/
def mm (t : Ty) : MMods := { ty := t, scope := .dflt, atom := .none, x := 0 }
/-- A v register as a source. -/
def v (n : BitVec 8) : Src := .vreg n false false

/-- Lane fields: a modifier, a destination, a latch, sources and the rules of R65 each refuse. -/
theorem test_wf_lane : (Instr.iadd (hdrAB (.vreg 1) (v 2) (v 3)) (am .f32)).wf = false ∧ (Instr.iadd (hdrAB (.kreg 1) (v 2) (v 3)) (am .s32)).wf = false ∧
    (Instr.iadd (hdrAB (.vreg 1) (.vreg 2 true true) (v 3)) (am .s32)).wf = false ∧ (Instr.iadd (hdrAB (.vreg 1) (.qreg 768) (v 3)) (am .s32)).wf = false ∧
    (Instr.iadd (hdrAB (.vreg 1) (.special 204) (v 3)) (am .s32)).wf = false ∧ (Instr.iadd { hdrAB (.vreg 1) (v 2) (v 3) with c := v 4 } (am .s32)).wf = false ∧
    (Instr.iadd { hdrAB (.vreg 1) (v 2) (v 3) with nowb := true } (am .s32)).wf = false ∧
    (Instr.icmp { hdrAB (.kreg 1) (v 2) (v 3) with lat := some 1 } (am .dflt)).wf = false ∧ (Instr.icmp (hdrAB (.kreg 0) (v 2) (v 3)) (am .dflt)).wf = false ∧
    (Instr.iadd (hdrAB (.vreg 1) (v 2) (v 3)) (am .s32)).wf = true := by decide
/-- Capability, memory and matrix fields, and the two constructors of one opcode. -/
theorem test_wf_lane_cap : (Instr.vcderive (hdrAB (.vreg 2) (v 4) (.special 2)) 0).wf = false ∧ (Instr.vcinc (hdrAB (.vreg 4) (v 2) (v 1)) 0).wf = false ∧
    (Instr.mzero (hdrAB (.qreg 1) (v 0) (v 0)) 0).wf = false ∧ (Instr.mzero { hdrAB (.qreg 0) (v 0) (v 0) with pred := 1 } 0).wf = false ∧
    (Instr.mjoin (hdrAB (.vreg 0) (v 0) (v 0)) 1).wf = false ∧ (Instr.mjoinDrop (hdrAB (.vreg 0) (v 0) (v 0)) 0).wf = false ∧
    (Instr.mzero (hdrAB (.qreg 128) (v 0) (v 0)) 0).wf = true := by decide

/-- An empty CE field set. -/
def cf : CeFields := { s := 0, d := 0, k := 0, nb := false, t := 0, x := 0, ix := false, m := 0, l := 0 }

theorem test_wf_ce : (Instr.esend { cf with t := 2 } 0).wf = false ∧ (Instr.ewait { cf with d := 1 }).wf = false ∧ (Instr.ered { cf with t := 3 } 0 0).wf = false ∧
    (Instr.ebr { cf with m := 4 }).wf = false ∧ (Instr.esnap { cf with m := 1 } 0 1).wf = false ∧ (Instr.esnap { cf with m := 17 } (BitVec.ofNat 64 (2 ^ 58)) 0).wf = false ∧
    (Instr.esnap { cf with m := 16 } 0 0).wf = false ∧ (Instr.esnap { cf with m := 17 } 0 1).wf = true := by decide
theorem test_wf_queue : (Instr.qlaunch false 32 0 1).wf = false ∧ (Instr.qlaunch false 64 4 1).wf = false ∧ (Instr.qwait false 0 0 0 1).wf = false ∧
    (Instr.qsignal false 3 0 0).wf = false ∧ (Instr.qgraph false 2 1).wf = false ∧ (Instr.qcancel false 0 0).wf = false ∧ (Instr.qcancel false 4 64).wf = false ∧
    (Instr.qcount false 1 0 8).wf = false ∧ (Instr.qwait false 6 0 0 1).wf = true := by decide

/-! Words that the spec writes out (R37, R40, R62, R63 and the examples), one family after the other. -/

theorem test_decode_scalar_int : decodeScalar 0x44287FEC = .ok (.addi 5 3 (-20)) ∧ decodeScalar 0x644BFD00 = .ok (.lui 9 0x3FD00) ∧
    decodeScalar 0x52492DEA = .ok (.ori 9 9 0xDEA) := by decide
theorem test_decode_control : decodeScalar 0x16100000 = .ok (.execwBlk 1 0) ∧ decodeScalar 0x20000000 = .ok .exit ∧ decodeScalar 0 = .ok .snop := by decide
theorem test_decode_caps : decodeScalar 0xCA519000 = .ok (.csetbi 5 3 4096) := by decide
theorem test_decode_sync : decodeScalar 0xAE018A02 = .ok (.binit 3 5 true false) ∧ decodeScalar 0xB0018000 = .ok (.arrive 3 0 false) ∧
    decodeScalar 0xB4018007 = .ok (.waitph 3 0 7) := by decide
theorem test_decode_traps : decodeScalar 0xE0000001 = .ok (.trap 1) ∧ decodeScalar 0xEC000001 = .ok .prmptNow := by decide
theorem test_decode_illegal : decodeScalar 0xFFFFFFFF = .error 1 ∧ decodeScalar 0x00000001 = .error 2 ∧ decodeScalar 0xE0001000 = .error 2 := by decide
theorem test_decode_lane_int : decodeLane 256 true 0x00C016801E00940003800000 =
    .ok (.iadd { dst := .vreg 5, lat := some 1, nowb := false, a := .vreg 7 true false, b := .vreg 9 false true, c := .vreg 0 false false, pred := 3, neg := true } (am .dflt)) ∧
    decodeLane 256 true 0x07C018000CC6000000000000 = .ok (.nbr (hdrAB (.vreg 6) (v 3) (.special 96)) (am .dflt)) ∧
    decodeLane 256 true 0x00C0043300C6700000000000 = .ok (.iadd (hdrAB (.vreg 1) (.special 192) (.special 103)) (am .dflt)) ∧
    decodeLane 256 true 0x0180080006C6300000000000 = .ok (.imul (hdrAB (.vreg 2) (.vreg 1 true false) (.special 99)) (am .dflt)) := by decide
theorem test_decode_lane_float : decodeLane 256 true 0x40C028002C00CB2140010000 =
    .ok (.ffma { hdrAB (.vreg 10) (v 11) (.vreg 12 true false) with c := .special 133 } { am .dflt with rnd := .ru }) := by decide
theorem test_decode_lane_cap : decodeLane 256 true 0x8200100006C0200000000000 = .ok (.vcderive (hdrAB (.vreg 4) (.vreg 1 true false) (.special 2)) 0) := by decide
theorem test_decode_lane_mem : decodeLane 256 true 0x9200140008006001C0001C80 =
    .ok (.atom { hdrAB (.vreg 5) (v 2) (v 6) with c := v 7 } { mm .dflt with x := 0x39 }) ∧
    decodeLane 256 true 0x924000000400300000340100 = .ok (.red (hdrAB (.vreg 0) (v 1) (v 3)) { mm .f32 with x := 2 }) ∧
    decodeLane 256 true 0x92F004000400000000000000 = .ok (.matchL (hdrAB (.kreg 1) (v 1) (v 0)) (mm .dflt)) := by decide
theorem test_decode_matrix : decodeLane 256 true 0xB012000040C080000041C000 = .ok (.mloop (hdrAB (.qreg 128) (v 16) (.special 8)) 0x8380) ∧
    decodeLane 256 true 0xB09000000000000000000000 = .ok (.mzero (hdrAB (.qreg 0) (v 0) (v 0)) 0) ∧ decodeLane 256 false 0xB09000000000000000000000 = .error 7 := by decide
theorem test_decode_ce : decodeCe 0x1803800000000000 0 0 = .ok (.ewait { cf with k := 14 }) ∧ decodeCe 0x3C00000000000000 0 0 = .ok .eend ∧
    decodeCe 0x1228200000004000 0 0 = .ok (.ered { cf with s := 8, d := 10, nb := true, l := 16384 } 0 0) ∧ decodeCe 0x4000000000000000 0 0 = .error 1 ∧
    decodeCe 0x1C03C00000000000 0 0 = .ok (.earrive { cf with k := 15 }) := by decide
/-- A QLAUNCH record: byte 0 the op, 8 to 15 the block, 16 to 23 the semaphore, 24 to 27 the count (R383, R386). -/
theorem test_decode_queue : decodeQueue 0x0000000000000003000000000000100800000000000020400000000000000001 = .ok (.qlaunch false 0x2040 0x1008 3) ∧
    decodeQueue 0x0C = .error (1, 0) ∧ decodeQueue 0x0200 = .error (2, 1) := by decide

/-! Small states. -/

/-- n groups of one launch on core 0, under a context that maps each address to itself. -/
def base (n : Nat) : State :=
  let s := placeCtx State.reset []
  let l := { placeLaunch s.uid with kd := { placeKernel with groups := n }, hPcc := withAddr (rootCap 0x7FFF) 0x8000 }
  placeGang { s with launches := [l], uid := s.uid + 1 } l [0]

/-- The group in slot 0 executes a scalar instruction. -/
def scalar (s : State) : State := { s with actor := .split 0 0 0 0 }
def st : State := scalar (base 1)

/-- The group in slot 0, changed; its first split, changed; registers of it. -/
def onGrp (f : Grp → Grp) (s : State) : State := { s with grps := s.grps.map fun g => if g.slot = 0 then f g else g }
def onSplit (f : Split → Split) (s : State) : State := onGrp (fun g => { g with g := g.g.modSplit 0 f }) s
def setR (ws : List (Nat × Word)) (s : State) : State := onGrp (fun g => { g with g := g.g.sSets 0 ws }) s
def setC (cs : List (CReg × Cap)) (s : State) : State := onSplit (fun x => cs.foldl (fun y c => cSet y c.1 c.2) x) s

/-- The issuing group and split, their registers. -/
def gOf (s : State) : Grp := (actorGrp s 0 0).getD (blankGrp (startCore (startSplit [] [] capNull capNull)) 0)
def xOf (s : State) : Split := ((gOf s).g.split 0).getD (startSplit [] [] capNull capNull)
def reg (s : State) (r : SReg) : Word := sGet (xOf s) r
def pcOf (s : State) : Nat := (xOf s).pc

/-- The next state satisfies f. -/
def gives (i : Instr) (s : State) (f : State → Bool) : Bool := match exec i s with | .next t => f t | _ => false
/-- The result register s1 of an instruction on the registers s2, s3, s4. -/
def out (i : Instr) (a b c : Word) : Word := match exec i (setR [(2, a), (3, b), (4, c)] st) with | .next t => reg t 1 | _ => 0xDEADBEEF

/-- The group took a trap of this kind and detail, and runs its handler (R411, R413). -/
def trapped (k d : Nat) (t : State) : Bool :=
  (gOf t).frame.isSome && pcOf t = 0x8000 && (match (gOf t).frec with | w :: _ => w.toNat % 65536 = k + 256 * d | [] => false)

/-- A witness for `Runs`. -/
theorem runs {s : State} (h : (match s.actor with | .split 0 0 0 _ => (actorGrp s 0 0).any fun g => (g.g.split 0).any fun x => x.st = .ready | _ => false) = true) :
    Runs s (gOf s) (xOf s) := by
  unfold Runs actorSplit
  split at h
  · rename_i w e
    rw [e]
    simp only [Option.any_eq_true, decide_eq_true_eq] at h
    obtain ⟨g, hg, x, hx, hr⟩ := h
    have e1 : gOf s = g := by unfold gOf; rw [hg]; rfl
    have e2 : xOf s = x := by unfold xOf; rw [e1, hx]; rfl
    simp only [hg, hx, hr, if_true, e1, e2]
  · exact absurd h (by simp)

/-- With an empty lane queue nothing is seized. -/
theorem not_seizes {g : Grp} {x : Split} {ws : List (SReg × Word)} (h : g.g.laneQ = []) : ¬ Seizes g x ws := by
  rintro ⟨b, hb, -⟩
  rw [h] at hb
  exact absurd hb (by simp)

def isOk {α : Type} : Got α → Bool
  | .ok _ _ => true
  | _ => false

theorem got_ok {α : Type} {x : Got α} (h : isOk x = true) : ∃ s v, x = .ok s v := by
  cases x
  · exact ⟨_, _, rfl⟩
  · exact absurd h (by simp [isOk])
  · exact absurd h (by simp [isOk])

def isSome {α : Type} : Got (Option α) → Bool
  | .ok _ r => r.isSome
  | _ => false

theorem got_some {α : Type} {x : Got (Option α)} (h : isSome x = true) : ∃ s v, x = .ok s (some v) := by
  rcases x with ⟨s, _ | v⟩ | _ | _
  · simp [isSome] at h
  · exact ⟨s, v, rfl⟩
  all_goals simp [isSome] at h

theorem runs_st : Runs st (gOf st) (xOf st) := runs (by decide +kernel)

/-! Scalar integer (R103 to R106). -/

theorem test_add : out (.add 1 2 3 false) 0x7FFFFFFF 1 0 = 0x80000000 ∧ out (.add 1 2 3 true) 0x7FFFFFFF 1 0 = 0x7FFFFFFF := by decide +kernel
theorem test_sub : out (.sub 1 2 3 false) 0x80000000 1 0 = 0x7FFFFFFF ∧ out (.sub 1 2 3 true) 0x80000000 1 0 = 0x80000000 := by decide +kernel
theorem test_addi : out (.addi 1 2 (-20)) 5 0 0 = 0xFFFFFFF1 := by decide +kernel
theorem test_mul : out (.mul 1 2 3) 0x10001 0x10001 0 = 0x20001 ∧ out (.mulh 1 2 3 false) 0xFFFFFFFF 2 0 = 0xFFFFFFFF ∧
    out (.mulh 1 2 3 true) 0xFFFFFFFF 2 0 = 1 := by decide +kernel
theorem test_logic : out (.and 1 2 3) 0xF0F0 0xFF00 0 = 0xF000 ∧ out (.or 1 2 3) 0xF0F0 0xFF00 0 = 0xFFF0 ∧ out (.xor 1 2 3) 0xF0F0 0xFF00 0 = 0x0FF0 := by decide +kernel
/-- ANDI sign-extends its immediate, ORI and XORI do not (R105). -/
theorem test_logic_imm : out (.andi 1 2 0x1FFF) 0x12345678 0 0 = 0x12345678 ∧ out (.ori 1 2 0x1FFF) 0 0 0 = 0x1FFF ∧ out (.xori 1 2 0x1FFF) 1 0 0 = 0x1FFE := by decide +kernel
theorem test_shift : out (.shl 1 2 3) 1 31 0 = 0x80000000 ∧ out (.shl 1 2 3) 1 32 0 = 0 ∧ out (.shl 1 2 3) 1 256 0 = 1 ∧ out (.shr 1 2 3) 0x80000000 31 0 = 1 ∧
    out (.sar 1 2 3) 0x80000000 40 0 = 0xFFFFFFFF := by decide +kernel
theorem test_shift_imm : out (.shli 1 2 31) 3 0 0 = 0x80000000 ∧ out (.shri 1 2 4) 0x80000000 0 0 = 0x08000000 ∧ out (.sari 1 2 4) 0x80000000 0 0 = 0xF8000000 ∧
    out (.rori 1 2 4) 0x1F 0 0 = 0xF0000001 := by decide +kernel
theorem test_minmax : out (.min 1 2 3 false) 0xFFFFFFFF 1 0 = 0xFFFFFFFF ∧ out (.min 1 2 3 true) 0xFFFFFFFF 1 0 = 1 ∧ out (.max 1 2 3 false) 0xFFFFFFFF 1 0 = 1 ∧
    out (.max 1 2 3 true) 0xFFFFFFFF 1 0 = 0xFFFFFFFF := by decide +kernel
theorem test_slt : out (.slt 1 2 3 false) 0xFFFFFFFF 0 0 = 1 ∧ out (.slt 1 2 3 true) 0xFFFFFFFF 0 0 = 0 ∧ out (.slti 1 2 (-1)) 0xFFFFFFFE 0 0 = 1 := by decide +kernel
theorem test_lui : out (.lui 1 0x3FD00) 0 0 0 = 0x7FA00000 ∧ out (.clz 1 2) 0 0 0 = 32 ∧ out (.clz 1 2) 1 0 0 = 31 ∧ out (.popc 1 2) 0xF00F 0 0 = 8 := by decide +kernel
theorem test_sel : out (.sel 1 2 3 4) 7 9 1 = 7 ∧ out (.sel 1 2 3 4) 7 9 0 = 9 := by decide +kernel
/-- The quotient is truncated towards zero, the remainder takes the sign of the dividend, and a divisor of 0 sets DIVZ (R106). -/
theorem test_div : out (.div 1 2 3 false false) 0xFFFFFFF9 2 0 = 0xFFFFFFFD ∧ out (.div 1 2 3 true false) 0xFFFFFFF9 2 0 = 0xFFFFFFFF ∧
    out (.div 1 2 3 false false) 0x80000000 0xFFFFFFFF 0 = 0x80000000 ∧ out (.div 1 2 3 true true) 7 0 0 = 7 ∧
    gives (.div 1 2 3 false false) st (fun t => reg t 1 = 0xFFFFFFFF && (gOf t).g.status = 2) = true := by decide +kernel
/-- s0 takes no value (R79). -/
theorem test_s0 : gives (.addi 0 0 5) st (fun t => reg t 0 = 0 && pcOf t = 0x10004) = true := by decide +kernel

theorem test_witness_ScalarIntegerResult : ∃ g x d v, Runs st g x ∧ alu x (.addi 1 0 (-1)) = some (d, v) ∧ ¬ Seizes g x [(d, v)] :=
  ⟨gOf st, xOf st, 1, _, runs_st, rfl, not_seizes (by decide +kernel)⟩

/-- A state in which a block of split 1 has still to write lane 0, which split 0 does not hold. -/
def stClaim : State :=
  onGrp (fun g => { g with g := { g.g with
    splits := [{ startSplit [] [] capNull capNull with act := 2 }, { startSplit [] [] capNull capNull with idx := 1, act := 0 }],
    laneQ := [{ split := 1, pc := 0, base := 0, words := [0], next := 0, mask := 1, s := [], c := [], splits := 2, full := false, receiver := false,
                compacting := false, todo := none, lat := [], noWatch := false, pre := none }] } }) st

theorem test_witness_MaskClaimWaits : ∃ g x d v, Runs stClaim g x ∧ alu x (.addi 61 0 1) = some (d, v) ∧ Seizes g x [(d, v)] :=
  ⟨gOf stClaim, xOf stClaim, 61, _, runs (by decide +kernel), rfl, _, List.mem_cons_self, by decide +kernel, 61, by decide, by decide +kernel⟩
theorem test_mask_claim_waits : exec (.addi 61 0 1) stClaim = .next stClaim := rfl

theorem test_witness_DivideResult : ∃ g x v, Runs st g x ∧ v = (0xFFFFFFFF : Word) ∧ sGet x 2 = 0 ∧ ¬ Seizes g x [(1, v)] :=
  ⟨gOf st, xOf st, _, runs_st, rfl, by decide +kernel, not_seizes (by decide +kernel)⟩

/-! Masks and transfers (R107 to R112). -/

theorem test_kmov : gives (.kmov 1 2 1) (setR [(2, 5)] st) (fun t => kGet (gOf t).g 1 = 0x500000000) = true ∧
    gives (.kop 1 0 0 5) st (fun t => kGet (gOf t).g 1 = 0) = true ∧ gives (.kop 2 0 1 3) st (fun t => kGet (gOf t).g 2 = allLanes) = true := by decide +kernel
theorem test_skmov : gives (.skmov 1 0 3) st (fun t => reg t 1 = 0xFFFFFFFF && reg t 3 = 0xFFFFFFFF) = true ∧ out (.kpopc 1 0 true) 0 0 0 = 96 ∧
    out (.kpopc 1 1 false) 0 0 0 = 0 ∧ out (.kfirst 1 0 true) 0 0 0 = 95 ∧ out (.kfirst 1 1 false) 0 0 0 = 0xFFFFFFFF := by decide +kernel
/-- A mask register is written in the lanes of the activity mask only (R108). -/
theorem test_k_mask : gives (.kop 1 0 0 1) (onSplit (fun x => { x with act := 6 }) st) (fun t => kGet (gOf t).g 1 = 6) = true := by decide +kernel
/-- SMOVW reads every source before it writes (R107). -/
theorem test_smovw : gives (.smovw 2 1 3) (setR [(1, 7), (2, 8), (3, 9)] st) (fun t => reg t 2 = 7 && reg t 3 = 8 && reg t 4 = 9) = true := by decide +kernel
theorem test_smov : gives (.smov 1 11) st (fun t => reg t 1 = 0xFFFF) = true ∧ gives (.smov 1 7) st (fun t => reg t 1 = 1) = true ∧
    gives (.smovWrite 2 9) (setR [(2, 0xFFFFFF81)] (onGrp (fun g => { g with g := { g.g with status := 3 } }) st)) (fun t => (gOf t).g.status = 2) = true ∧
    gives (.smovWrite 2 10) (setR [(2, 77)] st) (fun t => (gOf t).rbcount = 77) = true := by decide +kernel
/-- One live split, index 0, not parked: 0 + 4 × 1 + 2^8 (R97). -/
theorem test_splitq : out (.splitq 1) 0 0 0 = 0x104 := by decide +kernel

theorem test_witness_MaskRegisterResult : ∃ g x v, Runs st g x ∧ (Instr.kmov 1 2 0).wf = true ∧ kval g x (.kmov 1 2 0) = some (1, v) :=
  ⟨gOf st, xOf st, _, runs_st, by decide, rfl⟩
theorem test_witness_ScalarTransferResult : ∃ g x ws, Runs st g x ∧ (Instr.smovw 48 0 16).wf = true ∧ sval st g x (.smovw 48 0 16) = some ws ∧ ¬ Seizes g x ws :=
  ⟨gOf st, xOf st, _, runs_st, by decide, rfl, not_seizes (by decide +kernel)⟩

/-! Scalar control (R83 to R102, R109, R113). -/

/-- The PCC of split 0. -/
def pcc (s : State) : Cap := (xOf s).pcc
/-- A capability for all memory with all permissions at an address. -/
def root (a : Nat) : Cap := withAddr (rootCap 0x7FFF) a
/-- A tight PCC: two words at 0x10000. -/
def tight : Cap := (narrow (rootCap 0x7FFF) 0x10000 8 0x7FFF 0x10000).getD capNull
def stTight : State := onSplit (fun x => { x with pcc := tight }) st

theorem test_snop : gives .snop st (fun t => pcOf t = 0x10004 && reg t 1 = 0) = true := by decide +kernel
theorem test_br : gives (.br (-2)) st (fun t => pcOf t = 0xFFF8) = true ∧ gives (.br 2) stTight (trapped 3 4) = true := by decide +kernel
theorem test_brc : gives (.brc 2 2 5) (setR [(2, 0x80000000)] st) (fun t => pcOf t = 0x10014) = true ∧ gives (.brc 5 0 5) st (fun t => pcOf t = 0x10004) = true := by decide +kernel
/-- With no lane, BRK.all is taken and BRK.any is not (R91). -/
theorem test_brk : gives (.brk 1 1 5) (onSplit (fun x => { x with act := 0 }) st) (fun t => pcOf t = 0x10014) = true ∧
    gives (.brk 0 0 5) st (fun t => pcOf t = 0x10014) = true ∧ gives (.brk 0 1 5) st (fun t => pcOf t = 0x10004) = true := by decide +kernel
theorem test_dbnz : gives (.dbnz 2 (-1)) (setR [(2, 2)] st) (fun t => pcOf t = 0xFFFC && reg t 2 = 1) = true ∧
    gives (.dbnz 2 (-1)) (setR [(2, 1)] st) (fun t => pcOf t = 0x10004 && reg t 2 = 0) = true := by decide +kernel
/-- A division (R94): the new split takes the lanes of the k register, index 1 and the target. -/
def stK : State := onGrp (fun g => { g with g := kSet g.g 1 allLanes 5 }) st
theorem test_bdiv : gives (.bdiv false 1 4) stK (fun t => (xOf t).act = ~~~5 && pcOf t = 0x10004 &&
    ((gOf t).g.split 1).any (fun y => y.act = 5 && y.pc = 0x10010)) = true := by decide +kernel
theorem test_bdiv_uniform : gives (.bdiv false 0 4) st (fun t => pcOf t = 0x10010 && (gOf t).g.splits.length = 1) = true ∧
    gives (.bdiv true 0 4) st (fun t => pcOf t = 0x10004) = true := by decide +kernel
theorem test_call : gives (.call 3) st (fun t => pcOf t = 0x1000C && cOtype (cGet (xOf t) 30) = 63 && cAddr (cGet (xOf t) 30) = 0x10004) = true := by decide +kernel
theorem test_calli : gives (.calli 30 30) (setC [(30, root 0x4000)] st) (fun t => pcOf t = 0x4000 && cAddr (cGet (xOf t) 30) = 0x10004) = true ∧
    gives (.calli 30 5) st (trapped 3 1) = true := by decide +kernel
theorem test_ret : gives (.ret 30) (setC [(30, withOtype (root 0x4000) 63)] st) (fun t => pcOf t = 0x4000 && cOtype (pcc t) = 0) = true ∧
    gives (.ret 30) (setC [(30, root 0x4002)] st) (trapped 3 13) = true := by decide +kernel
theorem test_jmpi : gives (.jmpi 5 2) (setR [(2, 0xFFFFFFFC)] (setC [(5, root 0x4000)] st)) (fun t => pcOf t = 0x3FFC) = true := by decide +kernel
theorem test_lcb : gives (.lcb 5) (setC [(5, root 0x6000)] st) (fun t => cAddr (xOf t).lcc = 0x6000) = true ∧ gives (.lcb 5) st (trapped 3 1) = true ∧
    gives (.lcbGet 6) st (fun t => cGet (xOf t) 6 = (xOf st).lcc) = true := by decide +kernel
theorem test_exec : gives (.execBlk 0 0) st (fun t => (gOf t).g.laneQ.map (fun b => (b.words.length, b.mask)) = [(1, allLanes)] && pcOf t = 0x10004) = true ∧
    gives (.execwBlk 1 0) st (fun t => (gOf t).g.laneQ.map (·.words.length) = [2]) = true := by decide +kernel
theorem test_yield : gives (.yieldS 2) (setR [(2, 70000)] st) (fun t => (xOf t).st = .yield 65535) = true ∧ gives (.yieldS 0) st (fun t => (xOf t).st = .ready) = true := by decide +kernel
/-- A dead register reads as poison and sets POISONSEEN (R51); VWRITE revives it (R52). -/
theorem test_vread : gives (.vread 1 0 0) st (fun t => reg t 1 = 0x7FA00DEA && (gOf t).g.status = 1) = true ∧
    gives (.vread 1 2 0) (setR [(2, 64)] st) (trapped 1 3) = true := by decide +kernel
theorem test_vwrite : gives (.vwrite 2 0 3) (setR [(2, 9), (3, 95)] st) (fun t => rl (vGet (gOf t).g 0) 95 = 9 && rl (vGet (gOf t).g 0) 94 = 0x7FA00DEA) = true ∧
    gives (.vwrite 2 0 3) (setR [(3, 96)] st) (trapped 1 3) = true := by decide +kernel

/-- Two splits: split 0 at MERGE's word, split 1 parked at an address. -/
def stTwo (a : Nat) (parked : Bool) : State :=
  onGrp (fun g => { g with g := { g.g with splits :=
    [{ startSplit [] [] (root 0x10000) capNull with act := 3 }, { startSplit [] [] (root a) capNull with idx := 1, act := 12, age := 1, st := if parked then .merge else .ready }] } }) st
theorem test_merge : gives .merge (stTwo 0x10000 true) (fun t => (gOf t).g.splits.map (fun y => (y.idx, y.act, y.pc)) = [(0, 15, 0x10004)]) = true ∧
    gives .merge (stTwo 0x9000 true) (fun t => (xOf t).st = .merge && ((gOf t).g.split 1).any (fun y => y.pc = 0x9004)) = true ∧
    gives .merge (stTwo 0x10000 false) (fun t => (xOf t).st = .merge) = true := by decide +kernel
theorem test_exit : gives .exit (stTwo 0x10000 false) (fun t => (gOf t).g.splits.map (·.idx) = [1]) = true ∧
    gives .exit (scalar (base 2)) (fun t => (t.grps.map (·.ended)) = [true, false]) = true := by decide +kernel

/-- Two groups of a pair; the group in slot 1 waits in COMPACT with its lanes 0 and 1. -/
def stPair : State :=
  let s := onSplit (fun x => { x with act := 4 }) (scalar (base 2))
  { s with grps := s.grps.map fun g => if g.slot = 1 then { g with g := { g.g with splits := g.g.splits.map fun y => { y with st := .rendezvous 7 1, act := 3 } } } else g }
theorem test_compact : gives (.compact 1 2) (setR [(2, 1)] stPair) (fun t => reg t 1 = 1 && (xOf t).act = 7 && (gOf t).g.compact.any (fun r => r.h = [0, 1] && r.s = [0, 1]) &&
    (t.grps.map fun g => g.g.splits.map (·.st)) = [[.ready], [.partner 7]]) = true ∧ gives (.compact 1 2) st (fun t => reg t 1 = 0) = true := by decide +kernel
/-- After the exchange, UNCOMPACT gives the lanes back (R101). -/
def stBack : State := match exec (.compact 1 2) stPair with | .next t => t | _ => st
theorem test_uncompact : gives (.uncompact 3) stBack (fun t => reg t 3 = 1 && (xOf t).act = 4 && (gOf t).g.compact = none &&
    (t.grps.drop 1).all fun g => g.g.splits.all fun y => y.st = .ready && y.act = 3 && sGet y 7 = 2) = true ∧ gives (.uncompact 3) st (fun t => reg t 3 = 0) = true := by decide +kernel

/-! States that meet the hypotheses of the statements about control. -/

theorem test_witness_BranchResult : ∃ g x c k ws, Runs st g x ∧ (Instr.dbnz 2 (-1)).wf = true ∧ branch g x (.dbnz 2 (-1)) = some (c, k, ws) ∧ ¬ Seizes g x ws ∧ Reaches x k :=
  ⟨gOf st, xOf st, _, _, _, runs_st, by decide, rfl, not_seizes (by decide +kernel), by unfold Reaches; decide +kernel⟩
theorem test_witness_BranchTargetFault : ∃ g x c k ws, Runs stTight g x ∧ branch g x (.br 2) = some (c, k, ws) ∧ c ∧ ¬ Reaches x k :=
  ⟨gOf stTight, xOf stTight, _, _, _, runs (by decide +kernel), rfl, trivial, by unfold Reaches; decide +kernel⟩
/-- Every clause of DivideSplits: no lane, a target out of bounds, every lane, and some lanes with fewer than four splits or with four. -/
def stFour : State :=
  let ys : List Split := (below 4).map fun j => { startSplit [] [] (root 0x10000) capNull with idx := j, act := BitVec.ofNat 96 (3 * 2 ^ (2 * j)), age := j }
  onGrp (fun g => { g with g := { g.g with splits := ys } }) stK
theorem test_witness_DivideSplits : (xOf stK).act &&& kGet (gOf stK).g 1 ≠ 0 ∧ (xOf stK).act &&& ~~~ ((xOf stK).act &&& kGet (gOf stK).g 1) ≠ 0 ∧
    Reaches (xOf stK) 4 ∧ (gOf stK).g.split 1 = none ∧ (∀ l < 1, (gOf stK).g.split l ≠ none) ∧ (xOf stK).act &&& kGet (gOf stK).g 2 = 0 ∧
    (xOf stFour).act &&& kGet (gOf stFour).g 1 ≠ 0 ∧ (xOf stFour).act &&& ~~~ ((xOf stFour).act &&& kGet (gOf stFour).g 1) ≠ 0 ∧
    (∀ j < 4, (gOf stFour).g.split j ≠ none) ∧ ¬ Reaches (xOf stTight) 4 := by unfold Reaches; decide +kernel
theorem test_diverge : gives (.bdiv false 1 4) stFour (trapped 11 0) = true := by decide +kernel
theorem test_witness_JumpResult : ∃ c off d, jump (xOf (setC [(5, root 0x4000)] st)) (.jmpi 5 0) = some (c, off, d) ∧ jumpFault c (cAddr c + off) (off ≠ 0) = none :=
  ⟨_, _, _, rfl, by decide +kernel⟩
theorem test_witness_JumpFault : ∃ c off d n m, jump (xOf st) (.jmpi 5 0) = some (c, off, d) ∧ jumpFault c (cAddr c + off) (off ≠ 0) = some (n, m) :=
  ⟨_, _, _, 1, 0, rfl, by decide +kernel⟩
theorem test_witness_BlockEnqueued : (gOf st).g.laneQ.length < 8 ∧ (xOf st).lcc.tag = true ∧ cOtype (xOf st).lcc = 0 ∧ cHas (xOf st).lcc 2 = true ∧
    cAddr (xOf st).lcc % 4 = 0 ∧ capBase (xOf st).lcc ≤ (cAddr (xOf st).lcc : Int) ∧ (cAddr (xOf st).lcc : Int) + 12 ≤ capTop (xOf st).lcc ∧
    ∃ s1 ws, fetchWords st (gOf st) (xOf st).lcc (cAddr (xOf st).lcc) 3 = .ok s1 ws := by
  refine ⟨by decide +kernel, by decide +kernel, by decide +kernel, by decide +kernel, by decide +kernel, by decide +kernel, by decide +kernel, got_ok (by decide +kernel)⟩
theorem test_witness_LaneRegisterRead : (0 : Nat) < 256 ∧ 0 < (gOf st).regs ∧ (xOf st).act.getLsbD 95 = true ∧ (xOf stPair).act.getLsbD 95 = false ∧
    ¬ (64 < (gOf st).regs) := by decide +kernel
theorem test_witness_LaneRegisterWrite : keptHit (gOf st) [0] = false ∧ (matVRegs st (gOf st)).contains 0 = false ∧ (takeCkpt st (gOf st) [0] []).isSome = true := by decide +kernel
theorem test_witness_MergeResult : SplitsOk (gOf (stTwo 0x9000 true)) ∧ (∀ y ∈ (gOf (stTwo 0x9000 true)).g.splits, y.idx ≠ 0 → y.st = .merge) ∧
    (∀ y ∈ (gOf (stTwo 0x9000 true)).g.splits, 0x9000 ≤ at_ y) ∧ (∃ y, (gOf (stTwo 0x9000 true)).g.split 1 = some y ∧ at_ y = 0x9000) ∧
    at_ (xOf (stTwo 0x9000 true)) ≠ 0x9000 ∧ ∃ y ∈ (gOf (stTwo 0x9000 false)).g.splits, y.idx ≠ 0 ∧ y.st ≠ .merge := by
  unfold SplitsOk
  refine ⟨by decide +kernel, by decide +kernel, by decide +kernel, ⟨_, rfl, by decide +kernel⟩, by decide +kernel, by decide +kernel⟩

/-- A commit of no window settles at once. -/
theorem settles {s : State} (h : (match commitAll s (gOf s).uid with
      | (t, .done) => (grpOf t (gOf s).uid).isSome && ((gOf s).g.split (xOf s).idx).isSome && (t.fab.mcThreads.all fun m => m.group ≠ (gOf s).uid)
          && ((grpOf t (gOf s).uid).any fun g => (g.g.split (xOf s).idx).isSome)
      | _ => false) = true) : ∃ s1 g1 x1, Settles s (gOf s) (xOf s) s1 g1 x1 := by
  unfold Settles
  rcases e : commitAll s (gOf s).uid with ⟨t, c⟩
  rw [e] at h
  cases c
  case done =>
    simp only [Bool.and_eq_true, List.all_eq_true, decide_eq_true_eq, Option.isSome_iff_exists] at h
    obtain ⟨⟨⟨⟨g, hg⟩, -⟩, hm⟩, hx⟩ := h
    rw [hg] at hx
    simp only [Option.any_some, Option.isSome_iff_exists] at hx
    obtain ⟨x, hx⟩ := hx
    exact ⟨t, g, x, rfl, hg, hx, hm⟩
  all_goals exact absurd h (by simp)

theorem test_witness_Settles : (∃ s1 g1 x1, Settles st (gOf st) (xOf st) s1 g1 x1) ∧ NoRegion (gOf st) ∧
    (∃ s1 g1 x1, Settles stPair (gOf stPair) (xOf stPair) s1 g1 x1) ∧ NoRegion (gOf stPair) :=
  ⟨settles (by decide +kernel), .inl (by decide +kernel), settles (by decide +kernel), .inl (by decide +kernel)⟩
/-! Scalar capabilities (R169, R178 to R184, R189 to R193). -/

/-- A capability of n bytes from an address, and one for a place of the scratchpad of the first workgroup. -/
def area (a n : Nat) : Cap := (narrow (rootCap 0x7FFF) a n 0x7FFF a).getD capNull
def pad (a n : Nat) : Cap := let c := area a n; { c with bits := c.bits ||| BitVec.ofNat 128 (2 ^ 104) }
/-- c1 is a range of memory, c2 a range of the scratchpad, c3 an authority with otype 5 as its address. -/
def stCaps : State := setC [(1, area 0x30000 0x1000), (2, pad 0x400 0x1000), (3, withAddr (area 0 64) 5), (4, withOtype (area 0x30000 0x1000) 5)] st
/-- The capability that an instruction leaves in c5. -/
def capOut (i : Instr) (ws : List (Nat × Word)) (f : Cap → Bool) : Bool := gives i (setR ws stCaps) fun t => f (cGet (xOf t) 5) && pcOf t = 0x10004

theorem test_cseta : capOut (.cseta 5 1 2 false) [(2, 0x30010)] (fun c => c.tag && cAddr c = 0x30010) = true ∧
    capOut (.cseta 5 1 2 false) [(3, 0x80)] (fun c => !c.tag && cAddr c = 0x80 * 2 ^ 32) = true ∧ gives (.cseta 5 1 2 true) (setR [(3, 0x80)] stCaps) (trapped 3 5) = true := by decide +kernel
theorem test_cinc : capOut (.cinc 5 1 2 false false) [(2, 0xFFFFFFFF)] (fun c => cAddr c = 0x2FFFF) = true ∧ capOut (.cinc 5 1 2 true false) [(2, 4), (3, 0)] (fun c => cAddr c = 0x30004) = true ∧
    capOut (.cinci 5 1 (-16)) [] (fun c => cAddr c = 0x2FFF0) = true := by decide +kernel
theorem test_csetb : capOut (.csetb 5 1 2 false true) [(2, 256)] (fun c => c.tag && capBase c = 0x30000 && capTop c = 0x30100) = true ∧
    gives (.csetb 5 1 2 false true) (setR [(2, 0x1001)] stCaps) (trapped 3 4) = true ∧ capOut (.csetbi 5 1 4096) [] (fun c => c.tag && capTop c = 0x31000) = true := by decide +kernel
theorem test_candp : capOut (.candp 5 1 2) [(2, 3)] (fun c => c.tag && cPerms c = 3) = true ∧ gives (.candp 5 4 2) stCaps (trapped 3 2) = true := by decide +kernel
theorem test_cmov : capOut (.cmov 5 4) [] (fun c => c = withOtype (area 0x30000 0x1000) 5) = true ∧ gives (.cclr 1) stCaps (fun t => cGet (xOf t) 1 = capNull) = true ∧
    gives (.cclrTag 1) stCaps (fun t => cGet (xOf t) 1 = { area 0x30000 0x1000 with tag := false }) = true := by decide +kernel
theorem test_cseal : capOut (.cseal 5 1 3) [] (fun c => c.tag && cOtype c = 5) = true ∧ capOut (.csealSentry 5 1) [] (fun c => cOtype c = 63) = true ∧
    capOut (.cunseal 5 4 3) [] (fun c => c.tag && cOtype c = 0) = true ∧ gives (.cunseal 5 1 3) stCaps (trapped 3 6) = true := by decide +kernel
theorem test_cget : gives (.cget 1 7 4) stCaps (fun t => reg t 7 = 0x31000) = true ∧ gives (.cget 1 7 6) stCaps (fun t => reg t 7 = 0x1000) = true ∧
    gives (.cget 2 7 11) stCaps (fun t => reg t 7 = 1) = true ∧ gives (.cget 0 7 14) (setR [(7, 0x20000)] st) (fun t => reg t 7 = 0x20000) = true := by decide +kernel
theorem test_ctest : gives (.ctest 4 7 1) stCaps (fun t => reg t 7 = 1) = true ∧ gives (.ctest 1 7 4) stCaps (fun t => reg t 7 = 1) = true ∧
    gives (.ctestSubset 1 1 7) stCaps (fun t => reg t 7 = 1) = true ∧ gives (.ctestSubset 1 2 7) stCaps (fun t => reg t 7 = 0) = true := by decide +kernel
/-- REVOKE marks the granule of its page and sets MARKED (R189); with a mark there is no clear (R195). -/
theorem test_revoke : gives (.revoke 1) stCaps (fun t => aget false t.rev.bitmap 0x30 && t.rev.marked && !(aget false t.rev.bitmap 0x31)) = true ∧
    gives (.revokeClear 1) stCaps (fun t => !(aget false t.rev.bitmap 0x30) && pcOf t = 0x10004) = true := by decide +kernel
theorem test_rsweep : gives (.rsweep 7) stCaps (fun t => reg t 7 = 1 && t.rev.epoch = 1 && !t.rev.sweepDone) = true ∧
    gives (.rsweep 7) (onSplit (fun x => { x with pcc := withPerms x.pcc 0x7EFF }) stCaps) (trapped 3 3) = true := by decide +kernel

theorem runs_caps : Runs stCaps (gOf stCaps) (xOf stCaps) := runs (by decide +kernel)
theorem test_witness_CapabilityDerivation : (∃ v, derives (xOf stCaps) (.cseal 5 1 3) = some (5, none, v)) ∧ ∃ t v, derives (xOf stCaps) (.cseal 5 1 1) = some (5, some t, v) :=
  ⟨⟨_, rfl⟩, _, _, rfl⟩
theorem test_witness_CapabilityRead : (Instr.cget 1 7 13).wf = true ∧ ∃ q v, reads (xOf stCaps) v (.cget 1 7 13) = some (7, q) := ⟨by decide, _, 0, rfl⟩
theorem test_witness_DerivationGrantsNothing : ∃ v, derives (xOf stCaps) (.cinci 5 1 (-16)) = some (5, none, v) ∧ copies (.cinci 5 1 (-16)) = some 1 := ⟨_, rfl, rfl⟩
theorem test_witness_RevokeResult : (cGet (xOf stCaps) 1).tag = true ∧ cHas (cGet (xOf stCaps) 1) 14 = true ∧ capBase (cGet (xOf stCaps) 1) % 4096 = 0 ∧
    capTop (cGet (xOf stCaps) 1) % 4096 = 0 ∧ stCaps.rev.sweepDone = true ∧ stCaps.rev.marked = false ∧ (∃ s1 g1 x1, Settles stCaps (gOf stCaps) (xOf stCaps) s1 g1 x1) ∧
    ∃ s2 ps, pageTgts stCaps (agtOf stCaps (gOf stCaps)) 0x30000 1 = .ok s2 ps :=
  ⟨by decide +kernel, by decide +kernel, by decide +kernel, by decide +kernel, by decide +kernel, by decide +kernel, settles (by decide +kernel), got_ok (by decide +kernel)⟩
theorem test_witness_SweepResult : cHas (xOf stCaps).pcc 8 = true ∧ stCaps.rev.sweepDone = true ∧ (grpOf (startEpoch stCaps) (gOf stCaps).uid).isSome = true := by decide +kernel

/-! Scalar memory (R174, R175, R220, R221, R240, R279). -/

/-- Memory as the group sees it after an instruction. -/
def word32 (t : State) (l : Loc) : Nat := ramNat (viewRam t (gOf t)) l 4
def padAt (a : Nat) : Loc := { sp := .pad 102, a := a }
/-- A word stored before. -/
def stMem : State :=
  { stCaps with ram := ramWrite (ramWrite stCaps.ram (hbmLoc 0x30040) 0 (leBytes 4 0x87654321)) (padAt 0x400) 0 [2, 0, 2, 0, 1, 0, 0, 0] }

theorem test_sld : gives (.sld 7 1 64) stMem (fun t => reg t 7 = 0x87654321) = true ∧ gives (.sld 7 1 (-1)) stMem (trapped 3 4) = true := by decide +kernel
/-- A store lies in the group's window: the group sees it, memory has not changed (R240). -/
theorem test_sst : gives (.sst 7 1 8) (setR [(7, 0x11223344)] stMem) (fun t => word32 t (hbmLoc 0x30008) = 0x11223344 && ramNat t.ram (hbmLoc 0x30008) 4 = 0 &&
    word32 t (hbmLoc 0x3000C) = 0) = true ∧ gives (.sst 7 2 0) (setR [(7, 9)] stMem) (fun t => word32 t (padAt 0x400) = 9) = true := by decide +kernel
theorem test_sldc : gives (.sstc 2 1 0 1) stCaps (trapped 3 8) = true ∧ gives (.sstc 1 1 0 1) stCaps (fun t => (ramReadCap (viewRam t (gOf t)) (hbmLoc 0x30010)) = cGet (xOf t) 1) = true ∧
    gives (.sldc 6 1 0 4) stMem (fun t => !(cGet (xOf t) 6).tag && cAddr (cGet (xOf t) 6) = 0x87654321) = true ∧ gives (.sldc 6 1 7 0) (setR [(7, 8)] stMem) (trapped 3 10) = true := by decide +kernel
/-- BINIT, ARRIVE and EXPECT on an object with 2 remaining of 2 expected in phase 1 (R279). -/
theorem test_binit : gives (.binit 2 7 false false) (setR [(7, 3)] stMem) (fun t => word32 t (padAt 0x400) = 0x00030003 && word32 t (padAt 0x404) = 0) = true ∧
    gives (.binit 2 7 true false) (setR [(7, 3)] stMem) (fun t => word32 t (padAt 0x400) = 0x00020002) = true := by decide +kernel
theorem test_arrive : gives (.arrive 2 0 false) stMem (fun t => word32 t (padAt 0x400) = 0x00020001 && word32 t (padAt 0x404) = 1) = true ∧
    gives (.arrive 2 7 false) (setR [(7, 5)] stMem) (fun t => word32 t (padAt 0x408) = 5) = true := by decide +kernel
theorem test_expect : gives (.expect 2 7 false) (setR [(7, 128)] stMem) (fun t => word32 t (padAt 0x408) = 128 && word32 t (padAt 0x400) = 0x00020002) = true := by decide +kernel
/-- Phase 1 is not over, phase 0 is (R280, R285). -/
theorem test_btest : gives (.btest 2 7 8) (setR [(7, 0)] stMem) (fun t => reg t 8 = 0) = true ∧ gives (.btest 2 7 8) (setR [(7, 1)] stMem) (fun t => reg t 8 = 2) = true := by decide +kernel
theorem test_xlate : gives (.xlate 1 1) stCaps (fun t => (bGet (gOf t).g 1).limit = 0x1000) = true ∧ gives (.xlateLim 1 7) stCaps (fun t => reg t 7 = 0) = true ∧
    gives (.xdrop 1) stCaps (fun t => pcOf t = 0x10004) = true ∧ gives .xdropAll stCaps (fun t => (gOf t).g.b = []) = true := by decide +kernel
/-- MAP of one row at row 8 of the scratchpad and its end (R224 to R226). -/
def stMapped : State := match exec (.map 2 1 7 3) (setR [(7, 128)] stMem) with | .next t => t | _ => st
theorem test_map : stMapped.ram.maps.map (fun m => (m.pa, m.off, m.len, m.slot)) = [(0x30000, 0x400, 128, 3)] ∧ ramNat stMapped.ram (padAt 0x440) 4 = 0x87654321 ∧
    ramNat stMapped.ram (hbmLoc 0x30040) 4 = 0x87654321 := by decide +kernel
theorem test_unmap : gives (.unmap 3) stMapped (fun t => t.ram.maps = [] && ramNat t.ram (hbmLoc 0x30040) 4 = 0x87654321) = true ∧
    gives .unmapAll stMapped (fun t => t.ram.maps = []) = true ∧ gives (.unmap 2) stMapped (fun t => t.ram.maps.length = 1) = true := by decide +kernel

/-- What the form of an instruction checks of the value it stores. -/
theorem allowed_load {s s1 : State} (h : (Got.ok s () : Got Unit) = .ok s1 ()) : s1 = s := by cases h; rfl

/-- An access of the issuing split enters memory in a window. -/
theorem enters {i : Instr} {s : State} {sp : AccSpec} {a : Acc} (chk : State → List Piece → Got Unit)
    (h0 : ∀ s0 ps s1, chk s0 ps = .ok s1 () → StoreAllowed i s0 (gOf s) (xOf s) ps s1)
    (h1 : (watchTrap (gOf s) (xOf s).noWatch sp.access (xOf s).act [a]).isNone = true)
    (h2 : ((xOf s).part.isNone && !soloOn (gOf s)) = true)
    (h3 : (match resolveAcc s (gOf s) sp a with
      | .ok s0 ps => match chk s0 ps with
        | .ok s1 _ => ps.all (fun p => !p.uc) && (match grpOf s1 (gOf s).uid with
          | some g1 => (enterMem s1 g1 ps [] [] (fun _ => none) (fun s g => some (s, g))).isSome | none => false)
        | _ => false
      | _ => false) = true) :
    ∃ s1 ps s2 g2, Enters i s (gOf s) (xOf s) sp a s1 ps s2 g2 := by
  simp only [Bool.and_eq_true, Bool.not_eq_true', Option.isNone_iff_eq_none] at h1 h2
  rcases e : resolveAcc s (gOf s) sp a with ⟨s0, ps⟩ | _ | _
  · simp only [e] at h3
    rcases e0 : chk s0 ps with ⟨s1, _⟩ | _ | _
    · simp only [e0] at h3
      rcases e1 : grpOf s1 (gOf s).uid with _ | g1
      · simp [e1] at h3
      · simp only [e1, Bool.and_eq_true] at h3
        obtain ⟨⟨s2, g2⟩, hm⟩ := Option.isSome_iff_exists.1 h3.2
        exact ⟨s1, ps, s2, g2, h1, h2.1, h2.2, ⟨s0, e, h0 s0 ps s1 e0⟩, by simpa using h3.1, g1, e1, hm⟩
    all_goals simp [e0] at h3
  all_goals simp [e] at h3

/-- The next event of an access of the issuing split outside windows, k of whose bytes are done, has one place. -/
theorem next_event {i : Instr} {s : State} {sp : AccSpec} {a : Acc} (k : Nat) (chk : State → List Piece → Got Unit)
    (h0 : ∀ s0 ps s1, chk s0 ps = .ok s1 () → StoreAllowed i s0 (gOf s) (xOf s) ps s1)
    (h3 : (match resolveAcc s (gOf s) { sp with use := sp.use.at_ .whole } a with
      | .ok s2 qs => match chk s2 qs with
        | .ok s3 _ => (match resolveAcc s3 (gOf s) { sp with use := sp.use.at_ .unit, align := 1 } (a.unit sp.unit k) with
          | .ok s1 [p] => (blocked s1 (gOf s).uid (sp.access != 1) ([p].flatMap (pieceLines s1))).isNone | _ => false)
        | _ => false
      | _ => false) = true) :
    ∃ s1 p, NextEvent i s (gOf s) (xOf s) sp a k (eventBytes sp.unit a k) s1 [p] := by
  rcases e : resolveAcc s (gOf s) { sp with use := sp.use.at_ .whole } a with ⟨s2, qs⟩ | _ | _
  · simp only [e] at h3
    rcases e0 : chk s2 qs with ⟨s3, _⟩ | _ | _
    · simp only [e0] at h3
      rcases e1 : resolveAcc s3 (gOf s) { sp with use := sp.use.at_ .unit, align := 1 } (a.unit sp.unit k) with ⟨s1, ps⟩ | _ | _
      · rcases ps with _ | ⟨p, _ | ⟨q, l⟩⟩
        · simp [e1] at h3
        · simp only [e1, Option.isNone_iff_eq_none] at h3
          exact ⟨s1, p, rfl, s2, s3, qs, e, h0 s2 qs s3 e0, e1, h3⟩
        · simp [e1] at h3
      all_goals simp [e1] at h3
    all_goals simp [e0] at h3
  all_goals simp [e] at h3

/-- An access of the issuing split in SOLO mode begins with an event at one place. -/
theorem enters_direct {i : Instr} {s : State} {sp : AccSpec} {a : Acc} (chk : State → List Piece → Got Unit)
    (h0 : ∀ s0 ps s1, chk s0 ps = .ok s1 () → StoreAllowed i s0 (gOf s) (xOf s) ps s1)
    (h1 : (watchTrap (gOf s) (xOf s).noWatch sp.access (xOf s).act [a]).isNone = true)
    (h2 : ((xOf s).part.isNone && (gOf s).wins.isEmpty && soloOn (gOf s)) = true)
    (h3 : (match resolveAcc s (gOf s) { sp with use := sp.use.at_ .whole } a with
      | .ok s2 qs => match chk s2 qs with
        | .ok s3 _ => (match resolveAcc s3 (gOf s) { sp with use := sp.use.at_ .unit, align := 1 } (a.unit sp.unit 0) with
          | .ok s1 [p] => (blocked s1 (gOf s).uid (sp.access != 1) ([p].flatMap (pieceLines s1))).isNone | _ => false)
        | _ => false
      | _ => false) = true) :
    ∃ s1 p, EntersDirect i s (gOf s) (xOf s) sp a (eventBytes sp.unit a 0) s1 [p] := by
  simp only [Bool.and_eq_true, Option.isNone_iff_eq_none, List.isEmpty_iff] at h1 h2
  obtain ⟨s1, p, h⟩ := next_event 0 chk h0 h3
  exact ⟨s1, p, s, ⟨h1, h2.1.1, h2.1.2, by rw [if_pos h2.2]⟩, h⟩

/-- A load of the issuing split has its data, in its window. -/
theorem reads_window {i : Instr} {s : State} {sp : AccSpec} {a : Acc} (h0 : ∀ s0 ps s1, (Got.ok s0 () : Got Unit) = .ok s1 () → StoreAllowed i s0 (gOf s) (xOf s) ps s1)
    (h1 : (watchTrap (gOf s) (xOf s).noWatch sp.access (xOf s).act [a]).isNone = true)
    (h2 : ((xOf s).part.isNone && !soloOn (gOf s)) = true)
    (h3 : (match resolveAcc s (gOf s) sp a with
      | .ok s0 ps => ps.all (fun p => !p.uc) && (match grpOf s0 (gOf s).uid with
          | some g1 => (enterMem s0 g1 ps [] [] (fun _ => none) (fun s g => some (s, g))).isSome | none => false)
      | _ => false) = true) :
    ∃ s3 g3 part ps, ReadsAll i s (gOf s) (xOf s) sp a s3 g3 .window part ps := by
  obtain ⟨s1, ps, s2, g2, h⟩ := enters (fun s _ => .ok s ()) h0 h1 h2 h3
  exact ⟨_, g2, _, ps, .inl ⟨rfl, rfl, s1, s2, h, rfl⟩⟩

/-- The last event of a load of the issuing split outside windows, p0.done of whose bytes are done. -/
theorem reads_direct {i : Instr} {s : State} {sp : AccSpec} {a : Acc} (p0 : Part) (h0 : ∀ s0 ps s1, (Got.ok s0 () : Got Unit) = .ok s1 () → StoreAllowed i s0 (gOf s) (xOf s) ps s1)
    (h1 : (watchTrap (gOf s) (xOf s).noWatch sp.access (xOf s).act [a]).isNone = true)
    (h2 : (xOf s).part = some p0) (h4 : p0.lane = 0) (hn : a.n ≤ p0.done + eventBytes sp.unit a p0.done)
    (h3 : (match resolveAcc s (gOf s) { sp with use := sp.use.at_ .whole } a with
      | .ok s2 _ => (match resolveAcc s2 (gOf s) { sp with use := sp.use.at_ .unit, align := 1 } (a.unit sp.unit p0.done) with
          | .ok s1 [p] => (blocked s1 (gOf s).uid (sp.access != 1) ([p].flatMap (pieceLines s1))).isNone && (grpOf (setPart s1 (gOf s).uid (xOf s).idx none) (gOf s).uid).isSome | _ => false)
      | _ => false) = true) :
    ∃ s3 g3 part ps, ReadsAll i s (gOf s) (xOf s) sp a s3 g3 .direct part ps := by
  rcases e : resolveAcc s (gOf s) { sp with use := sp.use.at_ .whole } a with ⟨s2, qs⟩ | _ | _
  · simp only [e] at h3
    rcases e1 : resolveAcc s2 (gOf s) { sp with use := sp.use.at_ .unit, align := 1 } (a.unit sp.unit p0.done) with ⟨s1, ps⟩ | _ | _
    · rcases ps with _ | ⟨p, _ | ⟨q, l⟩⟩
      · simp [e1] at h3
      · simp only [e1, Bool.and_eq_true, Option.isNone_iff_eq_none] at h3
        obtain ⟨g3, hg⟩ := Option.isSome_iff_exists.1 h3.2
        exact ⟨_, g3, _, _, .inr ⟨rfl, Option.isNone_iff_eq_none.1 h1, p0, s, _, s1, [p], .inr ⟨h2, h4, rfl⟩, ⟨rfl, s2, s2, qs, e, h0 s2 qs s2 rfl, e1, h3.1⟩, rfl, hn, rfl, rfl, hg⟩⟩
      · simp [e1] at h3
    all_goals simp [e1] at h3
  all_goals simp [e] at h3

/-- A group in SOLO mode. -/
def stAlone : State := onGrp (fun g => { g with solo := some 5 }) stMem
def accSld (k : Int) : Acc := { l := 0, x := cGet (xOf stMem) 1, va := cAddr (cGet (xOf stMem) 1) + (BitVec.ofInt 14 k).toInt, n := 4, b := none }

theorem test_witness_ScalarLoadResult : ∃ sp a s1 ps s2 g2, accOf (xOf stMem) (.sld 7 1 64) = some (sp, a) ∧
    Enters (.sld 7 1 64) stMem (gOf stMem) (xOf stMem) sp a s1 ps s2 g2 := by
  obtain ⟨s1, ps, s2, g2, h⟩ := enters (i := .sld 7 1 64) (s := stMem) (sp := { need := [0], access := 1 }) (a := accSld 64) (fun s _ => .ok s ())
    (fun _ _ _ h => allowed_load h) (by decide +kernel) (by decide +kernel) (by decide +kernel)
  exact ⟨_, _, s1, ps, s2, g2, rfl, h⟩
theorem test_witness_BTest : ∃ sp a s1 ps s2 g2, accOf (xOf stMem) (.btest 2 7 8) = some (sp, a) ∧
    Enters (.btest 2 7 8) stMem (gOf stMem) (xOf stMem) sp a s1 ps s2 g2 ∧ pendingStop stMem (gOf stMem) = none := by
  obtain ⟨s1, ps, s2, g2, h⟩ := enters (i := .btest 2 7 8) (s := stMem) (sp := { need := [0], access := 1, align := 16, sp := some true, atom := 16 })
    (a := { l := 0, x := cGet (xOf stMem) 2, va := cAddr (cGet (xOf stMem) 2), n := 16, b := none }) (fun s _ => .ok s ())
    (fun _ _ _ h => allowed_load h) (by decide +kernel) (by decide +kernel) (by decide +kernel)
  exact ⟨_, _, s1, ps, s2, g2, rfl, h, Option.isNone_iff_eq_none.1 (by decide +kernel)⟩
/-- In SOLO mode an aligned word is one event, and at address 0x30041 the first event of a word is 3 bytes (R216). -/
theorem test_witness_ScalarLoadDirect : (∃ s1 p, accOf (xOf stAlone) (.sld 7 1 64) = some ({ need := [0], access := 1 }, accSld 64) ∧
    EntersDirect (.sld 7 1 64) stAlone (gOf stAlone) (xOf stAlone) { need := [0], access := 1 } (accSld 64) 4 s1 [p]) ∧
    (∃ s1 p, EntersDirect (.sld 7 1 65) stAlone (gOf stAlone) (xOf stAlone) { need := [0], access := 1 } (accSld 65) 3 s1 [p]) ∧ SplitsOk (gOf stAlone) := by
  refine ⟨?_, enters_direct (i := .sld 7 1 65) (s := stAlone) (sp := { need := [0], access := 1 }) (a := accSld 65) (fun s _ => .ok s ())
    (fun _ _ _ h => allowed_load h) (by decide +kernel) (by decide +kernel) (by decide +kernel), ?_⟩
  · obtain ⟨s1, p, h⟩ := enters_direct (i := .sld 7 1 64) (s := stAlone) (sp := { need := [0], access := 1 }) (a := accSld 64) (fun s _ => .ok s ())
      (fun _ _ _ h => allowed_load h) (by decide +kernel) (by decide +kernel) (by decide +kernel)
    exact ⟨s1, p, rfl, h⟩
  · unfold SplitsOk; decide +kernel
def accSstc : Acc := { l := 0, x := cGet (xOf stMem) 1, va := cAddr (cGet (xOf stMem) 1) + (sGet (xOf stMem) 0).toInt + 16 * (1 : BitVec 9).toInt, n := 16, b := none }
theorem test_witness_ScalarStoreResult : ∃ ops, storeOp (xOf stMem) (.sstc 1 1 0 1) = some ops ∧
    (∃ s1 ps s2 g2, Enters (.sstc 1 1 0 1) stMem (gOf stMem) (xOf stMem) { need := [1], access := 2, cap16 := true, use := .store } accSstc s1 ps s2 g2) ∧
    (∃ s1 p, EntersDirect (.sstc 1 1 0 1) stAlone (gOf stAlone) (xOf stAlone) { need := [1], access := 2, cap16 := true, use := .store } accSstc 16 s1 [p]) ∧
    SplitsOk (gOf stMem) := by
  refine ⟨_, rfl, enters (i := .sstc 1 1 0 1) (s := stMem) (sp := { need := [1], access := 2, cap16 := true, use := .store }) (a := accSstc)
    (fun s ps => storeCapCheck s (gOf stMem) (cGet (xOf stMem) 1) (cGet (xOf stMem) 1) accSstc.va ps) (fun _ _ _ h => h)
    (by decide +kernel) (by decide +kernel) (by decide +kernel), enters_direct (i := .sstc 1 1 0 1) (s := stAlone)
    (sp := { need := [1], access := 2, cap16 := true, use := .store }) (a := accSstc)
    (fun s ps => storeCapCheck s (gOf stAlone) (cGet (xOf stAlone) 1) (cGet (xOf stAlone) 1) accSstc.va ps) (fun _ _ _ h => h)
    (by decide +kernel) (by decide +kernel) (by decide +kernel), ?_⟩
  unfold SplitsOk; decide +kernel
theorem test_witness_CapabilityStoreRule : capStoreFault stMem (gOf stMem) (cGet (xOf stMem) 1) (cGet (xOf stMem) 1) [] = none ∧
    capStoreFault stMem (gOf stMem) (withPerms (area 0 64) 3) (area 0 64) [] = some (3, 4) ∧
    capStoreFault stMem (gOf stMem) (withPerms (area 0 64) 0x1F) (withPerms (area 0 64) 3) [] = some (9, 0) := by decide +kernel
/-- A faulting access, in a window and in SOLO mode; one on an uncached page in a region is in test_witness_RegionIrrevocable. -/
theorem test_witness_ScalarAccessTraps : watchTrap (gOf stMem) false 1 allLanes [accSld (-1)] = none ∧
    (match resolveAcc stMem (gOf stMem) { need := [0], access := 1 } (accSld (-1)) with | .fault _ t => decide (t.kind = 3 ∧ t.detail = 4) | _ => false) = true ∧
    soloOn (gOf stMem) = false ∧ soloOn (gOf stAlone) = true ∧ (gOf stAlone).wins.isEmpty = true ∧ (xOf stMem).part.isNone = true ∧
    (match resolveAcc stAlone (gOf stAlone) { need := [0], access := 1, use := RemoteUse.load.at_ .whole } (accSld (-1)) with
      | .fault _ t => decide (t.kind = 3 ∧ t.detail = 4) | _ => false) = true ∧
    (match resolveAcc stMem (gOf stMem) { need := [1], access := 2, cap16 := true, use := .store } { accSstc with x := withPerms (area 0x30000 0x1000) 3 } with
      | .ok s0 ps => (match storeCapCheck s0 (gOf stMem) (withPerms (area 0x30000 0x1000) 3) (area 0 64) accSstc.va ps with
        | .fault _ t => decide (t.detail = 3 ∧ t.missing = 4) | _ => false)
      | _ => false) = true :=
  ⟨Option.isNone_iff_eq_none.1 (by decide +kernel), by decide +kernel⟩
/-- WindowBuffers and StorePerformed: a group with a window, and a store whose bytes have places of their own. -/
def stWin : State := match exec (.sst 7 1 8) stMem with | .next t => t | _ => st
theorem test_witness_WindowBuffers : ∃ w older, (gOf stWin).wins = older ++ [w] := ⟨_, [], (by rfl : (gOf stWin).wins = [] ++ [(gOf stWin).wins.getD 0 default])⟩
theorem test_witness_StorePerformed : ∀ i < 4, ∀ j < 4, i < j → resolve stMem.ram (hbmLoc (0x3003E + i)) ≠ resolve stMem.ram (hbmLoc (0x3003E + j)) := by decide +kernel
theorem test_witness_TranslationRegisters : bBusy (gOf stCaps) 1 = false ∧ (∀ n < 8, bBusy (gOf stCaps) n = false) ∧ (cGet (xOf stCaps) 1).tag = true ∧
    capBase (cGet (xOf stCaps) 1) ≤ cAddr (cGet (xOf stCaps) 1) ∧ (bGet (gOf stCaps).g 1).stale = false := by decide +kernel
theorem test_witness_MapResult : check7 stMem (pcidOf stMem (gOf stMem).launch) (cGet (xOf stMem) 1) 0x30000 5 = none ∧
    ∃ s2 ps, mapPieces stMem (gOf stMem) (cGet (xOf stMem) 1) 0x30000 66 128 = .ok s2 (some ps) ∧
    checkUse (cGet (xOf stMem) 1) [11, 0, 1] 0x30000 128 5 false (some false) (gangPad stMem (gOf stMem).gang) = .ok () ∧
    checkUse (cGet (xOf stMem) 2) [0, 1] 0x400 128 5 false (some true) (gangPad stMem (gOf stMem).gang) = .ok () ∧
    cAddr (cGet (xOf stMem) 2) / 2 ^ 21 % 16 = wgIndex stMem (gOf stMem) := by
  refine ⟨Option.isNone_iff_eq_none.1 (by decide +kernel), ?_⟩
  obtain ⟨s2, ps, h⟩ := got_some (x := mapPieces stMem (gOf stMem) (cGet (xOf stMem) 1) 0x30000 66 128) (by decide +kernel)
  exact ⟨s2, ps, h, by rfl, by rfl, by decide +kernel⟩
theorem test_witness_MapKeepsContents : ∀ e ∈ stMem.ram.maps, ∀ k < 128, ¬ (e.pa ≤ 0x30000 + k ∧ 0x30000 + k < e.pa + e.len) := by decide +kernel
/-- Each check of R177 fails first for some capability, at the boundary of its bounds. -/
theorem test_witness_ChecksAtUse : let p := gangPad stMem (gOf stMem).gang
    let flt (r : Except TrapInfo Unit) (d : Nat) : Bool := match r with | .error t => t.detail = d | .ok () => d = 0
    flt (checkUse capNull [0] 0 4 1 false none p) 1 = true ∧ flt (checkUse (withOtype (area 0x30000 0x1000) 5) [0] 0x30000 4 1 false none p) 2 = true ∧
    flt (checkUse (withPerms (area 0x30000 0x1000) 2) [0, 1] 0x30000 4 1 false none p) 3 = true ∧ flt (checkUse (area 0x30000 0x1000) [0] 0x30FFD 4 1 false none p) 4 = true ∧
    flt (checkUse (area 0x30000 0x1000) [0] 0x30FFC 4 1 false none p) 0 = true ∧ flt (checkUse (area 0x30000 0x1000) [0] 0x30008 16 1 true none p) 10 = true ∧
    flt (checkUse (area 0x30000 0x1000) [0] 0x30000 16 1 false (some true) p) 4 = true ∧ flt (checkUse (pad 0x400 0x1000) [0] 0x400 16 1 false (some true) p) 0 = true := by decide +kernel
/-! Cache instructions (R67, R228 to R230). -/

/-- A line of memory that differs from what its home still holds. -/
def stDirty : State := { stMem with dirty := [(0x30000 / 128, [{ data := List.replicate 128 7, tags := List.replicate 8 false }])] }

theorem test_cflush : gives (.cflush 1 7 false) (setR [(7, 128)] stDirty) (fun t => t.dirty = [] && ramNat t.ram (hbmLoc 0x30040) 4 = 0x87654321) = true ∧
    gives (.cflush 1 7 true) (setR [(7, 0x1001)] stDirty) (trapped 3 4) = true := by decide +kernel
theorem test_cinv : gives (.cinv 1 7) (setR [(7, 128)] { stMem with codeCache := [(codeKey 0 65535 0x30000, 5)] }) (fun t => t.codeCache = []) = true := by decide +kernel
/-- CDISCARD acts on the lines that lie wholly in the range (R229). -/
theorem test_cdiscard : gives (.cdiscard 1 7) (setR [(7, 64)] stDirty) (fun t => t.dirty.length = 1 && pcOf t = 0x10004) = true := by decide +kernel
theorem test_cpin : gives (.cpin 1 7) (setR [(7, 129)] stMem) (fun t => reg t 7 = 256 && t.pins.length = 2) = true ∧
    gives (.cunpin 1 7) (setR [(7, 129)] stMem) (fun t => t.pins = [] && pcOf t = 0x10004) = true := by decide +kernel
theorem test_pref : gives (.pref 0 7 true) (setR [(7, 128)] st) (fun t => pcOf t = 0x10004) = true ∧ gives (.cflush 0 0 false) st (fun t => pcOf t = 0x10004) = true := by decide +kernel

/-- The hypotheses of a cache instruction over a range. -/
theorem ranged {s : State} {c : Cap} {len : Nat} {need : List Nat} {kind : ChkKind} (h0 : len ≠ 0)
    (h1 : (match checkUse c need (cAddr c) len (chkAccess kind) false (some false) (fun _ => none) with | .ok () => true | _ => false) = true)
    (h2 : (match pagesOf s (agtOf s (gOf s)) c (cAddr c) (chkAccess kind) (len / 4096 + 2) len with
      | .ok s0 ps => isOk (piecesCheck s0 { cap := c, stated := 0 } (agtOf s (gOf s)) (chkAccess kind) kind (ps.filter fun p => match p.1 with | .there _ _ => true | .here _ _ => false))
      | _ => false) = true) : ∃ s1 ps, Ranged s (gOf s) c len need kind s1 ps := by
  unfold Ranged
  split at h2
  · rename_i s0 ps e
    obtain ⟨s2, u, hu⟩ := got_ok h2
    refine ⟨s2, ps, h0, ?_, s0, e, hu⟩
    split at h1
    · assumption
    · exact absurd h1 (by simp)
  · exact absurd h2 (by simp)

/-- The instructions that read, that write, and CINV with EXEC alone. -/
theorem test_witness_FlushAndUnpin : ∃ s1 ps, Ranged stMem (gOf stMem) (cGet (xOf stMem) 1) 129 [0] .read s1 ps :=
  ranged (by decide) (by decide +kernel) (by decide +kernel)
theorem test_witness_CodeInvalidate : ∃ s1 ps, Ranged stMem (gOf stMem) (withPerms (area 0x30000 0x1000) 4) 128 [2] .fetch s1 ps :=
  ranged (by decide) (by decide +kernel) (by decide +kernel)
theorem test_witness_DiscardResult : NoRegion (gOf stMem) ∧ (∃ s1 g1 x1, Settles stMem (gOf stMem) (xOf stMem) s1 g1 x1) ∧
    (∃ s1 ps, Ranged stMem (gOf stMem) (cGet (xOf stMem) 1) 128 [1] .write s1 ps) ∧
    (blocked stMem (gOf stMem).uid true ([hbmLoc 0x30000].flatMap fun l => linesOf stMem.ram l 128)).isNone = true :=
  ⟨.inl (by decide +kernel), settles (by decide +kernel), ranged (by decide) (by decide +kernel) (by decide +kernel), by decide +kernel⟩
/-- The lines of a range of this node are local. -/
theorem test_witness_PinResult : ∃ s1 ps, Ranged stMem (gOf stMem) (cGet (xOf stMem) 1) 128 [0] .read s1 ps ∧ ∀ l ∈ rangeLines ps, Local l := by
  have h : (match pagesOf stMem (agtOf stMem (gOf stMem)) (cGet (xOf stMem) 1) 0x30000 1 2 128 with
    | .ok s0 ps => isOk (piecesCheck s0 { cap := cGet (xOf stMem) 1, stated := 0 } (agtOf stMem (gOf stMem)) 1 .read (ps.filter fun p => match p.1 with | .there _ _ => true | .here _ _ => false)) &&
        (rangeLines ps).all fun l => match l.sp with | .remote _ => false | _ => true
    | _ => false) = true := by decide +kernel
  split at h
  · rename_i s0 ps e
    simp only [Bool.and_eq_true, List.all_eq_true] at h
    obtain ⟨s2, u, hu⟩ := got_ok h.1
    refine ⟨s2, ps, ⟨by decide, by rfl, s0, e, hu⟩, fun l hl n hn => ?_⟩
    have := h.2 l hl
    rw [hn] at this
    exact absurd this (by simp)
  · exact absurd h (by simp)
theorem test_witness_PrefetchAndEmptyRange : cacheRegs (.cunpin 1 7) = some (1, 7) ∧ sGet (xOf st) 7 = 0 := ⟨rfl, by decide +kernel⟩
theorem test_witness_DiscardedLine : (∀ e ∈ stDirty.ram.maps, ∀ k < 128, ¬ (e.pa ≤ 0x30000 + k ∧ 0x30000 + k < e.pa + e.len)) ∧
    ∀ i ∈ aget [] stDirty.dirty (0x30000 / 128), ImgOk i := by unfold ImgOk; decide +kernel

/-! Ordering and engine status (R255 to R257, R331, R346, R366). -/

theorem test_commit : gives .commit stWin (fun t => (gOf t).wins = [] && ramNat t.ram (hbmLoc 0x30008) 4 = reg t 7) = true ∧
    gives .commitClose stWin (fun t => (gOf t).wins.map (·.closed) = [true]) = true := by decide +kernel
/-- SOLO counts as the first instruction of its mode; 0 stands for 256 (R257). -/
theorem test_solo : gives (.solo 0) st (fun t => (gOf t).solo = some 255) = true ∧ gives (.solo 7) (setR [(7, 70000)] st) (fun t => (gOf t).solo = some 65534) = true := by decide +kernel
theorem test_solo_get : gives (.soloGet 7) st (fun t => reg t 7 = 0) = true ∧ gives .soloEnd st (fun t => (gOf t).solo = none) = true := by decide +kernel

/-- A shape record at 0x800 of the scratchpad: one dimension of four .b32 elements of six, from element 0 (R334). -/
def shapeBytes : List Byte := leBytes 1 1 ++ leBytes 1 9 ++ leBytes 1 9 ++ leBytes 1 0 ++ leBytes 4 0 ++ leBytes 28 4 ++ leBytes 28 6 ++ List.replicate 64 0
/-- c5 the copy capability, c6 the global one; the row at 0x400, the barrier at 0x480. -/
def stCopy : State :=
  let s := setR [(8, 0x400), (9, 0x480), (10, 0), (11, 1)] (setC [(1, area 0x30000 0x1000), (5, pad 0x800 0x800), (6, area 0x30000 0x1000), (7, area 0x31000 0x1000),
    (8, withAddr (pad 0 0x4000) 0x800)] st)
  { s with ram := ramWrite s.ram (padAt 0x800) 0 shapeBytes }
theorem test_tcopy : gives (.tcopy 6 8 8 false false) stCopy (fun t => pcOf t = 0x10004 && (bufOf (gOf t)).length = 1) = true ∧
    gives (.tcopy 6 5 8 false false) stCopy (trapped 3 4) = true := by decide +kernel
/-- In SOLO mode the operation is issued at once with ticket 1 (R331). -/
def stSolo : State := onGrp (fun g => { g with solo := some 9 }) stCopy
/-- In SOLO mode, with all but the last four of the n + 4 bytes of the record read. -/
def stLast (n : Nat) : State := onSplit (fun x => { x with part := some { lane := 0, got := [(padAt 0x800, shapeBytes.take n, false)], done := n } }) stSolo
theorem test_tcopy_solo : gives (.tcopy 6 8 8 false false) (stLast 124) (fun t => t.tces.map (fun o => (o.ticket, o.row, o.bar, o.shape.ext)) = [(1, 0x400, 0x480, [4])]) = true ∧
    gives (.tcopy 6 8 8 false false) stSolo (fun t => t.tces = [] && (xOf t).part.any fun p => p.done = 4) = true := by decide +kernel
/-- The operations and the lists that a group has buffered. -/
def bufTce (t : State) : List TceOp := (bufOf (gOf t)).filterMap fun o => match o with | .tce o => some o | _ => none
def bufCe (t : State) : List CeList := (bufOf (gOf t)).filterMap fun o => match o with | .ce l => some l | _ => none
theorem test_tstore : gives (.tstore 6 8 8 true false) stCopy (fun t => (bufTce t).map (fun o => (o.kind, o.nobar)) = [(.store, true)]) = true := by decide +kernel
theorem test_tcopyG : gives (.tcopyG 6 8 10 true false) stCopy (fun t => (bufTce t).map (fun o => o.kind) = [.copyG]) = true ∧
    gives (.treduce 6 8 8 2 true false) stCopy (trapped 3 16) = true ∧ gives (.tmcast 6 8 8 false false) stCopy (fun t => (bufTce t).map (·.recv) = [1]) = true := by decide +kernel
theorem test_tstat : gives (.tstat 7) stSolo (fun t => reg t 7 = 0) = true ∧ gives (.tstatDone 7 0) stSolo (fun t => reg t 7 = 1) = true ∧
    gives .tstatDrop stSolo (fun t => pcOf t = 0x10004) = true := by decide +kernel
theorem test_cestat : gives (.cestat 7) stSolo (fun t => reg t 7 = 0) = true ∧ gives (.cestatDone 7 0) stSolo (fun t => reg t 7 = 1) = true ∧
    gives .cestatDrop stSolo (fun t => pcOf t = 0x10004) = true := by decide +kernel
/-- A list's counter starts behind its slots, and n0, n1 are the registers (R351). -/
theorem test_celaunch : gives (.celaunch 8 1 9 true 15) stCopy (fun t => (bufCe t).map (fun l => (l.die, l.engine)) = [(1, 15)] && (bufCe t).all (fun l => l.pc = 0x30080 && l.n.take 3 = [0x480, 0, 0] && l.owner.isSome)) = true ∧
    gives (.celaunchDetach 8 1 9 false 0) stCopy (fun t => (bufCe t).map (fun l => l.owner) = [none]) = true := by decide +kernel

theorem test_witness_OrderingAndDrop : ∃ s1 g1 x1, Settles stWin (gOf stWin) (xOf stWin) s1 g1 x1 ∧ pendingStop stWin (gOf stWin) = none := by
  obtain ⟨a, b, c, h⟩ := settles (s := stWin) (by decide +kernel)
  exact ⟨a, b, c, h, Option.isNone_iff_eq_none.1 (by decide +kernel)⟩
theorem test_witness_Done : (∃ v, doneRule [] v) ∧ (∃ v, doneRule [.queued] v) ∧ ∃ v, doneRule [.error, .ended] v :=
  ⟨⟨1, .inr (.inr ⟨rfl, by simp, by simp⟩)⟩, ⟨0, .inl ⟨rfl, .queued, by simp, by simp⟩⟩, ⟨2, .inr (.inl ⟨rfl, by simp, by simp⟩)⟩⟩
theorem test_witness_TensorCopyIssued : Whole (gOf stCopy) (xOf stCopy) ∧ tceForm (.tcopy 6 8 8 false false) = some (.copy, 6, 8, 8, false) ∧
    (match checkUse (cGet (xOf stCopy) 8) [0, 1, 10, 12] 0x800 128 6 false (some true) (gangPad stCopy (gOf stCopy).gang) with | .ok () => true | _ => false) = true ∧
    (∃ h, parseShape .copy shapeBytes = some h) ∧ (globCheck (cGet (xOf stCopy) 6) [0]).isNone = true ∧ tceQueued stSolo 0 < 64 ∧
    (∃ s3 g3 part ps, ReadsAll (.tcopy 6 8 8 false false) stCopy (gOf stCopy) (xOf stCopy) { need := [], access := 1, sp := some true }
      { l := 0, x := cGet (xOf stCopy) 8, va := cAddr (cGet (xOf stCopy) 8), n := 128, b := none } s3 g3 .window part ps) ∧
    ∃ s3 g3 part ps, ReadsAll (.tcopy 6 8 8 false false) (stLast 124) (gOf (stLast 124)) (xOf (stLast 124)) { need := [], access := 1, sp := some true }
      { l := 0, x := cGet (xOf (stLast 124)) 8, va := cAddr (cGet (xOf (stLast 124)) 8), n := 128, b := none } s3 g3 .direct part ps :=
  ⟨⟨by rfl, by decide +kernel, by rfl⟩, rfl, by decide +kernel, ⟨_, rfl⟩, by decide +kernel, by decide +kernel,
    reads_window (fun _ _ _ h => allowed_load h) (by decide +kernel) (by decide +kernel) (by decide +kernel),
    reads_direct _ (fun _ _ _ h => allowed_load h) (by decide +kernel) rfl rfl (by decide +kernel) (by decide +kernel)⟩
theorem test_witness_ListIssued : Whole (gOf stCopy) (xOf stCopy) ∧ ceForm (.celaunch 8 1 9 true 15) = some (8, 1, 9, true, 15, false) ∧ ceQueued stSolo 1 15 < 16 ∧
    (match checkUse (cGet (xOf stCopy) 1) [0, 12] 0x30000 128 6 false none (gangPad stCopy (gOf stCopy).gang) with | .ok () => true | _ => false) = true ∧
    (∃ s3 g3 part ps, ReadsAll (.celaunch 8 1 9 true 15) stCopy (gOf stCopy) (xOf stCopy) { need := [0, 12], access := 1, caps := true }
      { l := 0, x := cGet (xOf stCopy) 1, va := cAddr (cGet (xOf stCopy) 1), n := 128, b := none } s3 g3 .window part ps) ∧
    ∃ s3 g3 part ps, ReadsAll (.celaunch 8 1 9 true 15) (stLast 112) (gOf (stLast 112)) (xOf (stLast 112)) { need := [0, 12], access := 1, caps := true }
      { l := 0, x := cGet (xOf (stLast 112)) 1, va := cAddr (cGet (xOf (stLast 112)) 1), n := 128, b := none } s3 g3 .direct part ps :=
  ⟨⟨by rfl, by decide +kernel, by rfl⟩, rfl, by decide +kernel, by decide +kernel,
    reads_window (fun _ _ _ h => allowed_load h) (by decide +kernel) (by decide +kernel) (by decide +kernel),
    reads_direct _ (fun _ _ _ h => allowed_load h) (by decide +kernel) rfl rfl (by decide +kernel) (by decide +kernel)⟩

/-! Waits, tasks and launches (R285 to R288, R296 to R299, R404). -/

/-- The object at 0x400 is in phase 1: a wait for the end of phase 0 is over, one for phase 1 parks (R286). -/
theorem test_waitph : gives (.waitph 2 0 8) (setR [(8, 9)] stMem) (fun t => reg t 8 = 0 && pcOf t = 0x10004) = true ∧
    gives (.waitph 2 7 8) (setR [(7, 1)] stMem) (fun t => (xOf t).st = .waitph (padAt 0x400) 1 8 none) = true := by decide +kernel
theorem test_waitphy : gives (.waitphy 9 2 0 8) (setC [(9, root 0x4000)] stMem) (fun t => reg t 8 = 0 && pcOf t = 0x4000) = true ∧ gives (.waitphy 9 2 0 8) stMem (trapped 3 1) = true := by decide +kernel

/-- A continuation record at 0x30400: code, no parent, join 1 and shelf 3 (R296), with shelf 3 serving the context. -/
def stTask (join : Nat) (room : Word) : State :=
  let s := setC [(1, withAddr (area 0x30000 0x1000) 0x30400)] stMem
  let r := ramWriteCap (ramWriteCap s.ram (hbmLoc 0x30400) (root 0x5000)) (hbmLoc 0x30410) (area 0x30800 64)
  let r1 := ramWrite r (hbmLoc 0x30430) 0 (leBytes 4 join ++ leBytes 4 0 ++ [63, 3, 0, 0] ++ leBytes 4 77)
  { s with ram := r1, chip := { s.chip with shelves := [(3, { shelfNone with cap := room, pcid := 65535, flags := 1 })] } }
theorem test_spawn : gives (.spawn 1) (stTask 1 8) (fun t => (bufOf (gOf t)).length = 1 && pcOf t = 0x10004) = true ∧ gives (.spawn 1) stMem (trapped 3 15) = true := by decide +kernel
theorem test_joindec : gives (.joindec 1 8) (stTask 3 8) (fun t => reg t 8 = 2 && ramNat t.ram (hbmLoc 0x30430) 4 = 2) = true ∧
    gives (.joindec 1 8) (stTask 1 8) (fun t => reg t 8 = 0 && (shelfOf t 3).recs.length = 1 && ramNat t.ram (hbmLoc 0x30430) 4 = 0) = true ∧
    gives (.joindec 1 8) (stTask 0 8) (fun t => reg t 8 = 0xFFFFFFFF) = true := by decide +kernel
/-- A device-fed queue with a ring of 16 entries (R378, R404). -/
def stRing : State :=
  let q : Que := { queNone with base := 0x38000, ctl := BitVec.ofNat 32 (65535 * 65536 + 0x184), stat := 1, root := rootCap 0x7FFF }
  setR [(6, 5)] (setQue stMem 5 q)
theorem test_launch : gives (.launch 1 6) stRing (fun t => (bufOf (gOf t)).length = 1 && pcOf t = 0x10004) = true ∧ gives (.launch 1 0) stRing (trapped 3 18) = true := by decide +kernel
theorem test_witness_LaunchResult : ∃ s0 page, launchEntry stRing (gOf stRing) (cGet (xOf stRing) 1) 5 = .ok s0 page ∧ cAddr (cGet (xOf stRing) 1) % 32 = 0 ∧ SplitsOk (gOf stRing) ∧
    ∃ s3 g3 part ps, ReadsAll (.launch 1 6) stRing (gOf stRing) (xOf stRing) { need := [0], access := 1, align := 32 }
      { l := 0, x := cGet (xOf stRing) 1, va := cAddr (cGet (xOf stRing) 1), n := 32, b := none } s3 g3 .window part ps := by
  obtain ⟨s0, page, h⟩ := got_ok (x := launchEntry stRing (gOf stRing) (cGet (xOf stRing) 1) 5) (by decide +kernel)
  refine ⟨s0, page, h, by decide +kernel, by unfold SplitsOk; decide +kernel, reads_window (fun _ _ _ h => allowed_load h) (by decide +kernel) (by decide +kernel) (by decide +kernel)⟩

theorem test_witness_WaitResult : waitForm (.waitph 2 0 8) = some (2, 0, 8, none) ∧ (match waitObj stMem (gOf stMem) (cGet (xOf stMem) 2) with | .ok l => decide (l = padAt 0x400) | _ => false) = true ∧
    (∃ s1 g1 x1, Settles stMem (gOf stMem) (xOf stMem) s1 g1 x1) ∧ heldLine stMem (gOf stMem).uid false (linesOf stMem.ram (padAt 0x400) 16) = false ∧
    testPhase (barFields (ramRead stMem.ram (padAt 0x400) 16)) 0 = 0 ∧ testPhase (barFields (ramRead stMem.ram (padAt 0x400) 16)) 1 = 2 ∧ stMem.proxies = [] ∧
    waitForm (.waitphy 9 2 0 8) = some (2, 0, 8, some 9) ∧ (jumpFault (root 0x4000) (cAddr (root 0x4000)) false).isNone = true ∧
    ((gOf stMem).g.splits.map (·.idx) = [(xOf stMem).idx] ∧ (gOf stMem).g.compact.isNone = true ∧ lentSlot stMem (gOf stMem) = false) ∧
    (saveSlot { stMem with chip := { stMem.chip with saveCount := 2 } }).isSome = true :=
  ⟨rfl, by decide +kernel, settles (by decide +kernel), by decide +kernel, by decide +kernel, by decide +kernel, rfl, rfl, by decide +kernel, by decide +kernel, by decide +kernel⟩
/-- JOINDEC finds its record, not watched; a record is malformed (R296). -/
theorem test_witness_JoinDecrement : (∃ s1 g1 x1, Settles (stTask 1 8) (gOf (stTask 1 8)) (xOf (stTask 1 8)) s1 g1 x1) ∧
    (watchTrap (gOf (stTask 1 8)) (xOf (stTask 1 8)).noWatch 3 (xOf (stTask 1 8)).act [{ l := 0, x := cGet (xOf (stTask 1 8)) 1, va := 0x30400, n := 64, b := none }]).isNone = true ∧
    (match resolveAcc (stTask 1 8) (gOf (stTask 1 8)) { need := [10, 0, 1], access := 3, align := 64, caps := true, use := .loadDirect }
      { l := 0, x := cGet (xOf (stTask 1 8)) 1, va := 0x30400, n := 64, b := none } with
      | .ok s2 (p :: _) => decide (p.loc = hbmLoc 0x30400) && (blocked s2 (gOf (stTask 1 8)).uid true (pieceLines s2 p)).isNone | _ => false) = true ∧
    shelfServes (stTask 1 8) 3 (pcidOf (stTask 1 8) (gOf (stTask 1 8)).launch) = true ∧ shelfFull (stTask 1 8) 3 = false :=
  ⟨settles (by decide +kernel), by decide +kernel, by decide +kernel, by decide +kernel, by decide +kernel⟩
theorem test_witness_SpawnResult : shelfServes (stTask 1 8) 3 (pcidOf (stTask 1 8) (gOf (stTask 1 8)).launch) = true ∧ shelfFull (stTask 1 8) 3 = false ∧ SplitsOk (gOf (stTask 1 8)) ∧
    ∃ s3 g3 part ps s4 r, ReadsAll (.spawn 1) (stTask 1 8) (gOf (stTask 1 8)) (xOf (stTask 1 8)) { need := [0], access := 1, align := 64, caps := true }
      { l := 0, x := cGet (xOf (stTask 1 8)) 1, va := cAddr (cGet (xOf (stTask 1 8)) 1), n := 64, b := none } s3 g3 .window part ps ∧
      readRecord s3 g3 .window part (cGet (xOf (stTask 1 8)) 1) ps = (s4, r) := by
  refine ⟨by decide +kernel, by decide +kernel, by unfold SplitsOk; decide +kernel, ?_⟩
  obtain ⟨s3, g3, part, ps, h⟩ := reads_window (i := .spawn 1) (s := stTask 1 8) (sp := { need := [0], access := 1, align := 64, caps := true })
    (a := { l := 0, x := cGet (xOf (stTask 1 8)) 1, va := cAddr (cGet (xOf (stTask 1 8)) 1), n := 64, b := none }) (fun _ _ _ h => allowed_load h)
    (by decide +kernel) (by decide +kernel) (by decide +kernel)
  exact ⟨s3, g3, part, ps, _, _, h, rfl⟩

/-! Traps and returns (R409 to R417, R421, R429). -/

/-- The group in slot 0 in its handler after TRAP 7. -/
def stIn : State := match exec (.trap 7) st with | .next t => scalar t | _ => st

theorem test_trap : trapped 13 0 stIn = true ∧ (gOf stIn).frec.getD 16 0 = 7 ∧ reg stIn 1 = 13 ∧ (gOf stIn).frec.getD 19 0 = 0x10000 := by decide +kernel
/-- A return from TRAP goes on at the next word; the second form keeps s1 (R415). -/
theorem test_tret : gives (.tret false) stIn (fun t => pcOf t = 0x10004 && reg t 1 = 0 && (gOf t).frame = none) = true ∧
    gives (.tret true) (setR [(1, 9)] stIn) (fun t => pcOf t = 0x10004 && reg t 1 = 9) = true ∧ gives (.tret false) st (fun t => t.gangs.map (·.st) = [.discarded]) = true := by decide +kernel
/-- After a capability fault TRET goes back to the word that failed, TRET.skip to the next. -/
def stFault : State := match exec (.sld 7 1 (-1)) stMem with | .next t => scalar t | _ => st
theorem test_tret_skip : gives (.tret false) stFault (fun t => pcOf t = 0x10000) = true ∧ gives (.tretSkip false) stFault (fun t => pcOf t = 0x10004) = true := by decide +kernel
theorem test_frec : gives (.frec 7 10) stFault (fun t => reg t 7 = 0x2FFFF) = true ∧ gives (.frecCap 6) stFault (fun t => cGet (xOf t) 6 = area 0x30000 0x1000) = true ∧
    gives (.frec 7 0) st (fun t => t.gangs.map (·.st) = [.discarded]) = true := by decide +kernel
theorem test_idemb : gives (.idemb 7) (setR [(7, 1)] st) (fun t => (gOf t).region.any fun r => r.kept = 1 && cAddr r.pcc = 0x10004) = true ∧
    gives (.idemb 7) (stTwo 0x9000 false) (trapped 11 0) = true ∧ gives .ideme (onGrp (fun g => { g with region := some default }) st) (fun t => (gOf t).region = none) = true := by decide +kernel
theorem test_prmpt : gives (.prmpt 7) st (fun t => reg t 7 = 0) = true ∧
    gives .prmptNow { st with chip := { st.chip with saveCount := 2 } } (fun t => t.gangs.map (·.st) = [.saving] && t.saveUsed = [0]) = true ∧
    gives .prmptNow st (fun t => t.gangs.map (·.st) = [.placed] && t.saveUsed = []) = true := by decide +kernel
theorem test_bad_word : gives (.illegalScalarWord 0xFE000000 1) st (trapped 1 1) = true ∧ gives (.scalarFetchFault 4 1 0x5000 false) st (trapped 4 1) = true := by decide +kernel

/-- A pool of one 16 GiB frame, for the page that begins at 16 GiB, whose entry has FT set (R419, R420). -/
def stPool (taken : Nat) : State :=
  let s := setC [(1, area (2 ^ 34) (2 ^ 34))] st
  let r := ramWrite s.ram (hbmLoc 0x40000) 0 (leBytes 8 0x41000 ++ leBytes 4 1 ++ leBytes 4 taken ++ leBytes 8 0x1F0 ++ [6])
  let r1 := ramWrite (ramWrite r (hbmLoc 0x41000) 0 (leBytes 8 (2 ^ 34))) (hbmLoc 0x20008) 0 (leBytes 8 (2 ^ 62))
  { s with ram := r1, ctxs := s.ctxs.map fun e => (e.1, { e.2 with pool := 0x40000 }) }
theorem test_pgmap : gives (.pgmap 1 7) (stPool 0) (fun t => reg t 7 = 0 && ramNat t.ram (hbmLoc 0x20008) 8 = 0x4000001F3 && ramNat t.ram (hbmLoc 0x4000C) 4 = 1) = true ∧
    gives (.pgmap 1 7) (stPool 1) (fun t => reg t 7 = 2 && ramNat t.ram (hbmLoc 0x20008) 8 = 2 ^ 62) = true ∧ gives (.pgmap 1 7) st (trapped 4 11) = true := by decide +kernel

theorem test_witness_TrapInstructions : (∃ t, Runs st (gOf st) (xOf st) ∧ trapping (xOf st) (.trap 7) = some t) ∧ ∃ t, trapping (xOf st) (.illegalScalarWord 0 1) = some t :=
  ⟨⟨_, runs_st, rfl⟩, _, rfl⟩
/-- The premises of TrapEntry and TrapUnhandled, without and with a handler. -/
theorem test_witness_Trap : commitAll st (gOf st).uid = (st, .done) ∧ grpOf st (gOf st).uid = some (gOf st) ∧ (gOf st).g.split (xOf st).idx = some (xOf st) ∧ (gOf st).frame = none ∧
    (∃ l, lnchBy st (gOf st).launch = some l ∧ l.hPcc.tag = true) ∧ (gOf st).task = false ∧ (gOf stIn).frame ≠ none ∧ ∃ y, gangBy st (gOf st).gang = some y :=
  ⟨rfl, by rfl, by rfl, by rfl, ⟨_, rfl, by decide +kernel⟩, by decide +kernel, by decide +kernel, _, rfl⟩
theorem test_unhandled : (takeTrap stIn (gOf stIn).uid 0 { kind := 1, detail := 2 } { lane := false, engine := false, matrix := false, op := 0, w1 := 0, w2 := 0, w3 := 0, pc := 0, ix := 0 }).gangs.map (·.st) = [.discarded] := by
  decide +kernel
theorem test_witness_TrapReturn : Runs stIn (gOf stIn) (xOf stIn) ∧ (∃ s1 g1 x1, Settles stIn (gOf stIn) (xOf stIn) s1 g1 x1) ∧ (gOf stIn).frame ≠ none ∧
    (∀ y ∈ (gOf stIn).g.splits, y.idx ≠ (xOf stIn).idx → y.st = .handler) ∧ SplitsOk (gOf stIn) ∧
    ∃ f, (gOf stIn).frame = some f ∧ f.split = (xOf stIn).idx ∧ (f.parked.map (·.1)).Nodup ∧ f.engine = false ∧ f.matrix = false := by
  refine ⟨runs (by decide +kernel), settles (by decide +kernel), by decide +kernel, by decide +kernel, ?_, _, rfl, by decide +kernel, by decide +kernel, by decide +kernel, by decide +kernel⟩
  unfold SplitsOk; decide +kernel
theorem test_witness_HandlerAndRegion : (∃ p, handlerForm stIn (gOf stIn) (xOf stIn) (.frec 7 21) = some p) ∧ (∃ p, handlerForm st (gOf st) (xOf st) (.idemb 7) = some p) ∧
    (Instr.frec 7 21).wf = true ∧ ∃ s1 g1 x1, Settles stIn (gOf stIn) (xOf stIn) s1 g1 x1 :=
  ⟨⟨_, rfl⟩, ⟨_, rfl⟩, by decide, settles (by decide +kernel)⟩
theorem test_witness_GangSave : ∃ y, gangBy st (gOf st).gang = some y ∧ gangBy st y.uid = some y ∧ y.st = .placed ∧ (∀ g ∈ st.grps, g.gang = y.uid → g.saved = false) ∧
    (st.grps.map (·.uid)).Nodup ∧ takeSlots st y.wgs = none ∧
    ∃ s1, takeSlots { st with chip := { st.chip with saveCount := 2 } } y.wgs = some s1 ∧ mayDiscard s1 y = false := by
  refine ⟨_, rfl, by rfl, by decide +kernel, by decide +kernel, by decide +kernel, by rfl, _, rfl, by decide +kernel⟩
theorem test_witness_PageMapped (n : Nat) (h : n = 0 ∨ n = 1) : ∃ p b es, pgmapCheck (stPool n) (pcidOf (stPool n) (gOf (stPool n)).launch) (cGet (xOf (stPool n)) 1) = .ok (p, b, es) ∧
    (blocked (stPool n) (gOf (stPool n)).uid true ((0x40000 :: es).map fun e => lineOf (hbmLoc e))).isNone = true ∧ rangeBlocked (stPool n) (gOf (stPool n)).uid (2 ^ 34) (2 ^ 34) = false ∧ (∃ e ∈ es, ramNat (stPool n).ram (hbmLoc e) 8 % 2 ≠ 1) ∧
    (p.taken = p.count ↔ n = 1) ∧ ∃ s1 g1 x1, Settles (stPool n) (gOf (stPool n)) (xOf (stPool n)) s1 g1 x1 := by
  rcases h with rfl | rfl
  all_goals exact ⟨_, _, _, rfl, by decide +kernel, by decide +kernel, by decide +kernel, by decide +kernel, settles (by decide +kernel)⟩

/-! System registers and the chip (R431 to R434, R455 to R468). -/

theorem test_sysrd : gives (.sysrd 7 0x33) st (fun t => reg t 7 = st.chip.pslack) = true ∧ gives (.sysrd 7 0x101) { st with arm := { st.arm with life := [(1, 6)] } } (fun t => reg t 7 = 6) = true ∧
    gives (.sysrd 7 0x30) (onSplit (fun x => { x with pcc := withPerms x.pcc 0x7EFF }) st) (trapped 3 3) = true := by decide +kernel
theorem test_syswr : gives (.syswr 7 0x32) (setR [(7, 4097)] st) (fun t => t.chip.saveCount = 4096) = true ∧
    gives (.syswr 7 0x40) (setR [(7, 0xFFFFFFFF)] st) (fun t => aget 0 (gOf t).watch 0 = 0xFFFFFFC7) = true := by decide +kernel
theorem test_moncfg : gives (.moncfg 6 7 8) (setR [(7, 127), (8, 0x20001)] st) (fun t => reg t 6 = 1 && (monOf t 127).cfg = 0x20001 && (monOf t 127).least = 0xFFFFFFFF) = true ∧
    gives (.moncfg 6 7 8) (setR [(7, 128), (8, 1)] st) (fun t => reg t 6 = 0) = true := by decide +kernel
theorem test_monrd : gives (.monrd 6 7 1) (setR [(7, 3)] { st with chip := { st.chip with monitors := [(3, { cfg := 1, samples := 2, least := 11, most := 12, bins := [(5, 9)] })] } }) (fun t => reg t 6 = 11) = true ∧
    gives (.monrd 6 7 9) (setR [(7, 3)] { st with chip := { st.chip with monitors := [(3, { cfg := 1, samples := 2, least := 11, most := 12, bins := [(5, 9)] })] } }) (fun t => reg t 6 = 9) = true := by decide +kernel
theorem test_pclear : gives (.pclear 6 7) (setR [(7, 3)] st) (fun t => reg t 6 = 0 && aget false t.clearing 3) = true ∧ gives (.pclear 6 7) (setR [(7, 18)] st) (fun t => reg t 6 = 4) = true ∧
    gives (.pclear 6 7) st (fun t => reg t 6 = 2) = true := by decide +kernel
theorem test_scrub0 : gives (.scrub 1 7) (setR [(7, 4096)] stMem) (fun t => reg t 7 = 4096) = true := by decide +kernel
theorem test_fabcfg : gives (.fabcfgEp 1 7) stMem (fun t => reg t 7 = 0 && !(aget epNone t.fab.endpoints 0).valid) = true ∧
    gives (.fabcfgRegion 1 7) stMem (fun t => reg t 7 = 0) = true := by decide +kernel
/-- A block with a reserved byte set answers 1 and changes nothing (R467). -/
def stBlock (bytes : List Byte) : State := { stMem with ram := ramWrite stMem.ram (hbmLoc 0x30000) 0 bytes }
theorem test_fabcfg_bad : gives (.fabcfgPlane 1 7) (stBlock [32]) (fun t => reg t 7 = 1 && t.fab = st.fab) = true ∧ gives (.fabcfgMcast 1 7) (stBlock [0, 2]) (fun t => reg t 7 = 1) = true ∧
    gives (.fabcfgEp 1 7) (stBlock [0, 4]) (fun t => reg t 7 = 1) = true := by decide +kernel
theorem test_attest : gives (.attest 1 1 7) stMem (fun t => (xOf t).st = .attest 1 1 7) = true ∧ gives (.attest 1 1 7) (setC [(1, withAddr (area 0x30000 0x1000) 0x30004)] stMem) (trapped 3 13) = true := by decide +kernel
theorem test_scrub : gives (.scrub 1 7) (setR [(7, 64)] stMem) (trapped 3 13) = true := by decide +kernel

theorem test_witness_PrivilegeChecked : privileged (.syswr 7 0x33) ∧ (∃ s1 g1 x1, Settles st (gOf st) (xOf st) s1 g1 x1) ∧ NoRegion (gOf st) ∧ cHas (withPerms (xOf st).pcc 0x7EFF) 8 = false ∧
    ¬ Assigned 0x13 ∧ ¬ Assigned 0x34 ∧ ¬ Assigned 0x56 ∧ ¬ Assigned 0x108 ∧ ¬ Assigned 0x224 := by
  refine ⟨?_, settles (by decide +kernel), .inl (by decide +kernel), by decide +kernel, ?_⟩
  · unfold privileged Assigned; decide
  · unfold Assigned
    refine ⟨?_, ?_, ?_, ?_, ?_⟩ <;> omega
/-- The boundary configurations of MONCFG, and SYS in the PCC. -/
theorem test_witness_SystemRegisterResult : Assigned 0x51 ∧ cHas (xOf st).pcc 8 = true ∧ ¬ MonRefused 127 1 ∧ ¬ MonRefused 0 14 ∧ ¬ MonRefused 0 0x8F8000E ∧ MonRefused 128 1 ∧ MonRefused 0 0 ∧
    MonRefused 0 15 ∧ MonRefused 0 0x9080001 ∧ ∀ ws, ¬ Seizes (gOf st) (xOf st) ws := by
  refine ⟨by unfold Assigned; decide, by decide +kernel, ?_, ?_, ?_, ?_, ?_, ?_, ?_, fun ws => not_seizes (by decide +kernel)⟩
  all_goals unfold MonRefused; decide
theorem test_witness_ClusterClearAndScrub : pclearCode st (gOf st) 18 = some 4 ∧ pclearCode st (gOf st) 0 = some 2 ∧ pclearCode st (gOf st) 17 = none ∧ aget false st.clearing 17 = false ∧
    (match checkUse (cGet (xOf stMem) 1) [1] 0x30000 4096 2 false (some false) (gangPad stMem (gOf stMem).gang) with | .ok () => true | _ => false) = true ∧
    stMem.arm.scrub.active = false ∧
    (match pagesOf stMem (agtOf stMem (gOf stMem)) (cGet (xOf stMem) 1) 0x30000 2 2 4096 with
      | .ok _ ps => ps.all fun p => match p.1 with | .here l _ => decide (l.sp = .hbm) | _ => false
      | _ => false) = true ∧ (xOf stMem).part.isNone = true := by decide +kernel
/-- A scrub of a page all of whose lines but the last are zeroed. -/
def stScrubbing : State := onSplit (fun x => { x with part := some { lane := 0, got := [], done := 3968 } }) (setR [(7, 4096)] stMem)
theorem test_scrub_last : gives (.scrub 1 7) stScrubbing (fun t => reg t 7 = 4096 && pcOf t = 0x10004 && (xOf t).part.isNone) = true ∧
    gives (.scrub 1 7) (setR [(7, 4096)] stMem) (fun t => pcOf t = 0x10000 && (xOf t).part.any fun p => p.done = 128) = true := by decide +kernel
theorem test_witness_Scrub : ScrubAt stScrubbing (gOf stScrubbing) (xOf stScrubbing) (cGet (xOf stScrubbing) 1) 4096 3968 stScrubbing ∧
    (match target stScrubbing (agtOf stScrubbing (gOf stScrubbing)) (cGet (xOf stScrubbing) 1) (cAddr (cGet (xOf stScrubbing) 1) + 3968) 2 0 (fun _ => none) with
      | .ok s3 (.here l _) => (blocked s3 (gOf stScrubbing).uid true (linesOf s3.ram l 128)).isNone | _ => false) = true :=
  ⟨⟨by unfold SplitsOk; decide +kernel, .inl ⟨rfl, { lane := 0, got := [], done := 3968 }, by rfl, rfl⟩⟩, by decide +kernel⟩
/-- A split that waits for Armoire. -/
def stAtt : State := match exec (.attest 1 1 7) stMem with | .next t => { t with actor := .split 0 0 0 (Sc.sc 0x7E 1 1 7 0) } | _ => stMem
/-- A quote under way, n of whose 784 bytes are done. -/
def stQuoting (n : Nat) : State := onSplit (fun x => { x with st := .ready, part := some { lane := 0, got := [(hbmLoc 0, List.replicate 672 5, false)], done := n } }) stMem
theorem test_attest_last : gives (.attest 1 1 7) (stQuoting 780) (fun t => reg t 7 = 0 && pcOf t = 0x10004 && (xOf t).part.isNone && ramNat t.ram (hbmLoc (0x30000 + 668)) 4 = 0x05050505) = true := by
  decide +kernel
theorem test_witness_AttestResult : (match checkUse (cGet (xOf stMem) 1) [0] 0x30000 112 1 false none (gangPad stMem (gOf stMem).gang) with | .ok () => true | _ => false) = true ∧
    (match checkUse (cGet (xOf stMem) 1) [1] 0x30000 672 2 false none (gangPad stMem (gOf stMem).gang) with | .ok () => true | _ => false) = true ∧
    grpAt stAtt 0 0 = some (gOf stAtt) ∧ (gOf stAtt).g.split 0 = some (xOf stAtt) ∧ (xOf stAtt).st = .attest 1 1 7 ∧ (∃ s1 g1 x1, Settles stAtt (gOf stAtt) (xOf stAtt) s1 g1 x1) ∧
    (xOf stMem).part.isNone = true ∧
    (match resolveAcc (stQuoting 108) (gOf (stQuoting 108)) { need := [0], access := 1, use := .loadDirect } { l := 0, x := cGet (xOf (stQuoting 108)) 1, va := 0x30000 + 108, n := 4, b := none } with
      | .ok s2 ps => (blocked s2 (gOf (stQuoting 108)).uid false (ps.flatMap (pieceLines s2))).isNone | _ => false) = true ∧
    (match resolveAcc (stQuoting 780) (gOf (stQuoting 780)) { need := [1], access := 2, use := .store } { l := 0, x := cGet (xOf (stQuoting 780)) 1, va := 0x30000 + 668, n := 4, b := none } with
      | .ok s2 ps => (blocked s2 (gOf (stQuoting 780)).uid true (ps.flatMap (pieceLines s2))).isNone | _ => false) = true ∧ SplitsOk (gOf (stQuoting 780)) :=
  ⟨by decide +kernel, by decide +kernel, by rfl, by rfl, by decide +kernel, settles (by decide +kernel), by decide +kernel, by decide +kernel, by decide +kernel, by unfold SplitsOk; decide +kernel⟩
theorem test_witness_FabricConfiguration : ∃ s2 b, BlockRead (.fabcfgEp 1 7) stMem (gOf stMem) (cGet (xOf stMem) 1) s2 b capNull ∧ fabForm (.fabcfgEp 1 7) = some (1, 7) ∧ cHas (xOf stMem).pcc 8 = true := by
  obtain ⟨s2, b, h⟩ := got_ok (x := fabBytes stMem (gOf stMem) (cGet (xOf stMem) 1) 32) (by decide +kernel)
  exact ⟨s2, b, h, rfl, by decide +kernel⟩
theorem test_witness_BlockBad : BlockBad (.fabcfgPlane 1 7) stMem [32] capNull ∧ ¬ BlockBad (.fabcfgPlane 1 7) stMem [31] capNull ∧ BlockBad (.fabcfgEp 1 7) stMem [0, 4] capNull ∧
    ¬ BlockBad (.fabcfgEp 1 7) stMem [255, 3] capNull ∧ BlockBad (.fabcfgMcast 1 7) stMem [0, 2] capNull ∧ BlockBad (.fabcfgRegion 1 7) stMem [0, 0, 1] capNull := by
  refine ⟨by unfold BlockBad; decide, by unfold BlockBad; decide, by unfold BlockBad; decide, by unfold BlockBad; decide, by unfold BlockBad; decide, ?_⟩
  exact .inr (.inr ⟨by decide, fun h => absurd h.1 (by decide)⟩)

/-! Lane instructions (R114 to R164, R186, R187). -/

/-- v registers with their values in every lane. -/
def setV (vs : List (Nat × (Nat → Word))) (s : State) : State := onGrp (fun g => { g with g := vs.foldl (fun c p => vSet c p.1 allLanes (rowFn p.2)) g.g }) s
/-- An instruction at the head of the lane queue, for the lanes of m, as a block enqueued by a whole group. -/
def laneM (m : LaneMask) (i : Instr) (s : State) : State :=
  match encodeLane i with
  | some w => onGrp (fun g => { g with g := { g.g with laneQ := g.g.laneQ.map fun b => { b with mask := m } } }) { placeBlock s w with actor := .lane 0 0 }
  | none => s
def lane : Instr → State → State := laneM allLanes
/-- A lane of a v register. -/
def vreg (s : State) (n l : Nat) : Word := rl (vGet (gOf s).g n) l
def lgives (i : Instr) (s : State) (f : State → Bool) : Bool := gives i (lane i s) f
def laneTrap (k d : Nat) (t : State) : Bool := (gOf t).frame.isSome && (match (gOf t).frec with | w :: _ => w.toNat % 65536 = k + 256 * d && w.getLsbD 21 | [] => false)
/-- v6 and STATUS of an instruction on v1, v2, v3; v6 and v7 and STATUS where a pair or a state is wanted. -/
def in3 (a b c : Word) : State := setV [(1, fun _ => a), (2, fun _ => b), (3, fun _ => c)] st
def lst (i : Instr) (a b c : Word) : Word × Word := match exec i (laneM 1 i (in3 a b c)) with | .next t => (vreg t 6 0, (gOf t).g.status) | _ => (0xDEADBEEF, 0)
def lout (i : Instr) (a b c : Word) : Word := (lst i a b c).1
def h1 : LaneHdr := hdrAB (.vreg 6) (v 1) (v 0)
def h2 : LaneHdr := hdrAB (.vreg 6) (v 1) (v 2)
def h3 : LaneHdr := { h2 with c := v 3 }
def ih (n : BitVec 8) : IHdr := { dst := .vreg 6, lat := none, nowb := false, a := v n }
def dm : AMods := am .dflt

theorem test_lnop : lgives (.lnop 0 false) st (fun t => (gOf t).g.laneQ = [] && (gOf t).g.v = (gOf st).g.v) = true := by decide +kernel
theorem test_mov : lout (.mov h1 dm) 7 0 0 = 7 ∧ lout (.movi (ih 0) 0xDEADBEE0 0) 7 0 0 = 0xDEADBEE0 := by decide +kernel
theorem test_iadd : lout (.iadd h2 dm) 0x7FFFFFFF 1 0 = 0x80000000 ∧ lout (.iadd h2 { dm with sat := true }) 0x7FFFFFFF 1 0 = 0x7FFFFFFF ∧
    lout (.iadd h2 { am .z32 with sat := true }) 0xFFFFFFFF 1 0 = 0xFFFFFFFF := by decide +kernel
theorem test_isub : lout (.isub h2 dm) 0 1 0 = 0xFFFFFFFF ∧ lout (.isub h2 { am .z32 with sat := true }) 0 1 0 = 0 := by decide +kernel
theorem test_iaddi : lout (.iaddi (ih 1) 0xFFFFFFFF 0) 5 0 0 = 4 ∧ lout (.iaddi (ih 1) 0xFFFFFFFF 3) 5 0 0 = 0xFFFFFFFF := by decide +kernel
theorem test_imul : lout (.imul h2 { dm with sat := true }) 0xFFFFFFFF 2 0 = 0xFFFFFFFE ∧ lout (.imul h2 { dm with sat := true }) 0x10000 0x10000 0 = 0x7FFFFFFF ∧
    lout (.imulh h2 dm) 0xFFFFFFFF 2 0 = 0xFFFFFFFF ∧ lout (.imulh h2 (am .z32)) 0xFFFFFFFF 2 0 = 1 := by decide +kernel
theorem test_imad : lout (.imad h3 dm) 3 4 5 = 17 ∧ lgives (.imadw h3 (am .z32)) (in3 0xFFFFFFFF 0xFFFFFFFF 0xFFFFFFFF) (fun t => vreg t 6 95 = 0 && vreg t 7 95 = 0xFFFFFFFF) = true := by decide +kernel
theorem test_iabs : lout (.iabs h1 dm) 0x80000000 0 0 = 0x80000000 ∧ lout (.iabs h1 { dm with sat := true }) 0x80000000 0 0 = 0x7FFFFFFF ∧ lout (.iabs h1 dm) 0xFFFFFFFB 0 0 = 5 := by decide +kernel
theorem test_iminmax : lout (.imin h2 dm) 0xFFFFFFFF 1 0 = 0xFFFFFFFF ∧ lout (.imin h2 (am .z32)) 0xFFFFFFFF 1 0 = 1 ∧ lout (.imax h2 dm) 0xFFFFFFFF 1 0 = 1 := by decide +kernel
/-- The example of R121. -/
theorem test_idot4 : lout (.idot4 h3 dm) 0x80FF0102 0x7F020304 10 = 0xFFFFC093 ∧ lout (.idot4 h3 (am .z8)) 0x000000FF 0x000000FF 1 = 0xFE02 := by decide +kernel
theorem test_isad : lout (.isad h3 dm) 3 10 1 = 8 ∧ lout (.isad h3 (am .z8)) 0x01020304 0x04030201 0 = 8 := by decide +kernel
theorem test_lane_logic : lout (.andLane h2 dm) 0xF0F0 0xFF00 0 = 0xF000 ∧ lout (.orLane h2 dm) 0xF0F0 0xFF00 0 = 0xFFF0 ∧ lout (.xorLane h2 dm) 0xF0F0 0xFF00 0 = 0x0FF0 := by decide +kernel
theorem test_bool3 : lout (.bool3 h3 { dm with x := 0x1A }) 0b1100 0b1010 0b0100 = 0b0010 := by decide +kernel
theorem test_lane_shift : lout (.shlLane h2 dm) 1 32 0 = 0 ∧ lout (.shlLane h2 dm) 1 257 0 = 2 ∧ lout (.shrLane h2 dm) 0x80000000 31 0 = 1 ∧ lout (.sarLane h2 dm) 0x80000000 40 0 = 0xFFFFFFFF := by decide +kernel
theorem test_wshift : lout (.wshift h3 dm) 0x12345678 0xF 4 = 0xF1234567 ∧ lout (.wshift h3 { dm with x := 1 }) 0x12345678 0xF 4 = 0xF1 ∧
    lout (.wshift h3 { dm with x := 2 }) 0x12345678 0xF 33 = 0xF ∧ lout (.wshift h3 dm) 0x12345678 0xF 32 = 0x12345678 := by decide +kernel
theorem test_extr : lout (.extr h3 dm) 0xF50 4 8 = 0xF5 ∧ lout (.extr h3 (am .s32)) 0xF50 4 8 = 0xFFFFFFF5 ∧ lout (.extr h3 (am .s32)) 0x80000000 31 8 = 0xFFFFFFFF ∧ lout (.extr h3 dm) 0xF50 4 0 = 0 := by
  decide +kernel
theorem test_insr : lout (.insr h3 dm) 0xAB 0x0804 0xFFFFFFFF = 0xFFFFFABF ∧ lout (.insr h3 dm) 0xAB 0x0820 0x12345678 = 0x12345678 := by decide +kernel
theorem test_lane_bits : lout (.popcLane h1 dm) 0xF00F 0 0 = 8 ∧ lout (.clzLane h1 dm) 0 0 0 = 32 ∧ lout (.clzLane h1 dm) 0x8000 0 0 = 16 ∧ lout (.bitrev h1 dm) 1 0 0 = 0x80000000 := by decide +kernel
/-- Bytes 3, 2, 1, 0 of A; byte 4 is B's lowest. -/
theorem test_bswz : lout (.bswz h3 dm) 0x11223344 0x55667788 0x053 = 0x44332211 ∧ lout (.bswz h3 dm) 0x11223344 0x55667788 0x1004 = 0x44444400 := by decide +kernel
theorem test_icmp : lout (.icmp h2 { dm with x := 2 }) 0xFFFFFFFF 0 0 = 0xFFFFFFFF ∧ lout (.icmp h2 { am .z32 with x := 2 }) 0xFFFFFFFF 0 0 = 0 := by decide +kernel
/-- A k destination takes a bit in the lanes of ACTIVE only (R126). -/
theorem test_icmp_k : let i := Instr.icmp { hdrAB (.kreg 2) (v 1) (v 2) with pred := 1 } { dm with x := 5 }
    gives i (lane i (onGrp (fun g => { g with g := kSet g.g 1 allLanes 6 }) (setV [(1, fun l => BitVec.ofNat 32 l), (2, fun _ => 2)] st))) (fun t => kGet (gOf t).g 2 = 4) = true := by decide +kernel
theorem test_selLane : let i := Instr.selLane h2 { dm with x := 1 }
    gives i (lane i (onGrp (fun g => { g with g := kSet g.g 1 allLanes 2 }) (in3 7 9 0))) (fun t => vreg t 6 1 = 7 && vreg t 6 2 = 9) = true := by decide +kernel
theorem test_nbr : let s := setV [(1, fun l => BitVec.ofNat 32 l), (2, fun _ => 500)] st
    lgives (.nbr h1 { dm with x := 2 }) s (fun t => vreg t 6 0 = 95 && vreg t 6 7 = 6) = true ∧ lgives (.nbr h2 { dm with x := 1 }) s (fun t => vreg t 6 95 = 500 && vreg t 6 7 = 8) = true := by decide +kernel
/-- A linked NBR in a workgroup of two groups posts and waits (R130). -/
theorem test_nbr_link : let i := Instr.nbr h2 dm
    gives i (lane i (setV [(1, fun l => BitVec.ofNat 32 l), (2, fun _ => 500)] (base 2))) (fun t => (gOf t).posts.map (fun p => (p.n, p.lo, p.hi)) = [(1, 0, 95)] && (gOf t).g.laneQ.length = 1) = true := by
  decide +kernel
theorem test_lbcast : lgives (.lbcast (hdrAB (.vreg 6) (v 1) (.special 101)) dm) (setV [(1, fun l => BitVec.ofNat 32 (l + 100))] st) (fun t => vreg t 6 0 = 105 && vreg t 6 95 = 105) = true := by decide +kernel
/-- A group-wide instruction in a block of a group with two splits (R128). -/
theorem test_wide_trap : let i := Instr.lbcast (hdrAB (.vreg 6) (v 1) (.special 101)) dm
    gives i (onGrp (fun g => { g with g := { g.g with laneQ := g.g.laneQ.map fun b => { b with splits := 2 } } }) (lane i st)) (laneTrap 11 0) = true ∧
    gives i (onGrp (fun g => { g with g := { g.g with laneQ := g.g.laneQ.map fun b => { b with full := false } } }) (lane i st)) (laneTrap 2 0) = true := by decide +kernel
/-- A last-use mark kills its register; a read of a dead one gives poison (R49, R51). -/
theorem test_last_use : lgives (.mov (hdrAB (.vreg 6) (.vreg 1 true false) (v 0)) dm) (in3 9 0 0) (fun t => vreg t 6 0 = 9 && vreg t 1 0 = 0x7FA00DEA) = true ∧
    lst (.mov (hdrAB (.vreg 6) (v 9) (v 0)) dm) 0 0 0 = (0x7FA00DEA, 1) := by decide +kernel

theorem test_fadd : lst (.fadd h2 dm) 0x3F800000 0x40000000 0 = (0x40400000, 0) ∧ lst (.fadd h2 dm) 0x7F800000 0xFF800000 0 = (0x7FC00000, 4) ∧ lst (.fsub h2 dm) 0x3F800000 0x40000000 0 = (0xBF800000, 0) := by
  decide +kernel
theorem test_fmul : lst (.fmul h2 dm) 0x40000000 0x40400000 0 = (0x40C00000, 0) ∧ lst (.fmul h2 dm) 0x7F7FFFFF 0x40000000 0 = (0x7F800000, 0x50) := by decide +kernel
/-- The example of R149. -/
theorem test_ffma : lst (.ffma { h2 with c := .special 133 } { dm with rnd := .ru }) 0x3F800001 0x3F800001 0 = (0x34800001, 0x40) ∧
    lst (.ffma { h2 with c := .special 133 } dm) 0x3F800001 0x3F800001 0 = (0x34800000, 0x40) := by decide +kernel
theorem test_fmin : lst (.fmin h2 dm) 0 0x80000000 0 = (0x80000000, 0) ∧ lst (.fmax h2 dm) 0x7FC00000 0x3F800000 0 = (0x3F800000, 0) ∧ lst (.fmax h2 { dm with x := 1 }) 0x7FC00000 0x3F800000 0 = (0x7FC00000, 0) := by
  decide +kernel
theorem test_fcmp : lst (.fcmp h2 { dm with x := 0 }) 0 0x80000000 0 = (0xFFFFFFFF, 0) ∧ lst (.fcmp h2 { dm with x := 2 }) 0x7FC00000 0 0 = (0, 4) ∧ lst (.fcmp h2 { dm with x := 6 }) 0x7FC00000 0 0 = (0xFFFFFFFF, 0) := by
  decide +kernel
theorem test_fclass : lout (.fclass h1 dm) 0x7FC00000 0 0 = 0x200 ∧ lout (.fclass h1 dm) 0x80000001 0 0 = 4 ∧ lout (.fclass h1 dm) 0xFF800000 0 0 = 1 := by decide +kernel
theorem test_fdiv : lst (.fdiv h2 dm) 0x3F800000 0x80000000 0 = (0xFF800000, 8) ∧ lst (.fdiv h2 dm) 0x3F800000 0x40400000 0 = (0x3EAAAAAB, 0x40) := by decide +kernel
theorem test_fsqrt : lst (.fsqrt h1 dm) 0x40000000 0 0 = (0x3FB504F3, 0x40) ∧ lst (.fsqrt h1 dm) 0xBF800000 0 0 = (0x7FC00000, 4) ∧ lst (.fsqrt h1 dm) 0x80000000 0 0 = (0x80000000, 0) := by decide +kernel
/-- The special cases of R155. -/
theorem test_frcp : lst (.frcp h1 dm) 0 0 0 = (0x7F800000, 8) ∧ lst (.frsq h1 dm) 0x80000000 0 0 = (0xFF800000, 8) ∧ lst (.frsq h1 dm) 0xBF800000 0 0 = (0x7FC00000, 4) := by decide +kernel
theorem test_fexp2 : lst (.fexp2 h1 dm) 0x40400000 0 0 = (0x41000000, 0) ∧ lst (.fexp2 h1 dm) 0x43000000 0 0 = (0x7F800000, 0x10) ∧ lst (.flog2 h1 dm) 0x3F800000 0 0 = (0, 0) := by decide +kernel
theorem test_fsin : lst (.fsin h1 dm) 0x80000000 0 0 = (0x80000000, 0) ∧ lst (.fcos h1 dm) 0 0 0 = (0x3F800000, 0) ∧ lst (.fcos h1 dm) 0x7F800000 0 0 = (0x7FC00000, 4) ∧ lst (.ftanh h1 dm) 0xFF800000 0 0 = (0xBF800000, 0) := by
  decide +kernel
theorem test_frnd : lst (.frnd h1 { dm with rnd := .rd }) 0xBFC00000 0 0 = (0xC0000000, 0) ∧ lst (.frnd h1 dm) 0x40200000 0 0 = (0x40000000, 0) := by decide +kernel
theorem test_fscale : lst (.fscale h2 dm) 0x3FC00000 0xFFFFFFFF 0 = (0x3F400000, 0) ∧ lst (.fscale h2 dm) 0x3F800000 1000 0 = (0x7F800000, 0x50) := by decide +kernel
theorem test_pk : lst (.pkadd h2 (am .f16)) 0x3C003C00 0x40003C00 0 = (0x42004000, 0) ∧ lst (.pkmul h2 (am .bf16)) 0x40003F80 0x40004000 0 = (0x40804000, 0) ∧
    lst (.pkfma h3 (am .f16)) 0x3C004000 0x3C004200 0x3C003C00 = (0x40004700, 0) := by decide +kernel
def lpair (i : Instr) (ws : List (Nat × Word)) : Word × Word :=
  match exec i (laneM 1 i (setV (ws.map fun e => (e.1, fun _ => e.2)) st)) with | .next t => (vreg t 4 0, vreg t 5 0) | _ => (0xDEADBEEF, 0)
/-- The example of R158, 1.5 and 2.0. -/
theorem test_dmul : let p := [(6, (0 : Word)), (7, 0x3FF80000), (8, 0), (9, 0x40000000)]
    lpair (.dmul (hdrAB (.vreg 4) (v 6) (v 8)) dm) p = (0, 0x40080000) ∧ lpair (.dadd (hdrAB (.vreg 4) (v 6) (v 8)) dm) p = (0, 0x400C0000) ∧
    lpair (.dfma { hdrAB (.vreg 4) (v 6) (v 8) with c := .special 133 } dm) p = (0, 0x40000000) := by decide +kernel
/-- The example of R161. -/
theorem test_cvt : lst (.cvt h1 { am .e4m3 with x := 13 }) 0x43EB0000 0 0 = (0x7F, 0x50) ∧ lst (.cvt h1 { am .e4m3 with x := 13, sat := true }) 0x43EB0000 0 0 = (0x7E, 0x50) ∧
    lst (.cvt h1 { am .e4m3 with x := 13 }) 0x43E60000 0 0 = (0x7E, 0x40) := by decide +kernel
theorem test_cvt_int : lst (.cvt h1 { am .f32 with x := 3 }) 0xFFFFFFFE 0 0 = (0xC0000000, 0) ∧ lst (.cvt h1 { am .s8 with x := 13, rnd := .rz }) 0xC0200000 0 0 = (0xFFFFFFFE, 0x40) := by decide +kernel
theorem test_pack : lst (.pack h3 (am .f16)) 0x3F800000 0x40000000 0 = (0x40003C00, 0) ∧ lst (.pack h3 { am .e4m3 with x := 2 }) 0x3F800000 0x3F800000 0x1234 = (0x38381234, 0) ∧
    lst (.unpack h1 { am .f16 with x := 1 }) 0x40003C00 0 0 = (0x40000000, 0) := by decide +kernel
/-- A block of ones: the smallest scale at or above 1/448 is 2^-8, and 256 is 0x78 (R163); it reads back as 1 (R164). -/
theorem test_qblk : gives (.qblk h1 (am .e4m3)) (laneM 1 (.qblk h1 (am .e4m3)) (in3 0x3F800000 0 0)) (fun t => vreg t 6 0 = 0x00770078) = true ∧ lst (.dqblk h2 (am .e4m3)) 0x00770078 0x00770078 0 = (0x3F800000, 0) := by decide +kernel

/-- A capability in every lane of the quad at v8. -/
def stQuad : State :=
  let c := area 0x30000 0x1000
  onGrp (fun g => { g with g := { g.g with qtags := [(2, allLanes)] } }) (setV (((below 4).map fun k => (8 + k, fun _ => c.bits.extractLsb' (32 * k) 32)) ++ [(1, fun l => BitVec.ofNat 32 (16 * l)), (2, fun _ => 16), (16, fun _ => 0x30040), (17, fun _ => 0)]) st)
def hq (b : Src) : LaneHdr := hdrAB (.vreg 12) (v 8) b
def quadOf (i : Instr) (f : Cap → Bool) : Bool := gives i (laneM 8 i stQuad) fun t => f (quadCap (gOf t).g 12 3)
theorem test_vcmov : quadOf (.vcmov (hq (v 0)) 0) (fun c => c = area 0x30000 0x1000) = true ∧ quadOf (.vcseta (hq (v 16)) 0) (fun c => c.tag && cAddr c = 0x30040) = true ∧
    quadOf (.vcinc (hq (v 1)) 0) (fun c => c.tag && cAddr c = 0x30030) = true := by decide +kernel
theorem test_vcsetb : quadOf (.vcsetb (hq (v 2)) 1) (fun c => c.tag && capTop c = 0x30010) = true ∧ quadOf (.vcandp (hq (v 2)) 0) (fun c => c.tag && cPerms c = 16) = true ∧
    quadOf (.vcclr (hdrAB (.vreg 12) (v 0) (v 0)) 0) (fun c => c = capNull) = true := by decide +kernel
theorem test_vcclr_tag : lgives (.vcclr (hdrAB (.vreg 8) (v 0) (v 0)) 1) stQuad (fun t => quadCap (gOf t).g 8 3 = { area 0x30000 0x1000 with tag := false }) = true ∧
    lgives (.vcget (hdrAB (.vreg 6) (v 8) (v 0)) 6) stQuad (fun t => vreg t 6 3 = 0x1000) = true ∧ lgives (.vctest (hdrAB (.kreg 1) (v 8) (v 0)) 0) stQuad (fun t => kGet (gOf t).g 1 = allLanes) = true := by decide +kernel
theorem test_vcderive : let i := Instr.vcderive (hdrAB (.vreg 12) (v 1) (v 2)) 0x800
    gives i (onGrp (fun g => { g with g := { g.g with laneQ := g.g.laneQ.map fun b => { b with c := [(1, area 0x30000 0x1000)] } } }) (laneM 8 i stQuad))
      (fun t => let c := quadCap (gOf t).g 12 3; c.tag && cAddr c = 0x30030 && capTop c = 0x30040) = true := by decide +kernel

/-- The lane instruction that the state has at the head of its queue, and the checks at issue. -/
def lxOf (s : State) : LX := (actorLane s).getD { s := s, g := gOf s, b := default, n := 0, w := 0, act := 0 }
/-- The instruction after its checkpoint. -/
def ckOf (x : LX) : LX :=
  let r := RawLane.ofWord x.w
  let g1 := (takeCkpt x.s x.g ((writesOf r).filter (· < 1000)) (((writesOf r).filter fun n => 1000 ≤ n && n < 2000).map fun n => ckptQ (n - 1000))).getD x.g
  { x with s := setGrp x.s g1, g := g1 }
theorem issues {s : State} (h : (actorLane s).isSome = true) (h0 : (let x := lxOf s; let r := RawLane.ofWord x.w
    (!usesCtx r || decide ((matOf x.s x.g).holder = some x.g.uid)) && !keptHit x.g (writesOf r) && (x.spoiled r).isNone && decide (¬ (0x2C0 ≤ r.op.toNat ∧ r.op.toNat ≤ 0x2C9)) &&
    ((readsOf r ++ writesOf r).filter fun n => 1000 ≤ n && n < 2000).isEmpty &&
    ((writesOf r).filter (· < 1000) ++ killsAt x.b.words x.n).all (fun n => !(matVRegs x.s x.g).contains n) &&
    (takeCkpt x.s x.g ((writesOf r).filter (· < 1000)) (((writesOf r).filter fun n => 1000 ≤ n && n < 2000).map fun n => ckptQ (n - 1000))).isSome) = true) :
    actorLane s = some (lxOf s) ∧ Issues (lxOf s) (ckOf (lxOf s)) := by
  obtain ⟨x, hx⟩ := Option.isSome_iff_exists.1 h
  have e : lxOf s = x := by unfold lxOf; rw [hx]; rfl
  refine ⟨by rw [hx, e], ?_⟩
  simp only [Bool.and_eq_true, Bool.or_eq_true, Bool.not_eq_true', decide_eq_true_eq, List.isEmpty_iff, List.all_eq_true, Option.isSome_iff_exists, Option.isNone_iff_eq_none] at h0
  obtain ⟨⟨⟨⟨⟨⟨a, b⟩, e⟩, c⟩, d⟩, f⟩, g1, hg⟩ := h0
  refine ⟨fun hu => ?_, b, e, c, fun hn => absurd d hn, fun n hn => ?_, g1, hg, by simp only [ckOf]; rw [hg]; rfl⟩
  · exact a.resolve_left (by rw [hu]; exact Bool.noConfusion)
  · intro hm
    have := f n hn
    rw [List.contains_iff_mem.2 hm] at this
    exact Bool.noConfusion this

def iLane : Instr := .iadd h2 dm
theorem test_witness_LaneArithmetic : ∃ x x1 w, actorLane (lane iLane st) = some x ∧ Issues x x1 ∧ iLane.wf = true ∧ intRule x1 iLane = some w := by
  obtain ⟨h, hi⟩ := issues (s := lane iLane st) (by decide +kernel) (by decide +kernel)
  exact ⟨_, _, _, h, hi, by decide, rfl⟩
def iQuad : Instr := .vcsetb (hq (v 2)) 1
theorem test_witness_LaneCapability : ∃ x x1 h p f, actorLane (lane iQuad stQuad) = some x ∧ Issues x x1 ∧ iQuad.wf = true ∧ quadRule x1 iQuad = some (h, p, f) ∧
    (boundsRule (area 0x30000 0x1000) 0x30000 16 true).1.isNone = true ∧ (boundsRule (area 0x30000 0x1000) 0x30000 0x2000 true).1.isSome = true := by
  obtain ⟨h, hi⟩ := issues (s := lane iQuad stQuad) (by decide +kernel) (by decide +kernel)
  exact ⟨_, _, _, _, _, h, hi, by decide, rfl, by decide +kernel, by decide +kernel⟩
/-- A linked NBR of the first of two groups; its neighbour has not posted, or has. -/
def iNbr : Instr := .nbr h2 dm
def stNbr (posted : Bool) : State := lane iNbr (let s := base 2; { s with grps := s.grps.map fun g => if g.slot = 1 && posted then { g with posts := [{ n := 1, lo := 5, hi := 6, dead := false }] } else g })
theorem test_witness_LaneGroupWide (p : Bool) : ∃ x x1, actorLane (stNbr p) = some x ∧ Issues x x1 ∧ iNbr.wf = true ∧ WholeBlock x.b ∧
    groupCount x.s x.g = 2 ∧ nbrReady x.s x.g 1 1 = p ∧ NoRegion x.g ∧ mcastBusy x.s x.g.uid = false := by
  obtain ⟨h, hi⟩ := issues (s := stNbr p) (by cases p <;> decide +kernel) (by cases p <;> decide +kernel)
  exact ⟨_, _, h, hi, by decide, ⟨by cases p <;> decide +kernel, by cases p <;> decide +kernel, by cases p <;> decide +kernel⟩, by cases p <;> decide +kernel, by cases p <;> decide +kernel, .inl (by cases p <;> decide +kernel), by cases p <;> decide +kernel⟩
theorem test_nbr_link_read : gives iNbr (setV [(1, fun l => BitVec.ofNat 32 l), (2, fun _ => 500)] (stNbr true)) (fun t => (gOf t).g.laneQ = [] && vreg t 6 0 = 500 && vreg t 6 1 = 0) = true := by decide +kernel

/-! Lane memory, atomics and reductions (R205 to R217, R258 to R275). -/

/-- b1 is the range of memory and b2 the range of the scratchpad; lane l has offset 4 l in v1, 16 l in v4 and data l + 0x100 in v2. -/
def stB : State :=
  let f (i : Instr) (s : State) : State := match exec i s with | .next t => scalar t | _ => s
  setV [(1, fun l => BitVec.ofNat 32 (4 * l)), (2, fun l => BitVec.ofNat 32 (l + 0x100)), (3, fun _ => 0), (4, fun l => BitVec.ofNat 32 (16 * l))] (f (.xlate 2 2) (f (.xlate 1 1) stMem))
/-- An instruction for lanes 0 to 2. -/
def mgives (i : Instr) (s : State) (f : State → Bool) : Bool := gives i (laneM 7 i s) f
def mb (n : Nat) : MMods := { mm .dflt with x := BitVec.ofNat 6 n }
def hl (a : Src) : LaneHdr := hdrAB (.vreg 6) a (v 0)
def hs (a b : Src) : LaneHdr := hdrAB (.vreg 0) a b

theorem test_ld : mgives (.ld (hl (.special 101)) (mb 1)) (setV [(5, fun _ => 0x40)] stB) (fun t => vreg t 6 0 = 0) = true ∧
    mgives (.ld (hl (v 5)) (mb 1)) (setV [(5, fun _ => 0x40)] stB) (fun t => vreg t 6 2 = 0x87654321 && vreg t 6 3 = 0x7FA00DEA) = true ∧
    mgives (.ld (hl (v 5)) { mb 1 with ty := .s8 }) (setV [(5, fun _ => 0x43)] stB) (fun t => vreg t 6 0 = 0xFFFFFF87) = true := by decide +kernel
theorem test_ld_fault : mgives (.ld (hl (v 5)) (mb 1)) (setV [(5, fun _ => 0x1000)] stB) (laneTrap 3 4) = true ∧ mgives (.ld (hl (v 5)) (mb 3)) stB (laneTrap 3 1) = true := by decide +kernel
theorem test_lds : mgives (.lds (hl (v 5)) (mb 2)) (setV [(5, fun _ => 0)] stB) (fun t => vreg t 6 1 = 0x00020002) = true ∧
    mgives (.lds { hl (v 5) with dst := .vreg 8 } { mb 2 with ty := .b64 }) (setV [(5, fun _ => 0)] stB) (fun t => vreg t 8 1 = 0x00020002 && vreg t 9 1 = 1) = true := by decide +kernel
/-- A lane's store is seen by the group at once and by memory after the commit (R233, R240). -/
theorem test_st : mgives (.st (hs (v 1) (v 2)) (mb 1)) stB (fun t => word32 t (hbmLoc 0x30008) = 0x102 && word32 t (hbmLoc 0x3000C) = 0 && ramNat t.ram (hbmLoc 0x30008) 4 = 0) = true ∧
    mgives (.sts (hs (v 1) (v 2)) { mb 2 with ty := .s16 }) stB (fun t => word32 t (padAt 0x404) = 0x101) = true := by decide +kernel
/-- A capability in each lane of the quad at v8, with its address at the lane's 16-byte place. -/
def stX : State :=
  let c (l : Nat) : Cap := withAddr (area 0x30000 0x1000) (0x30000 + 16 * l)
  onGrp (fun g => { g with g := { g.g with qtags := [(2, allLanes)] } }) (setV ((below 4).map fun k => (8 + k, fun l => (c l).bits.extractLsb' (32 * k) 32)) stB)
theorem test_ldx : mgives (.ldx (hdrAB (.vreg 6) (v 8) (v 5)) (mm .dflt)) (setV [(5, fun l => BitVec.ofNat 32 (0x40 - 16 * l))] stX) (fun t => vreg t 6 2 = 0x87654321) = true ∧
    mgives (.stx { hs (v 8) (v 3) with c := v 2 } (mm .dflt)) stX (fun t => word32 t (hbmLoc 0x30020) = 0x102) = true := by decide +kernel
def stStored : State := let i := Instr.stc (hs (v 4) (v 8)) (mb 1); match exec i (laneM 7 i stX) with | .next t => t | _ => stX
theorem test_stc : (viewRam stStored (gOf stStored) |> fun r => (ramReadCap r (hbmLoc 0x30020)).tag && !(ramReadCap r (hbmLoc 0x30030)).tag) = true ∧
    mgives (.ldc { hl (v 4) with dst := .vreg 12 } (mb 1)) stStored (fun t => quadCap (gOf t).g 12 2 = withAddr (area 0x30000 0x1000) 0x30020) = true := by decide +kernel
theorem test_stcX : mgives (.stcX { hs (v 8) (v 3) with c := v 8 } (mm .dflt)) stX (fun t => (ramReadCap (viewRam t (gOf t)) (hbmLoc 0x30010)).tag) = true ∧
    mgives (.ldcX { hl (v 8) with dst := .vreg 12, b := v 3 } (mm .dflt)) stStored (fun t => quadCap (gOf t).g 12 1 = withAddr (area 0x30000 0x1000) 0x30010) = true := by decide +kernel
/-- Lanes are events of their own, the lowest first, and take the value before (R231, R260, R261); a failing compare leaves memory. -/
theorem test_atom : mgives (.atom (hdrAB (.vreg 6) (v 3) (v 2)) (mb 1)) stB (fun t => vreg t 6 0 = 0 && vreg t 6 1 = 0x7FA00DEA && ramNat t.ram (hbmLoc 0x30000) 4 = 0x100 &&
      (gOf t).g.laneQ.map (·.todo) = [some 6]) = true ∧
    gives (.atom (hdrAB (.vreg 6) (v 5) (v 2)) (mb 1)) (laneM 4 (.atom (hdrAB (.vreg 6) (v 5) (v 2)) (mb 1)) (setV [(5, fun _ => 0x40)] stB))
      (fun t => vreg t 6 2 = 0x87654321 && ramNat t.ram (hbmLoc 0x30040) 4 = 0x87654423 && (gOf t).g.laneQ = []) = true ∧
    mgives (.atom { hdrAB (.vreg 6) (v 5) (v 2) with c := v 3 } (mb 0x39)) (setV [(5, fun _ => 0x40)] stB) (fun t => vreg t 6 0 = 0x87654321 && ramNat t.ram (hbmLoc 0x30040) 4 = 0x87654321) = true := by
  decide +kernel
theorem test_atoms : mgives (.atoms (hdrAB (.vreg 6) (v 3) (v 2)) (mb 0x12)) stB (fun t => vreg t 6 0 = 0x20002 && ramNat t.ram (padAt 0x400) 4 = 0x20002) = true := by decide +kernel
theorem test_red : mgives (.red (hs (v 3) (v 2)) (mb 1)) stB (fun t => (bufOf (gOf t)).length = 3) = true ∧
    mgives (.red (hs (v 3) (v 2)) (mb 1)) (onGrp (fun g => { g with solo := some 5 }) stB) (fun t => ramNat t.ram (hbmLoc 0x30000) 4 = 0x100 && (gOf t).g.laneQ.map (·.todo) = [some 6]) = true := by decide +kernel
theorem test_match : mgives (.matchL (hl (v 5)) (mb 1)) (setV [(5, fun l => if l = 1 then 3 else 4)] stB) (fun t => vreg t 6 0 = 2 && vreg t 6 1 = 1 && vreg t 6 2 = 2) = true ∧
    mgives (.matchL { hl (v 5) with dst := .kreg 1 } (mb 0)) (setV [(5, fun l => if l = 1 then 3 else 4)] stB) (fun t => kGet (gOf t).g 1 = 3) = true := by decide +kernel
/-- STM, REDSP and LDSUM through a range that is no window of their kind. -/
theorem test_window_forms : mgives (.stm (hs (v 3) (v 2)) (mb 1)) stB (fun t => (gOf t).frame.isSome) = true ∧ mgives (.redsp (hs (v 3) (v 2)) (mb 1)) stB (fun t => (gOf t).frame.isSome) = true ∧
    mgives (.ldsum (hl (v 3)) (mb 1)) stB (fun t => (gOf t).frame.isSome) = true := by decide +kernel

/-- A window of a kind over 4 KiB of this node's aperture, format .s32, with core 0 as its contributor, and b1 over it. -/
def stWindow (kind : Nat) : State :=
  let d : WinDesc := { kind := kind, fmt := 2, acc := false, gen := 7, members := [st.fab.node.toNat], range := 2 ^ 56 + st.fab.node.toNat * 2 ^ 47, len := 0x1000, notify := 0, contributors := 1, pcid := 65535 }
  let c := area d.range 0x1000
  onGrp (fun g => { g with g := { g.g with b := [(1, { bNone with cap := c, limit := 0x1000 })] } }) { stB with fab := { stB.fab with wins := [(0, { winNone with d := d })] } }
theorem test_red_window : mgives (.red (hs (v 1) (v 2)) { mb 1 with ty := .s32 }) (stWindow 1) (fun t => (bufOf (gOf t)).length = 3) = true ∧
    mgives (.red (hs (v 1) (v 2)) { mb 9 with ty := .s32 }) (stWindow 1) (laneTrap 5 5) = true := by decide +kernel
theorem test_stm : mgives (.stm (hs (v 1) (v 2)) (mb 1)) (stWindow 1) (fun t => (bufOf (gOf t)).map (fun o => match o with | .mcast 0 8 [2, 1, 0, 0] _ => true | _ => false) = [false, false, true]) = true := by decide +kernel
theorem test_redsp : mgives (.redsp (hs (v 1) (v 2)) { mb 1 with ty := .s32 }) (stWindow 3) (fun t => (bufOf (gOf t)).map (fun o => decide (o = .sparse 0 7 4 0x101)) = [false, true, false]) = true := by decide +kernel
theorem test_ldsum : mgives (.ldsum (hl (v 3)) { mb 1 with ty := .s32 }) (stWindow 1) (laneTrap 5 5) = true := by decide +kernel
/-- STT of a tile whose row in lane 0 is 3.0 in its first column (R271). -/
def stTile : State := modMat stB (gOf stB).wg 0 fun c => { c with bank := [(0, rowFn fun _ => 0x40400000)] }
def iStt (m : BitVec 16) : Instr := .stt { hs (.qreg 0) (.special 100) with dst := .vreg 0 } m
theorem test_stt : gives (iStt 0x7801) (laneM 1 (iStt 0x7801) stTile) (fun t => word32 t (hbmLoc 0x30000) = 0x4040 && (gOf t).g.laneQ = []) = true := by decide +kernel

theorem resolved_ok : ∀ l : List Resolved, (l.all fun e => match e.2 with | .ok _ => true | .error _ => false) = true → l = (passing l).map fun p => (p.1, .ok p.2)
  | [], _ => rfl
  | (a, .ok ps) :: l, h => by
    have := resolved_ok l (by simpa using h)
    show (a, Except.ok ps) :: l = (a, Except.ok ps) :: (passing l).map _
    rw [← this]
  | (a, .error t) :: l, h => absurd h (by simp)
theorem lane_window {x : LX} {access : Nat} {accs : List Acc} {res : State → Acc → Got (List Piece)}
    (h1 : ((watchTrap x.g x.b.noWatch access x.act accs).isNone && x.b.part.isNone && !soloOn x.g) = true)
    (h3 : (match resolveAll x.s res accs with
      | (s1, l, b) => b && (l.all fun e => match e.2 with | .ok _ => true | .error _ => false) && ((passing l).flatMap (·.2)).all (fun p => !p.uc) &&
        (match grpOf s1 x.g.uid with
        | some g1 => (enterMem s1 g1 ((passing l).flatMap (·.2)) ((writesOf (RawLane.ofWord x.w)).filter (· < 1000))
            (((writesOf (RawLane.ofWord x.w)).filter fun n => 1000 ≤ n && n < 2000).map fun n => ckptQ (n - 1000)) (fun _ => none) (fun s g => some (s, g))).isSome
        | none => false)) = true) :
    ∃ ok s3 g3, LaneWindow x access accs res ok s3 g3 := by
  simp only [Bool.and_eq_true, Bool.not_eq_true', Option.isNone_iff_eq_none] at h1
  rcases e : resolveAll x.s res accs with ⟨s1, l, b⟩
  rw [e] at h3
  simp only [Bool.and_eq_true] at h3
  obtain ⟨⟨⟨hb, hl⟩, hu⟩, h3⟩ := h3
  rcases e1 : grpOf s1 x.g.uid with _ | g1
  · simp [e1] at h3
  · simp only [e1] at h3
    obtain ⟨⟨s2, g3⟩, hm⟩ := Option.isSome_iff_exists.1 h3
    exact ⟨passing l, _, g3, s1, s2, g1, _, h1.1.1, h1.1.2, h1.2, by rw [e, ← resolved_ok l hl, hb], fun p hp => by simpa using List.all_eq_true.1 hu p hp, rfl, e1, hm, rfl⟩

/-- An instruction of a group in SOLO mode begins with an event of its lowest lane, which passes. -/
theorem lane_direct {x : LX} {access : Nat} {a : Acc} {accs : List Acc} {res : State → Acc → Got (List Piece)} {one : State → Acc → Got (List Piece)}
    (h1 : ((watchTrap x.g x.b.noWatch access x.act (a :: accs)).isNone && x.b.part.isNone && soloOn x.g && x.g.wins.isEmpty) = true)
    (h2 : (match one x.s a with | .ok s1 ps => (blocked s1 x.g.uid (access != 1) (ps.flatMap (pieceLines s1))).isNone | _ => false) = true) :
    ∃ s1 ps, LaneBegins x access (a :: accs) res x.s x.g ∧ FirstPass one x.s (a :: accs) s1 a ps ∧ blocked s1 x.g.uid (access != 1) (ps.flatMap (pieceLines s1)) = none := by
  simp only [Bool.and_eq_true, Option.isNone_iff_eq_none, List.isEmpty_iff] at h1
  rcases e : one x.s a with ⟨s1, ps⟩ | _ | _
  · simp only [e, Option.isNone_iff_eq_none] at h2
    exact ⟨s1, ps, ⟨h1.1.1.1, .inr ⟨h1.1.1.2, h1.2, .inl ⟨h1.1.2, rfl, rfl⟩⟩⟩, .inl ⟨e, rfl⟩, h2⟩
  all_goals simp [e] at h2

def iLd : Instr := .ld (hl (v 1)) (mb 1)
def iStx : Instr := .stx { hs (v 8) (v 3) with c := v 2 } (mm .dflt)
def iStc : Instr := .stc (hs (v 4) (v 8)) (mb 1)
/-- The instruction under test after the checks at issue. -/
def issued (i : Instr) (m : LaneMask) (s : State) : LX := refreshed (ckOf (lxOf (laneM m i s))) i
def solo (s : State) : State := onGrp (fun g => { g with solo := some 5 }) s
def xSolo : LX := issued iLd 7 (solo stB)
def accsSolo : List Acc := viaB xSolo (mb 1) (srcW xSolo (hl (v 1)) 0) 4
def spLd : AccSpec := { need := [0], access := 1, sp := some false, stated := 0, atom := 4 }
/-- A load through b1, a store through lane capabilities and a store of capabilities, in lanes 0 to 2 and in a window; the load in SOLO mode. -/
theorem test_witness_LaneLoadStore : (∃ h, actorLane (laneM 7 iLd stB) = some h ∧ Issues h (ckOf h) ∧ h = lxOf (laneM 7 iLd stB)) ∧ iLd.wf = true ∧ iStx.wf = true ∧ iStc.wf = true ∧
    (∃ accs sp d rule, memForm (issued iLd 7 stB) iLd = some (false, accs, sp, d, rule) ∧ ∃ ok s3 g3, LaneWindow (issued iLd 7 stB) sp.access accs (memChecks (issued iLd 7 stB) sp d .window) ok s3 g3) ∧
    (∃ accs sp d rule, memForm (issued iStx 7 stX) iStx = some (true, accs, sp, d, rule) ∧ sp.stated = 0 ∧
      ∃ ok s3 g3, LaneWindow (issued iStx 7 stX) sp.access accs (memChecks (issued iStx 7 stX) sp d .window) ok s3 g3) ∧
    (∃ accs sp d rule, memForm (issued iStc 7 stX) iStc = some (false, accs, sp, d, rule) ∧ ∃ ok s3 g3, LaneWindow (issued iStc 7 stX) sp.access accs (memChecks (issued iStc 7 stX) sp d .window) ok s3 g3) ∧
    (∃ rule, memForm xSolo iLd = some (false, accsSolo, spLd, none, rule)) ∧
    ∃ s1 a ps, LaneBegins xSolo 1 accsSolo (memChecks xSolo spLd none .window) xSolo.s xSolo.g ∧
      FirstPass (fun t b => (memChecks xSolo spLd none .whole t b).bind fun u _ => memChecks xSolo spLd none .unit u (b.unit spLd.unit (partOf xSolo.b.part b.l).done)) xSolo.s accsSolo s1 a ps ∧
      blocked s1 xSolo.g.uid (1 != 1) (ps.flatMap (pieceLines s1)) = none := by
  obtain ⟨h, hi⟩ := issues (s := laneM 7 iLd stB) (by decide +kernel) (by decide +kernel)
  refine ⟨⟨_, h, hi, rfl⟩, by decide, by decide, by decide, ?_, ?_, ?_, ⟨_, rfl⟩, ?_⟩
  · exact ⟨_, _, _, _, rfl, lane_window (by decide +kernel) (by decide +kernel)⟩
  · exact ⟨_, _, _, _, rfl, rfl, lane_window (by decide +kernel) (by decide +kernel)⟩
  · exact ⟨_, _, _, _, rfl, lane_window (by decide +kernel) (by decide +kernel)⟩
  · have e : accsSolo = { l := 0, x := (bGet xSolo.g.g 1).cap, va := 0x30000, n := 4, b := some (bGet xSolo.g.g 1, 0) } :: accsSolo.tail := by decide +kernel
    rw [e]
    obtain ⟨s1, ps, h⟩ := lane_direct (x := xSolo) (access := 1) (res := memChecks xSolo spLd none .window)
      (one := fun t b => (memChecks xSolo spLd none .whole t b).bind fun u _ => memChecks xSolo spLd none .unit u (b.unit spLd.unit (partOf xSolo.b.part b.l).done))
      (a := { l := 0, x := (bGet xSolo.g.g 1).cap, va := 0x30000, n := 4, b := some (bGet xSolo.g.g 1, 0) }) (accs := accsSolo.tail) (by decide +kernel) (by decide +kernel)
    exact ⟨s1, _, ps, h⟩

def iRed : Instr := .red (hs (v 3) (v 2)) (mb 1)
def xRed : LX := issued iRed 7 stB
theorem test_witness_LaneReduction : (∃ h, actorLane (laneM 7 iRed stB) = some h ∧ Issues h (ckOf h) ∧ h = lxOf (laneM 7 iRed stB)) ∧ iRed.wf = true ∧
    ∃ access accs res rule, redForm xRed iRed = some (access, accs, res, rule) ∧ ∃ ok s3 g3, LaneWindow xRed access accs res ok s3 g3 := by
  obtain ⟨h, hi⟩ := issues (s := laneM 7 iRed stB) (by decide +kernel) (by decide +kernel)
  exact ⟨⟨_, h, hi, rfl⟩, by decide, _, _, _, _, rfl, lane_window (by decide +kernel) (by decide +kernel)⟩

def iAtom : Instr := .atom (hdrAB (.vreg 6) (v 3) (v 2)) (mb 1)
/-- One lane's event on memory of this node; the words of the event have places of their own. -/
theorem test_witness_LaneAtomic : let x := issued iAtom 1 stB
    let sp : AccSpec := { need := [0, 1, 10], access := 3, align := 4, sp := some false, stated := 0, use := .atomic }
    let a : Acc := { l := 0, x := (bGet x.g.g 1).cap, va := 0x30000, n := 4, b := some (bGet x.g.g 1, 0) }
    Issues (lxOf (laneM 1 iAtom stB)) (ckOf (lxOf (laneM 1 iAtom stB))) ∧ iAtom.wf = true ∧ NoRegion x.g ∧ commitAll x.s x.g.uid = (x.s, .done) ∧ (∀ m ∈ x.s.fab.mcThreads, m.group ≠ x.g.uid) ∧
    (∃ h access ty stick one accs, eventForm x iAtom = some (h, access, accs, one, ty, stick) ∧ accs = [a] ∧ watchTrap x.g false access x.act [a] = none ∧ ∃ t v, FirstPass one x.s [a] t a v) ∧
    ∃ s1 p, resolveAcc x.s x.g sp a = .ok s1 [p] ∧ (∀ n, p.loc.sp ≠ .remote n) ∧ blocked s1 x.g.uid true (linesOf s1.ram p.loc p.n) = none := by
  intro x sp a
  obtain ⟨-, hi⟩ := issues (s := laneM 1 iAtom stB) (by decide +kernel) (by decide +kernel)
  have ha : viaB x (mb 1) (srcW x (hdrAB (.vreg 6) (v 3) (v 2)) 0) 4 = [a] := by decide +kernel
  refine ⟨hi, by decide, .inl (by decide +kernel), by rfl, by decide +kernel, ?_, ?_⟩
  · refine ⟨hdrAB (.vreg 6) (v 3) (v 2), 3, .s32, _, atomLane x.g sp .add .s32 (x.srcUnit 1 (v 2) .s32).1 (fun _ => 0), _, rfl, ha, Option.isNone_iff_eq_none.1 (by decide +kernel), ?_⟩
    obtain ⟨u, w, h⟩ := got_ok (x := atomLane x.g sp .add .s32 (x.srcUnit 1 (v 2) .s32).1 (fun _ => 0) x.s a) (by decide +kernel)
    exact ⟨u, w, .inl ⟨h, rfl⟩⟩
  · have h : (match resolveAcc x.s x.g sp a with
        | .ok s1 [p] => decide (p.loc.sp = .hbm) && (blocked s1 x.g.uid true (linesOf s1.ram p.loc p.n)).isNone
        | _ => false) = true := by decide +kernel
    split at h
    · rename_i s1 p e
      simp only [Bool.and_eq_true, decide_eq_true_eq, Option.isNone_iff_eq_none] at h
      refine ⟨s1, p, e, fun n hn => ?_, h.2⟩
      rw [h.1] at hn
      cases hn
    · exact absurd h (by simp)
theorem test_witness_TileStore : let i := iStt 0x7801; let x := (ckOf (lxOf (laneM 1 i stTile))).fresh 1; let b := bGet x.g.g 1
    actorLane (laneM 1 i stTile) = some (lxOf (laneM 1 i stTile)) ∧ i.wf = true ∧ WholeBlock (lxOf (laneM 1 i stTile)).b ∧ (srcW x { hs (.qreg 0) (.special 100) with dst := .vreg 0 } 1 0).toNat % 4 = 0 ∧
    sttTy 0x7801 = .bf16 ∧ ∃ ok s3 g3, LaneWindow x 2 ((lanesIn x.act).map fun l => { l := l, x := b.cap, va := cAddr b.cap + (l * 4 : Nat), n := 256, b := if cSP b.cap then none else some (b, l * 4) })
      (sttRes x.g { need := [1], access := 2, align := 4, stated := 0, use := .store } .bf16) ok s3 g3 :=
  ⟨by rfl, by decide, by unfold WholeBlock; decide +kernel, by decide +kernel, by decide, lane_window (by decide +kernel) (by decide +kernel)⟩

/-! Matrix instructions (R303 to R330). -/

/-- Memory at 0x30000 holds the bf16 value 1.0 and zeros; v16 holds the bf16 value 2.0 in slot 0. -/
def stMat : State := setV ((16, fun _ => 0x4000) :: (below 7).map fun k => (17 + k, fun _ => 0)) { stB with ram := ramWrite stB.ram (hbmLoc 0x30000) 0 [0x80, 0x3F] }
def matCtx (s : State) : MatCtx := matOf s (gOf s)
def hm (a b : Src) : LaneHdr := hdrAB (.qreg 0) a b
/-- The state after an instruction, an event or a lane instruction of lanes 0 to 2. -/
def after (i : Instr) (s : State) : State := match exec i s with | .next t => t | _ => s
def afterLane (i : Instr) (s : State) : State := after i (lane i s)
def iMstep : Instr := .mstep (hm (v 16) (.special 96)) 0x7900
def iMzero : Instr := .mzero (hm (v 0) (v 0)) 0
theorem test_mstep_form : iMstep.wf = true ∧ iMzero.wf = true ∧ (Instr.mloop (hm (v 16) (.special 8)) 0x7900).wf = true := by decide

/-- MSTEP joins the sequencer queue; the operation starts, and its one step adds A's row times each column of B (R306, R313). -/
noncomputable def stStep : State := after (.matrixOperationStart 0 0) (afterLane iMstep stMat)
theorem test_mstep : ((matCtx (afterLane iMstep stMat)).queue.map fun o => (o.count, o.areg, o.tile)) = [(1, 16, 0)] ∧ (matCtx stStep).run.isSome = true ∧ (matCtx stStep).queue = [] := by decide +kernel
theorem test_matrix_step : rl (aget zeroRow (matCtx (after (.matrixStep 0 0) stStep)).bank 0) 0 = 0x40000000 := by decide +kernel
theorem test_mzero : rl (aget zeroRow (matCtx (after (.matrixOperationStart 0 0) (afterLane iMzero (modMat stMat (gOf stMat).wg 0 fun c => { c with bank := [(0, rowFn fun _ => 5)] })))).bank 0) 0 = 0 := by decide +kernel
/-- MLDA of the .s32 tile at b1: row stride 512 (R321). -/
def iMlda : Instr := .mlda { hm (v 0) (.special 96) with c := .special 100 } 0x1900
noncomputable def stLoad : State := after (.matrixOperationStart 0 0) (afterLane iMlda stMat)
theorem test_mlda : iMlda.wf = true ∧ (matCtx stLoad).run.map (fun o => (o.kind, o.rowStride)) = some (.load, 4) := by decide +kernel
theorem test_mscale : ((matCtx (afterLane (.mscale (hm (v 5) (v 0)) 1) stMat)).queue.map (·.kind)) = [.scale 1 5] ∧
    ((matCtx (afterLane (.mchk (hm (v 0) (v 0)) 0x205) stMat)).queue.map (·.kind)) = [.check 5 true false] := by decide +kernel
theorem test_mloop : ((matCtx (let i := Instr.mloop (hm (v 16) (.special 8)) 0x7900
    after i (onGrp (fun g => { g with g := { g.g with laneQ := g.g.laneQ.map fun b => { b with s := [(8, 64), (9, 4096), (10, 0x020003)] } } }) (lane i stMat)))).queue.map
      fun o => (o.off, o.inc, o.count, o.stride)) = [(64, 4096, 3, 2)] := by decide +kernel
/-- Sixty-three steps of eight registers pass the allocation (R315). -/
theorem test_mloop_bad : (let i := Instr.mloop (hm (v 16) (.special 8)) 0x7900
    gives i (onGrp (fun g => { g with g := { g.g with laneQ := g.g.laneQ.map fun b => { b with s := [(8, 64), (9, 4096), (10, 0x08003F)] } } }) (lane i stMat)) (laneTrap 1 9)) = true := by decide +kernel
theorem test_mjoin : lgives (.mjoin (hm (v 0) (v 0)) 0) stMat (fun t => (gOf t).g.laneQ = []) = true ∧ gives (.mjoin (hm (v 0) (v 0)) 0) (lane (.mjoin (hm (v 0) (v 0)) 0) stStep) (fun t => (gOf t).g.laneQ.length = 1) = true ∧
    gives (.mjoinDrop (hm (v 0) (v 0)) 1) (lane (.mjoinDrop (hm (v 0) (v 0)) 1) stStep) (fun t => (gOf t).g.laneQ = [] && (matCtx t).run = none) = true := by decide +kernel
theorem test_mctx : lgives (.mctxRel (hm (v 0) (v 0)) 1) stMat (fun t => (matCtx t).holder = none && (gOf t).g.laneQ = []) = true ∧
    lgives (.mctxAcq (hm (v 0) (v 0)) 0) (modMat stMat (gOf stMat).wg 0 fun c => { c with holder := none }) (fun t => (matCtx t).holder = some (gOf t).uid) = true ∧
    lgives (.mctxAcq (hm (v 0) (v 0)) 0) (modMat stMat (gOf stMat).wg 0 fun c => { c with holder := some 999 }) (fun t => (matCtx t).waiters = [(gOf t).uid] && (gOf t).g.laneQ.length = 1) = true := by decide +kernel
/-- A tile of ones, converted to .e2m1: eight elements of code 2 per register (R323). -/
def stOnes : State := modMat stB (gOf stB).wg 0 fun c => { c with bank := (below 128).map fun k => (k, rowFn fun _ => 0x3F800000) }
def iMepi : Instr := .mepi { hdrAB (.vreg 8) (.qreg 0) (v 0) with c := .special 132 } 0xA000
theorem test_mepi : iMepi.wf = true ∧ lgives iMepi stOnes (fun t => vreg t 8 5 = 0x22222222 && vreg t 23 95 = 0x22222222) = true := by decide +kernel

theorem issues_matrix {s : State} (h : (actorLane s).isSome = true) (h0 : (let x := lxOf s; let r := RawLane.ofWord x.w
    decide (0x2C0 ≤ r.op.toNat ∧ r.op.toNat ≤ 0x2C9) && decide ((matOf x.s x.g).holder = some x.g.uid) && !keptHit x.g (writesOf r) &&
    ((writesOf r).filter (· < 1000) ++ killsAt x.b.words x.n).all (fun n => !(matVRegs x.s x.g).contains n) && (x.spoiled r).isNone &&
    decide (x.b.splits = 1 ∧ x.b.mask = BitVec.allOnes 96 ∧ x.b.compacting = false)) = true) : actorLane s = some (lxOf s) ∧ IssuesMatrix (lxOf s) := by
  obtain ⟨x, hx⟩ := Option.isSome_iff_exists.1 h
  have e : lxOf s = x := by unfold lxOf; rw [hx]; rfl
  refine ⟨by rw [hx, e], ?_⟩
  simp only [Bool.and_eq_true, Bool.not_eq_true', decide_eq_true_eq, List.all_eq_true, Option.isNone_iff_eq_none] at h0
  obtain ⟨⟨⟨⟨⟨a, b⟩, c⟩, f⟩, e⟩, d⟩ := h0
  refine ⟨a.1, a.2, fun _ => b, c, fun n hn hm => ?_, e, d.1, d.2.1, d.2.2⟩
  have := f n hn
  rw [List.contains_iff_mem.2 hm] at this
  exact Bool.noConfusion this

theorem test_witness_MatrixForked : let x := lxOf (lane iMstep stMat)
    actorLane (lane iMstep stMat) = some x ∧ IssuesMatrix x ∧ iMstep.wf = true ∧ grpOf x.s x.g.uid = some x.g ∧ (matOf x.s x.g).queue.length ≤ 4 ∧
    ∃ o, matForm x iMstep = some o ∧ o.kind = .steps ∧ loopBad x.s x.g o = false := by
  obtain ⟨h, hi⟩ := issues_matrix (s := lane iMstep stMat) (by decide +kernel) (by decide +kernel)
  exact ⟨h, hi, by decide, by rfl, by decide +kernel, _, rfl, by decide, by decide +kernel⟩
theorem test_witness_MatrixContext : let i := Instr.mctxRel (hm (v 0) (v 0)) 1; let x := lxOf (lane i stMat)
    actorLane (lane i stMat) = some x ∧ grpOf x.s x.g.uid = some x.g ∧ Joined x.s x.g ∧ commitAll x.s x.g.uid = (x.s, .done) ∧ x.s.fab.mcThreads = [] ∧ (matOf x.s x.g).holder = some x.g.uid ∧ (∃ y, wgBy x.s x.g.wg = some y) ∧
    IssuesMatrix (lxOf (lane (.mjoin (hm (v 0) (v 0)) 0) stMat)) := by
  obtain ⟨-, hi⟩ := issues_matrix (s := lane (.mjoin (hm (v 0) (v 0)) 0) stMat) (by decide +kernel) (by decide +kernel)
  exact ⟨by rfl, by rfl, ⟨by decide +kernel, by decide +kernel, by decide +kernel⟩, by rfl, by rfl, by decide +kernel, ⟨_, rfl⟩, hi⟩
def iMsta : Instr := .msta { hdrAB (.vreg 0) (.qreg 0) (.special 100) with c := .special 132 } 0xA001
theorem test_witness_MatrixEpilogue : let x := lxOf (lane iMepi stOnes); let y := (lxOf (lane iMsta stOnes)).fresh 1; let b := bGet y.g.g 1
    actorLane (lane iMepi stOnes) = some x ∧ IssuesMatrix x ∧ Joined x.s x.g ∧ (takeCkpt x.s x.g (upto 8 16) []).isSome = true ∧ tyWidth (epiTy 0xA000) = 4 ∧ iMsta.wf = true ∧
    IssuesMatrix (lxOf (lane iMsta stOnes)) ∧ cAddr b.cap % 4 = 0 ∧ ∃ ok s3 g3, LaneWindow y 2 ((lanesIn y.act).map fun l => { l := l, x := b.cap, va := cAddr b.cap + (l * 4 : Nat), n := 64, b := none })
      (mstaRes y.g b { need := [1], access := 2, align := 1, use := .store } 0) ok s3 g3 := by
  obtain ⟨h, hi⟩ := issues_matrix (s := lane iMepi stOnes) (by decide +kernel) (by decide +kernel)
  obtain ⟨-, hj⟩ := issues_matrix (s := lane iMsta stOnes) (by decide +kernel) (by decide +kernel)
  exact ⟨h, hi, ⟨by decide +kernel, by decide +kernel, by decide +kernel⟩, by decide +kernel, by decide, by decide, hj, by decide +kernel, lane_window (by decide +kernel) (by decide +kernel)⟩
theorem test_msta : lgives iMsta stOnes (fun t => (gOf t).g.laneQ = [] && (bufOf (gOf t)).length ≥ 96) = true := by decide +kernel

/-! Collective engine commands (R349 to R362, R373 to R375). -/

/-- A list of the placed group in context 0 of engine 0: slot 0 is memory at 0x30000, slot 1 memory at 0x31000, slot 2 the barrier at 0x400, slot 3 the next page of this
node's aperture; counter 0 is 2. -/
def stCe : State :=
  let s := { placeList stMem with actor := .ce 0 0 0 none }
  { s with ces := s.ces.map fun l => { l with e := [area 0x30000 0x1000, area 0x31000 0x1000, pad 0x400 16, area (2 ^ 56) 0x1000] ++ List.replicate 12 capNull, n := [2, 0xFFFFFFFFFFFFFFFF] ++ List.replicate 6 0 } }
def ceOf (s : State) : CeList := (ceAt s 0 0 0).getD default
def fs (l : Word) : CeFields := { s := 0, d := 1, k := 2, nb := true, t := 0, x := 0, ix := false, m := 0, l := l }
/-- The list counter, and counter 0. -/
def ceAfter (i : Instr) (s : State) : Nat × Option DWord := match exec i s with | .next t => ((ceOf t).pc, (ceOf t).n[0]?) | _ => (0, none)

theorem test_enop : ceAfter .enop stCe = (0x10008, some 2) := by decide +kernel
theorem test_eadd : ceAfter (.eadd (fs 0xFFFFFFFF)) stCe = (0x10008, some 1) := by decide +kernel
theorem test_ebr : ceAfter (.ebr { fs 4 with m := 1 }) stCe = (0x10020, some 2) ∧ ceAfter (.ebr { fs 4 with m := 0 }) stCe = (0x10008, some 2) ∧ ceAfter (.ebr { fs 0xFFFFFFFF with m := 2, x := 1 }) stCe = (0xFFF8, some 2) := by decide +kernel
theorem test_eloop : ceAfter (.eloop (fs 0xFFFFFFFF)) stCe = (0xFFF8, some 1) := by decide +kernel
theorem test_eend : gives .eend stCe (fun t => t.ces.map (fun l => (l.st, l.ctx)) = [(.ended, none)]) = true := by decide +kernel
/-- EARRIVE adds its count (R279); EWAIT goes on at phase 0, parks at phase 1 (R286, R360). -/
theorem test_earrive : gives (.earrive (fs 1)) stCe (fun t => ramNat t.ram (padAt 0x400) 4 = 0x00020001 && (ceOf t).pc = 0x10008) = true := by decide +kernel
theorem test_ewait : ceAfter (.ewait (fs 0)) stCe = (0x10008, some 2) ∧ gives (.ewait (fs 1)) stCe (fun t => (ceOf t).waiting && (ceOf t).pc = 0x10000) = true := by decide +kernel
theorem test_esend : gives (.esend { fs 8 with t := 0 } 0x1122334455667788) stCe (fun t => ramNat t.ram (hbmLoc 0x31008) 8 = 0x55667788 && (ceOf t).pc = 0x10010) = true := by decide +kernel
theorem test_esig : gives (.esig { fs 0x40 with d := 0 } 5) stCe (fun t => ramNat t.ram (hbmLoc 0x30040) 8 = 0x87654326) = true := by decide +kernel
/-- A data command under way, d of whose bytes have landed, with the bytes read that are yet to land; the list at the next command (R359, R363). -/
def cmd (d : Nat) (got : List Byte) : CeCmd :=
  { uid := 900, pc := 0x10000, w0 := 0, w1 := 0, w2 := 0, n := [2, 0xFFFFFFFFFFFFFFFF] ++ List.replicate 6 0, done := d, due := d, got := got, tag := false, flights := [], asking := false, stop := none }
def onCmd (c : CeCmd) (s : State) : State := { s with actor := .ce 0 0 0 (some 0), ces := s.ces.map fun l => { l with pc := 0x10010, cmds := [c] } }
def cmdAfter (t : State) : CeCmd := ((ceOf t).cmds)[0]?.getD (cmd 0 [])
def word4 : List Byte := [0x21, 0x43, 0x65, 0x87]
/-- The stop of a command. -/
def stopped (k d : Nat) (t : State) : Bool := (ceOf t).cmds.any fun c => c.stop.any fun r => r.kind = k && r.detail = d
/-- A command starts with its words; a granule is read, then written; a slot on the wrong side is SCOPEFAULT detail 7 (R356, R359, R363). -/
theorem test_eput : gives (.eput (fs 32) 0 0x40) stCe (fun t => (ceOf t).pc = 0x10010 && (ceOf t).cmds.map (fun c => (c.pc, c.done)) = [(0x10000, 0)]) = true ∧
    gives (.eput (fs 32) 0 0x40) (onCmd (cmd 0 []) stCe) (fun t => (cmdAfter t).got.take 4 = word4 && (cmdAfter t).got.length = 16 && ramNat t.ram (hbmLoc 0x31000) 4 = 0) = true ∧
    gives (.eput (fs 32) 0 0x40) (onCmd (cmd 0 (word4 ++ List.replicate 12 0)) stCe) (fun t => ramNat t.ram (hbmLoc 0x31000) 4 = 0x87654321 && (cmdAfter t).done = 16 && (cmdAfter t).got = []) = true ∧
    gives (.eput { fs 32 with s := 3 } 0 0) (onCmd (cmd 0 []) stCe) (stopped 5 7) = true := by decide +kernel
theorem test_eget : gives (.eget (fs 4) 4 0x40) (onCmd (cmd 0 word4) stCe) (fun t => ramNat t.ram (hbmLoc 0x31004) 4 = 0x87654321 && (cmdAfter t).done = 4) = true := by decide +kernel
theorem test_ered : gives (.ered { fs 4 with d := 0, t := 2 } 0x40 0x40) (onCmd (cmd 0 word4) stCe) (fun t => ramNat t.ram (hbmLoc 0x30040) 4 = 0x0ECA8642 && (cmdAfter t).due = 4) = true := by decide +kernel
theorem test_emcast : gives (.emcast { fs 16 with d := 3 } 0 0x40) (onCmd (cmd 0 (word4 ++ List.replicate 12 0)) stCe) (fun t => t.fab.mcThreads.map (fun m => (m.grp, m.off, m.data.take 4)) = [(0, 0, word4)] && (cmdAfter t).done = 16) = true ∧
    gives (.emcast (fs 16) 0 0) (onCmd (cmd 0 []) stCe) (stopped 5 7) = true := by decide +kernel
/-- Eight commands are under way: the ninth waits (R363). A command that has landed and counted all its bytes ends. -/
theorem test_data_room : gives (.eput (fs 32) 0 0x40) { stCe with ces := stCe.ces.map fun l => { l with cmds := List.replicate 8 (cmd 0 []) } } (fun t => (ceOf t).pc = 0x10000 && (ceOf t).cmds.length = 8) = true ∧
    gives (.eput (fs 32) 0 0x40) (onCmd { cmd 32 [] with due := 0 } stCe) (fun t => (ceOf t).cmds = [] && (ceOf t).pc = 0x10010) = true := by decide +kernel
/-- An endpoint in force: ENPUT leaves for it and the command waits; no endpoint is SCOPEFAULT detail 7 (R373, R374). -/
def stEp : State := { stCe with fab := { stCe.fab with endpoints := [(6, { epNone with valid := true })] } }
def nw : NetWords := { endpoint := 6, region := 9, localOff := 0x40, remoteOff := 0x100 }
theorem test_enput : gives (.enput (fs 4) nw) (onCmd (cmd 0 word4) stEp) (fun t => t.outbox = [.uePut 900 6 9 0x100 word4] && (cmdAfter t).asking) = true ∧
    gives (.enput (fs 4) nw) (onCmd (cmd 0 []) stCe) (stopped 5 7) = true := by decide +kernel
theorem test_enget : gives (.enget (fs 4) nw) (onCmd (cmd 0 []) stEp) (fun t => t.outbox = [.ueGet 900 6 9 0x100 4] && (cmdAfter t).asking) = true := by decide +kernel
theorem test_esnap : gives (.esnap (fs 8) 0x40 0) (onCmd (cmd 0 []) stCe) (fun t => (cmdAfter t).got = word4 ++ [0, 0, 0, 0]) = true ∧
    gives (.esnap (fs 8) 0x40 0) (onCmd (cmd 0 (word4 ++ [0, 0, 0, 0])) stCe) (fun t => ramNat t.ram (hbmLoc 0x31000) 4 = 0x87654321 && (cmdAfter t).done = 4) = true := by decide +kernel
theorem test_bad_ce : gives (.unassignedCeCommand 0xFF 0 1 2) stCe (fun t => t.ces.any fun l => l.st = .stopped && l.stop.any fun r => r.kind = 1 && r.detail = 2) = true := by decide +kernel

theorem runs_ce : actorCe stCe = some (ceOf stCe, none) := by rfl
theorem test_witness_CeControlAndSignal : (ceControl (ceOf stCe) (.ebr { fs 0xFFFFFFFF with m := 1 })).isSome = true ∧ (ceOf stCe).cmds = [] ∧
    (match ceBarLoc stCe (ceOf stCe) 2 [10, 0, 1, 12] with | .ok p => decide (p = padAt 0x400) | _ => false) = true ∧ (blocked stCe (ceOf stCe).uid true (linesOf stCe.ram (padAt 0x400) 16)).isNone = true ∧
    barFree stCe (ceOf stCe).uid (padAt 0x400) = true ∧ waitRes stCe (ceOf stCe).die (padAt 0x400) 0 = some 0 ∧ waitRes stCe (ceOf stCe).die (padAt 0x400) 1 = none ∧
    (match checkUse (area 0x31000 0x1000) [1, 12] 0x31008 4 6 false none (engPad stCe (ceOf stCe).agt) with | .ok () => true | _ => false) = true ∧
    (∃ s1 ps s2 u, engReady stCe (ceOf stCe).agt (hostOkL stCe (ceOf stCe).launch) (area 0x31000 0x1000) [1, 12] 0x31008 4 = .ok s1 ps ∧
      engPut s1 (ceOf stCe).agt (area 0x31000 0x1000) 0 ps (leBytes 4 7) = .ok s2 u) ∧
    (∃ s1 u, engRmw stCe (ceOf stCe).agt (hostOkL stCe (ceOf stCe).launch) (area 0x30000 0x1000) 0x30040 8 (.atomic .add .z64 5 0) (fun old => atomNew .add .z64 old 5) = .ok s1 u) ∧
    (ceOf stCe).owner = some (ceOf stCe).group ∧ ∃ g, grpOf stCe (ceOf stCe).group = some g ∧ g.ended = false := by
  refine ⟨by decide +kernel, by decide +kernel, by decide +kernel, by decide +kernel, by decide +kernel, by decide +kernel, by decide +kernel, by decide +kernel, ?_, got_ok (by decide +kernel),
    by decide +kernel, ⟨_, rfl, by decide +kernel⟩⟩
  have h : (match engReady stCe (ceOf stCe).agt (hostOkL stCe (ceOf stCe).launch) (area 0x31000 0x1000) [1, 12] 0x31008 4 with
    | .ok s1 ps => isOk (engPut s1 (ceOf stCe).agt (area 0x31000 0x1000) 0 ps (leBytes 4 7)) | _ => false) = true := by decide +kernel
  split at h
  · rename_i s1 ps e
    obtain ⟨s2, u, hu⟩ := got_ok h
    exact ⟨s1, ps, s2, u, e, hu⟩
  · exact absurd h (by simp)

/-- A command of the list, whose turn it is. -/
def sc (d : Nat) (got : List Byte) : State := onCmd (cmd d got) stCe
def unit16 : List Byte := word4 ++ List.replicate 12 0
/-- A data command that starts; one that has a unit to read, to write, to count, and none left; the forms that ask the other side and that reduce. -/
theorem test_witness_CeDataCommand : ceWords (.eput (fs 32) 0 0x40) = some 2 ∧ (ceOf stCe).cmds.length < 8 ∧ actorCe (sc 0 []) = some (ceOf (sc 0 []), some (cmd 0 [])) ∧
    (∃ f, ceData_ (sc 0 []) ((cmd 0 []).view (ceOf (sc 0 []))) (cmd 0 []) (.eput (fs 32) 0 0x40) = some (f, none, false) ∧ CountsOn (sc 0 []) ((cmd 0 []).view (ceOf (sc 0 []))) f none ∧ f.l.toNat = 32) ∧
    (∃ f, ceData_ (onCmd (cmd 0 []) stEp) ((cmd 0 []).view (ceOf (onCmd (cmd 0 []) stEp))) (cmd 0 []) (.enput (fs 4) nw) = some (f, none, false)) ∧
    (∃ f, ceData_ (sc 0 []) ((cmd 0 []).view (ceOf (sc 0 []))) (cmd 0 []) (.emcast { fs 16 with d := 3 } 0 0) = some (f, none, false)) ∧
    (∃ f, ceData_ (sc 0 []) ((cmd 0 []).view (ceOf (sc 0 []))) (cmd 0 []) (.ered { fs 4 with d := 0, t := 2 } 0x40 0x40) = some (f, none, false)) ∧
    (∃ s1 u, engCount stCe 900 0 (padAt 0x400) 16 = .ok s1 u) ∧
    (∃ s1 d, engRead stCe ((cmd 0 []).agt (ceOf stCe)) (hostOkL stCe (ceOf stCe).launch) (area 0x30000 0x1000) 0x30040 4 = .ok s1 d) ∧
    (∃ s1 c, engReadCap stCe ((cmd 0 []).agt (ceOf stCe)) (hostOkL stCe (ceOf stCe).launch) (area 0x30000 0x1000) 0x30040 = .ok s1 c) ∧
    (∃ s1 ps, engReady stCe ((cmd 0 []).agt (ceOf stCe)) (hostOkL stCe (ceOf stCe).launch) (area 0x31000 0x1000) [1, 12] 0x31000 16 = .ok s1 ps) ∧
    (checkUse (area (2 ^ 56) 0x1000) [1, 12] (2 ^ 56) 16 6 false none (engPad stCe ((cmd 0 []).agt (ceOf stCe)))).toBool = true ∧ (unsealed stCe (ceOf stCe).pcid (2 ^ 56) 6 (area (2 ^ 56) 0x1000)).isNone = true :=
  ⟨rfl, by decide +kernel, by rfl, ⟨_, rfl, .inl ⟨rfl, rfl⟩, by decide⟩, ⟨_, rfl⟩, ⟨_, rfl⟩, ⟨_, rfl⟩, got_ok (by decide +kernel), got_ok (by decide +kernel), got_ok (by decide +kernel),
    got_ok (by decide +kernel), by decide +kernel, by decide +kernel⟩
/-- A queued list and free contexts; an EWAIT that waits; a command that waits for the other side. -/
def stQueued : State := { stCe with ces := stCe.ces.map fun l => { l with st := .queued, ctx := none } }
noncomputable def stParked : State := { stCe with ces := stCe.ces.map fun l => { l with waiting := true, word := (fs 0).word 6 } }
noncomputable def put4 : CeCmd :=
  let w := (encodeCe (.enput (fs 4) nw)).getD []
  { cmd 0 word4 with w0 := w.getD 0 0, w1 := w.getD 1 0, w2 := w.getD 2 0, asking := true, due := 0 }
noncomputable def stPut : State := onCmd put4 stEp
theorem test_ceListStart : gives (.ceListStart 0 0) stQueued (fun t => t.ces.map (fun l => (l.st, l.ctx)) = [(.running, some 0)]) = true := by decide +kernel
theorem test_ewaitRelease : gives (.ewaitRelease 0 0 0) stParked (fun t => !(ceOf t).waiting && (ceOf t).pc = 0x10008) = true := by decide +kernel
theorem test_ueResponse : gives (.ueResponse 900 [] true) stPut (fun t => !(cmdAfter t).asking && (cmdAfter t).done = 4) = true := by decide +kernel
theorem test_ueFailure : gives (.ueTransportFailure 900) stPut (fun t => t.ces.map (fun l => (l.st, l.ctx)) = [(.error, none)]) = true := by decide +kernel
theorem test_witness_CeEvents : (stQueued.ces.find? fun o => o.die = 0 && o.engine = 0 && o.st = .queued).isSome = true ∧ (∀ o ∈ stQueued.ces, ¬ (o.die = 0 ∧ o.engine = 0 ∧ o.ctx = some 0 ∧ (o.st = .running ∨ o.st = .stopped))) ∧
    (ceAt stParked 0 0 0 = some (ceOf stParked) ∧ (ceOf stParked).waiting = true ∧ ceOp (ceOf stParked).word = 6) ∧ ceFields ((fs 0).word 6) = fs 0 ∧ stParked.power = .run ∧
    cmdOf stPut 900 = some (ceOf stPut, put4) ∧ (netWait (ceOf stPut) put4).2.2 = (4, false) :=
  ⟨by decide +kernel, by decide +kernel, ⟨by rfl, by decide +kernel, by decide +kernel⟩, by decide, by decide +kernel, by rfl, by decide +kernel⟩

/-! Queue records (R377 to R395). -/

/-- Queue 0 at its record 0, for the placed context. -/
def stQ : State := { placeQueue stMem with actor := .queue 0 }
def q0 (t : State) : Que := queOf t 0
def qgives (i : Instr) (s : State) (f : State → Bool) : Bool := gives i s f

theorem test_qnop : qgives (.qnop false) stQ (fun t => (q0 t).rd = 1) = true ∧ qgives (.qnop true) stQ (fun t => (q0 t).rd = 0 && (q0 t).state = 2) = true ∧
    qgives (.qnop true) { stQ with launches := [] } (fun t => (q0 t).rd = 1) = true := by decide +kernel
theorem test_qjump : qgives (.qjump false 7) stQ (fun t => (q0 t).rd = 7) = true ∧ qgives (.qprio false 2) stQ (fun t => (q0 t).prio = 2 && (q0 t).rd = 1) = true := by decide +kernel
/-- A begin makes its object current and clears it; an end makes none current (R383, R392). -/
def stLv : State := { stQ with chip := { stQ.chip with levels := [(9, { out := 3, done := 4, cancelled := true })] } }
theorem test_markers : qgives (.qgraph false 1 9) stLv (fun t => (q0 t).graph = some 9 && (levelOf t 9).out = 0 && !(levelOf t 9).cancelled) = true ∧
    qgives (.qphase false 2 9) stLv (fun t => (q0 t).phase = none && (levelOf t 9).out = 3) = true ∧ qgives (.qjob false 0 9) stLv (fun t => (q0 t).rd = 1) = true := by decide +kernel
theorem test_qcancel : qgives (.qcancel false 1 8) stQ (fun t => (levelOf t 8).cancelled && (q0 t).rd = 1) = true ∧ qgives (.qcancel false 4 0) stQ (fun t => (q0 t).stat = 0x082F) = true := by decide +kernel
/-- The semaphore at 0x30040 holds 0x87654321 (R390, R391). -/
theorem test_qwait : qgives (.qwait false 2 0x30040 0x87654321 0) stQ (fun t => (q0 t).rd = 1) = true ∧ qgives (.qwait false 3 0x30040 0x87654321 0) stQ (fun t => (q0 t).rd = 0 && (q0 t).state = 2) = true ∧
    qgives (.qwait false 7 0x30040 0x87654322 0) stQ (fun t => (q0 t).rd = 0) = true := by decide +kernel
theorem test_qsignal : qgives (.qsignal false 1 0x30040 5) stQ (fun t => ramNat t.ram (hbmLoc 0x30040) 8 = 0x87654326 && (q0 t).rd = 1) = true ∧
    qgives (.qsignal false 2 0x30040 5) stQ (fun t => ramNat t.ram (hbmLoc 0x30040) 8 = 0x87654321) = true := by decide +kernel
theorem test_qcount : qgives (.qcount false 1 9 0x30080) stLv (fun t => ramNat t.ram (hbmLoc 0x30080) 8 = 3 && ramNat t.ram (hbmLoc 0x30088) 8 = 4) = true := by decide +kernel
theorem test_bad_op : qgives (.unassignedQueueOp 0x20 1 0x20) stQ (fun t => (q0 t).stat = 0x00202007 && (q0 t).frd = 0) = true := by decide +kernel

/-- A code object of one kernel, or one task, of 8 registers at 0x40000, and a launch block of it at 0x44000 (R68 to R70, R386). -/
def stXco (task : Bool) : State :=
  let z (n : Nat) : List Byte := List.replicate n 0
  let w (a : Nat) (b : List Byte) (r : Ram) : Ram := ramWrite r (hbmLoc a) 0 b
  let sec (k o n : Nat) : List Byte := leBytes 4 k ++ leBytes 4 4 ++ leBytes 8 o ++ leBytes 4 n
  let r := w 0x40000 (leBytes 4 0x094F4358 ++ leBytes 2 1 ++ leBytes 2 128 ++ z 16 ++ leBytes 2 3 ++ leBytes 2 1 ++ z 4 ++ leBytes 8 128 ++ leBytes 8 224 ++ leBytes 8 372) stQ.ram
  let r1 := w 0x400C0 (sec 3 368 4) (w 0x400A0 (sec 2 356 12) (w 0x40080 (sec 1 352 4) r))
  let r2 := w 0x44000 (leBytes 8 0x40000) (w 0x400E0 (z 4 ++ [if task then 2 else 1, 0, 0, 0, 8, 0, 1] ++ z 9 ++ leBytes 4 4 ++ z 4 ++ leBytes 4 12) r1)
  { stQ with ram := r2, fab := { stQ.fab with nodeSet := true }, chip := { stQ.chip with shelves := [(3, { shelfNone with cap := 8, pcid := 65535, flags := 1 })] } }
theorem test_qlaunch : qgives (.qlaunch false 0x44000 0 2) (stXco false) (fun t => (q0 t).rd = 1 && (t.launches.drop 1).map (fun l => (l.count, l.kd.regs, cAddr l.pcc, cAddr l.lcc)) = [(2, 8, 0x40160, 0x40164)]) = true := by decide +kernel
theorem test_qlaunch_bad : qgives (.qlaunch false 0x44000 0 1) (stXco true) (fun t => (q0 t).stat = 0x013B) = true ∧ qgives (.qlaunch false 0x44000 0 0) (stXco false) (fun t => (q0 t).stat = 0x0137) = true := by decide +kernel
theorem test_qtask : qgives (.qtask false 3 0x44000 0 2) (stXco true) (fun t => (q0 t).rd = 1 && (shelfOf t 3).recs.length = 2) = true := by decide +kernel

theorem got_unit {x : Got Unit} (h : isOk x = true) : ∃ s, x = .ok s () := by
  obtain ⟨s, u, h⟩ := got_ok h
  exact ⟨s, h⟩
theorem test_witness_QueueRecord : Serves stQ 0 (q0 stQ) false ∧ Serves { stQ with launches := [] } 0 (q0 stQ) true ∧ openLnchs stQ 0 ≠ [] ∧ recordForm (.qprio true 2) = some (11, true) ∧
    (∃ f, markerForm (.qjob false 1 1023) = some (1, 1023, f)) :=
  ⟨⟨rfl, rfl, fun h => absurd h (by simp)⟩, ⟨rfl, rfl, fun _ => by rfl⟩, by decide +kernel, rfl, _, rfl⟩
theorem test_witness_QueueAccess : (∃ s1 b, qpRead stQ 0 (q0 stQ).pcid 0x30040 8 = .ok s1 b) ∧ cmpRule 7 0x87654321 0x87654321 0 ∧ ¬ cmpRule 7 0x87654321 0x87654322 0 ∧
    (∃ s1, qpRmw stQ (qpName 0) (q0 stQ).pcid 0x30040 .add 5 (fun v => sigRule 1 v 5) = .ok s1 ()) ∧ (∃ s1, qpWrite stQ 0 (q0 stQ).pcid 0x30080 (leBytes 8 0 ++ leBytes 8 0) = .ok s1 ()) ∧
    (match qpRead stQ 0 (q0 stQ).pcid (2 ^ 50) 8 with | .fault _ _ => true | _ => false) = true := by
  refine ⟨got_ok (by decide +kernel), ?_, ?_, got_unit (by decide +kernel), got_unit (by decide +kernel), by decide +kernel⟩
  all_goals unfold cmpRule; decide
/-- A launch of two groups and a task launch of two records. -/
theorem test_witness_LaunchAccepted (task : Bool) : Serves (stXco task) 0 (q0 (stXco task)) false ∧ (stXco task).fab.nodeSet = true ∧ (ctxOf (stXco task) (q0 (stXco task)).pcid).valid = true ∧
    shelfServes (stXco task) 3 (q0 (stXco task)).pcid = true ∧
    (match qpRead (stXco task) 0 (q0 (stXco task)).pcid 0x44000 192 with
      | .ok s1 b => decide (blockBad b = none) && (match readXco s1 0 (q0 (stXco task)).pcid b with
        | .ok s2 o => decide (kindBad s2 (q0 (stXco task)).pcid o.k { block := 0x44000, sem := 0, count := 2, shelf := if task then some 3 else none } = none) &&
          (match launchCaps (q0 (stXco task)).root o task b 2 with | .ok _ => true | _ => false) && decide (lnchBy s2 s2.uid = none)
        | _ => false)
      | _ => false) = true ∧ (ctxOf (stXco task) (q0 (stXco task)).pcid).handler = 0 := by
  cases task
  all_goals exact ⟨⟨rfl, rfl, fun h => absurd h (by simp)⟩, rfl, by decide +kernel, by decide +kernel, by decide +kernel, by decide +kernel⟩

/-- Queue 0 in state 2 before a QWAIT for a value at or above 0x87654321 or above it. -/
noncomputable def stWaiting (cmp : BitVec 3) : State :=
  let w : Nat := match encodeQueue (.qwait false cmp 0x30040 0x87654321 0) with | some v => v.toNat | none => 0
  let s := { stQ with ram := ramWrite stQ.ram (hbmLoc 0x10000) 0 (leBytes 32 w), actor := .none }
  setQue s 0 ((q0 s).setState 2)
theorem test_qwaitReread : gives (.qwaitReread 0) (stWaiting 2) (fun t => (q0 t).rd = 1 && (q0 t).state = 1) = true ∧ gives (.qwaitPoll 0) (stWaiting 3) (fun t => (q0 t).rd = 0 && (q0 t).state = 2) = true := by decide +kernel
theorem test_qwr : gives (.qwrWrite 0 16) stQ (fun t => (q0 t).wr = 16) = true ∧ gives (.qwrWrite 0 17) stQ (fun t => (q0 t).stat = 0x27) = true := by decide +kernel
/-- A queue that is not enabled; a ring size of 2^3 or 2^21 entries fails it (R379). -/
def stOff : State := setQue { stQ with chip := { stQ.chip with ctxCount := 0x10000 }, ram := ramWrite stQ.ram (hbmLoc (64 * 65535 + 32)) 0 [1, 0] } 0 { q0 stQ with ctl := 0, stat := 0, wr := 0, rootp := 7 }
theorem test_queueEnable : gives (.queueEnable 0 0xFFFF0104) stOff (fun t => (q0 t).state = 1 && (q0 t).en && cPerms (q0 t).root = 7) = true ∧ gives (.queueEnable 0 0xFFFF0103) stOff (fun t => (q0 t).stat = 0x33) = true ∧
    gives (.queueEnable 0 0xFFFF0114) stOff (fun t => (q0 t).state = 1) = true ∧ gives (.queueEnable 0 0xFFFF0115) stOff (fun t => (q0 t).stat = 0x33) = true := by decide +kernel
theorem test_queueDisable : gives (.queueDisable 0 0) stQ (fun t => (q0 t).state = 0 && !(q0 t).en) = true ∧ gives (.lvcancel 9) stLv (fun t => (levelOf t 9).cancelled) = true := by decide +kernel
theorem test_queueFull : gives (.queueFullTimeout 0) (setQue stQ 0 { q0 stQ with wr := 16, ctl := (q0 stQ).ctl ||| 0x80 }) (fun t => t.chip.evLost = 1) = true ∧ gives (.queueFullTimeout 0) stQ (fun t => t.chip.evLost = 0) = true := by
  decide +kernel
theorem test_witness_QueueEvents : (q0 (stWaiting 2)).en = true ∧ (q0 (stWaiting 2)).state = 2 ∧ (q0 (stWaiting 2)).rd ≠ (q0 (stWaiting 2)).wr ∧ pushing (stWaiting 2) 0 = false ∧
    (match ringRecord { stWaiting 2 with actor := .queue 0 } 0 (q0 (stWaiting 2)) with | .ok _ r => decide (some (BitVec.ofNat 256 r) = encodeQueue (.qwait false 2 0x30040 0x87654321 0)) | _ => false) = true ∧
    (q0 stQ).dev = false ∧ (q0 stOff).en = false ∧ (readCtx stOff 0xFFFF).valid = true ∧ 0xFFFF < stOff.chip.ctxCount.toNat ∧ ringFull (setQue stQ 0 { q0 stQ with wr := 16 }) 0 = true ∧ ringFull stQ 0 = false := by decide +kernel

/-! Events of slots, windows, engines and the dispatcher. -/

def stYield : State := onSplit (fun x => { x with st := .yield 5 }) st
theorem test_yieldDelay : gives (.yieldDelayExpiry 0 0 0) stYield (fun t => (xOf t).st = .ready) = true ∧ gives (.soloCountExpiry 0 0) (onGrp (fun g => { g with solo := some 0 }) st) (fun t => (gOf t).solo = none) = true := by decide +kernel
/-- Parked for phase 0, which has ended, and for phase 1, which has not. -/
def stPh (p : Word) : State := onSplit (fun x => { x with st := .waitph (padAt 0x400) p 8 none }) (setR [(8, 9)] stMem)
theorem test_waitphRelease : gives (.waitphRelease 0 0 0) (stPh 0) (fun t => (xOf t).st = .ready && reg t 8 = 0 && pcOf t = 0x10004) = true ∧ gives (.waitphRelease 0 0 0) (stPh 1) (fun t => (xOf t).st = .waitph (padAt 0x400) 1 8 none) = true := by
  decide +kernel
def stSleep : State := onGrp (fun g => { g with dormant := some { obj := padAt 0x400, p := 0, res := 8 } }) (setR [(8, 9)] stMem)
theorem test_reactivation : gives (.groupReactivation (gOf stMem).uid) stSleep (fun t => (grpOf t (gOf stMem).uid).any fun g => g.dormant.isNone && g.slot = 0 && (g.g.split 0).any fun y => sGet y 8 = 0) = true := by decide +kernel
theorem over_at {s : State} {g : Grp} (h : (!heldLine s g.uid false (linesOf s.ram (padAt 0x400) 16) && decide (testPhase (barFields (ramRead s.ram (padAt 0x400) 16)) 0 = 0) && s.proxies.isEmpty) = true) : Over s g (padAt 0x400) 0 0 := by
  simp only [Bool.and_eq_true, Bool.not_eq_true', decide_eq_true_eq, List.isEmpty_iff] at h
  refine ⟨h.1.1, h.1.2.symm, by decide, fun _ ⟨y, hy, _⟩ => ?_⟩
  rw [h.2] at hy
  exact absurd hy (by simp)
theorem test_witness_SlotEvents : (∃ g x, grpAt stYield 0 0 = some g ∧ g.g.split x.idx = some x ∧ x.st = .yield 5) ∧
    (∃ g x, grpAt (stPh 0) 0 0 = some g ∧ g.g.split x.idx = some x ∧ x.st = .waitph (padAt 0x400) 0 8 none ∧ pendingStop (stPh 0) g = none ∧ Over (stPh 0) g (padAt 0x400) 0 0 ∧ ¬ Seizes g x [(8, 0)]) ∧
    ∃ h d, grpOf stSleep h.uid = some h ∧ h.dormant = some d ∧ h.saved = false ∧ h.ended = false ∧ pendingStop stSleep h = none ∧ Over stSleep { h with core := 0 } d.obj d.p 0 ∧
      (wakeCores stSleep h).findSome? (fun c => (coreSlot { stSleep with grps := stSleep.grps.filter fun z => z.uid ≠ h.uid } c h.regs h.task).map fun k => (c, k)) = some (0, 0) := by
  refine ⟨⟨gOf stYield, xOf stYield, by rfl, by rfl, by decide +kernel⟩, ⟨gOf (stPh 0), xOf (stPh 0), by rfl, by rfl, by decide +kernel, Option.isNone_iff_eq_none.1 (by decide +kernel), over_at (by decide +kernel), not_seizes (by decide +kernel)⟩,
    (grpOf stSleep (gOf stMem).uid).getD (gOf stMem), { obj := padAt 0x400, p := 0, res := 8 }, by rfl, by decide +kernel, by decide +kernel, by decide +kernel, Option.isNone_iff_eq_none.1 (by decide +kernel), over_at (by decide +kernel), by decide +kernel⟩

/-- A closed window, and one that a conflict has hit (R242, R247). -/
def stClosed : State := onGrp (fun g => { g with wins := g.wins.map fun w => { w with closed := true } }) stWin
def stHit : State := onGrp (fun g => { g with wins := g.wins.map fun w => { w with hit := true } }) stWin
theorem test_windowCommit : gives (.windowCommit 0 0) stClosed (fun t => (gOf t).wins = [] && ramNat t.ram (hbmLoc 0x30008) 4 = reg t 7 && t.drains.length = 1) = true ∧
    gives (.windowCommit 0 0) stHit (fun t => (gOf t).wins.all (fun w => w.buf = [] && !w.hit) && pcOf t = 0x10000 && (gOf t).rbcount = 1) = true := by decide +kernel
theorem test_drain : gives .storeDrain { st with drains := [{ group := 3, line := hbmLoc 0 }, { group := 4, line := hbmLoc 128 }] } (fun t => t.drains.map (·.group) = [4]) = true := by decide +kernel
def stWalk : State := { stMem with walks := [{ die := 0, pcid := 65535, va := 0x31, inst := 8, starved := false }, { die := 0, pcid := 65535, va := 0x30, inst := 7, starved := false }] }
/-- The page of the two walks is one of 16 GiB: they have joined (R210). -/
theorem test_walk : gives (.walkComplete 0) stWalk (fun t => t.walks = [] && t.tlb.length = 1) = true ∧ gives (.walkStarvationTimeout 0 0) stWalk (fun t => t.walks.map (·.starved) = [true, false]) = true := by decide +kernel
def stProxy : State := { stMem with proxies := [{ wg := 102, off := 0x400, die := 1, flight := [], gathered := [3], phase := 0 }] }
theorem test_proxy : gives (.dieProxyForward 0) stProxy (fun t => t.proxies.map (fun p => (p.flight, p.gathered)) = [([3], [])]) = true ∧ gives (.proxyPhaseUpdate 0) stProxy (fun t => t.proxies.map (·.phase) = [1]) = true := by decide +kernel
theorem no_remote : ∀ y : Nat × Nat, (y ∈ ((gOf stClosed).wins.getD 0 default).remote.map (fun r => (r.node, r.sub)) ∨ y ∈ winSubs stClosed ((gOf stClosed).wins.getD 0 default).buf) → y ∈ ((gOf stClosed).wins.getD 0 default).valid := by
  have h1 : ((gOf stClosed).wins.getD 0 default).remote = [] := by decide +kernel
  have h2 : winSubs stClosed ((gOf stClosed).wins.getD 0 default).buf = [] := by decide +kernel
  intro y h
  rw [h1, h2] at h
  simp at h
theorem test_witness_WindowEvents : (∃ g w, grpAt stHit 0 0 = some g ∧ grpOf stHit g.uid = some g ∧ hitAt g = some 0 ∧ g.wins[0]? = some w) ∧
    (∃ g w rest, grpAt stClosed 0 0 = some g ∧ grpOf stClosed g.uid = some g ∧ hitAt g = none ∧ g.wins = w :: rest ∧ w.closed = true ∧
      (∀ y, (y ∈ w.remote.map (fun r => (r.node, r.sub)) ∨ y ∈ winSubs stClosed w.buf) → y ∈ w.valid) ∧
      (!hostHolds stClosed (winLines stClosed w.buf) && !heldLine stClosed g.uid true (winLines stClosed w.buf) && !moveHeld stClosed g.uid (g.core + 1) (winLines stClosed w.buf) && forkRoom stClosed g.core w.buf) = true) ∧
    nextWalk stWalk 0 = some { die := 0, pcid := 65535, va := 0x30, inst := 7, starved := false } ∧ Sooner stWalk { die := 0, pcid := 65535, va := 0x30, inst := 7, starved := false } { die := 0, pcid := 65535, va := 0x31, inst := 8, starved := false } :=
  ⟨⟨gOf stHit, _, by rfl, by rfl, by decide +kernel, rfl⟩, ⟨gOf stClosed, _, _, by rfl, by rfl, by decide +kernel, rfl, by decide +kernel, no_remote, by decide +kernel⟩,
    by decide +kernel, .inr ⟨by decide +kernel, by decide⟩⟩
/-- A drain that may go first, after one of another group that waits for its answer (R242). -/
def stDrains : State := { st with drains := [{ group := 3, line := hbmLoc 0 }, { group := 4, line := hbmLoc 128 }], proxies := [] }
theorem test_witness_Drains : drainWaits stDrains { group := 3, line := hbmLoc 0 } = false ∧ ∀ g ∈ stDrains.grps, ∀ w ∈ g.wins, w.hit = false := by decide +kernel

/-- A tensor copy that is queued, and one in progress whose elements are .b32: element 0 lands at the row (R340, R342). -/
def stTq : State := after (.tcopy 6 8 8 false false) (let s := stLast 124; { s with ram := ramWrite s.ram (hbmLoc 0x30000) 0 [1, 2, 3, 4] })
noncomputable def stTr : State := after (.tceOperationStart 0) stTq
noncomputable def onTce (f : TceOp → TceOp) : State := { stTr with tces := stTr.tces.map f }
def tuid : Nat := (stTq.tces.map (·.uid)).getD 0 0
theorem test_tceStart : gives (.tceOperationStart 0) stTq (fun t => t.tces.map (·.st) = [.running]) = true := by decide +kernel
/-- An element is read, then written; the bytes of the last are counted (R340, R341, R342). -/
theorem test_tceElement : gives (.tceElement 0 tuid) stTr (fun t => t.tces.map (fun o => (o.next, o.got)) = [(0, [1, 2, 3, 4])] && ramNat t.ram (padAt 0x400) 4 != 0x04030201) = true ∧
    gives (.tceElement 0 tuid) (onTce fun o => { o with got := [1, 2, 3, 4] }) (fun t => t.tces.map (fun o => (o.next, o.uncounted)) = [(1, 4)] && ramNat t.ram (padAt 0x400) 4 = 0x04030201) = true ∧
    gives (.tceElement 0 tuid) (onTce fun o => { o with next := 4, uncounted := 16 }) (fun t => t.tces.map (fun o => (o.st, o.uncounted)) = [(.ended, 0)]) = true := by decide +kernel
noncomputable def tceOf (s : State) : TceOp := s.tces.getD 0 default
theorem test_witness_TensorElement : (stTq.tces.find? fun y => y.core = 0 && y.st = .queued).isSome = true ∧
    ((stTr.tces.find? fun y => y.uid = (tceOf stTr).uid && y.core = 0 && y.st = .running) = some (tceOf stTr)) ∧ (tceOf stTr).kind = .copy ∧ tagMoves (tceOf stTr) = false ∧
    (tceOf stTr).shape.inLimits (Shape.index (tceOf stTr).shape.ext 0) = true ∧
    (∃ s1 u, engPlaces stTr (tceOf stTr).agt (tceHost stTr (tceOf stTr)) (tceOf stTr).gcap [0, 12] 0x30000 4 1 = .ok s1 u) ∧
    (∃ s1 u, engRead stTr (tceOf stTr).agt (tceHost stTr (tceOf stTr)) (tceOf stTr).gcap 0x30000 4 = .ok s1 u) ∧
    (match tceElem stTr (tceOf stTr) with | .ok _ (.more got tag put) => decide (got = [1, 2, 3, 4]) && !tag && decide (put = 0) | _ => false) = true ∧
    (match tceElem stTr { tceOf stTr with got := [1, 2, 3, 4] } with | .ok _ (.landed n) => decide (n = 4) | _ => false) = true ∧
    (match tceElem stTr { tceOf stTr with gcap := capNull } with | .fault _ t => decide (t.kind = 3 ∧ t.detail = 1) | _ => false) = true ∧
    (match (scratchPlaces stTr (tceOf stTr) 0)[0]? with | some l => (blocked stTr (tceOf stTr).uid true (linesOf stTr.ram l 4)).isNone | none => false) = true ∧
    (match (tceBars stTr (tceOf stTr))[0]? with | some l => (blocked stTr (tceOf stTr).uid true (linesOf stTr.ram l 16)).isNone | none => false) = true :=
  ⟨by decide +kernel, by rfl, by decide +kernel, by decide +kernel, by decide +kernel, got_ok (by decide +kernel), got_ok (by decide +kernel), by decide +kernel, by decide +kernel, by decide +kernel,
    by decide +kernel, by decide +kernel⟩
/-- A matrix operation that starts, a step that reads, and one of whose registers is damaged (R410). -/
def mop (s : State) : MatOp := (matCtx s).run.getD default
theorem test_witness_EngineEvents : (∃ w c o, ctxAt (afterLane iMzero stMat) 0 0 = some (w, 0) ∧ wgBy (afterLane iMzero stMat) w.uid = some w ∧ c = aget matNone w.ctxs 0 ∧ c.run = none ∧ c.queue = [o]) ∧
    ((stMat.wgs.map (·.uid)).Nodup ∧ stMat.power = .run) ∧
    (∃ c o g s1 p img, c = matCtx stStep ∧ c.run = some o ∧ c.stopped = false ∧ o.kind = .steps ∧ grpOf stStep o.group = some g ∧ o.b.stale = false ∧ c.step < o.count ∧
      matSpoil stStep g 0 g.wg o.tile (stepRegs c o) = none ∧
      matBlock { g with uid := o.uid, integ := none } o 0 c.step stStep = .ok s1 (p, img) ∧ runFromColl c o = false ∧ scales c.scale (stepTy o.ty) = false) ∧
    (matSpoil { stStep with bad := [.vreg (gOf stStep).uid 16 0 4] } (gOf stStep) 0 (gOf stStep).wg (mop stStep).tile (stepRegs (matCtx stStep) (mop stStep))).isSome = true := by
  refine ⟨⟨_, _, _, rfl, by rfl, rfl, by decide +kernel, by rfl⟩, ⟨by decide +kernel, rfl⟩, ?_, by decide +kernel⟩
  obtain ⟨s1, ⟨p, img⟩, h⟩ := got_ok (x := matBlock { (gOf stStep) with uid := (mop stStep).uid, integ := none } (mop stStep) 0 0 stStep) (by decide +kernel)
  exact ⟨_, _, gOf stStep, s1, p, img, rfl, by rfl, by decide +kernel, by decide +kernel, by rfl, by decide +kernel, by decide +kernel, Option.isNone_iff_eq_none.1 (by decide +kernel), h, by decide +kernel, by decide +kernel⟩
/-- A tile load whose rows are read. -/
theorem test_witness_TileLoad : (matCtx stLoad).run.isSome = true ∧ (matCtx stLoad).stopped = false ∧ (mop stLoad).kind = .load ∧ (mop stLoad).b.stale = false ∧ ((cAddr (mop stLoad).b.cap : Int) + uI (mop stLoad).off) % 4 = 0 ∧
    (mop stLoad).rowStride.toNat % 4 = 0 ∧ ∃ s1 v, matTileRows { gOf stLoad with uid := (mop stLoad).uid, integ := none } (mop stLoad) 4 96 0 stLoad = .ok s1 v :=
  ⟨by decide +kernel, by decide +kernel, by decide +kernel, by decide +kernel, by decide +kernel, by decide +kernel, got_ok (by decide +kernel)⟩

/-- A launch of two groups waits at the head of its queue (R397). -/
noncomputable def stUnit : State := after (.qlaunch false 0x44000 0 2) (stXco false)
theorem test_dispatchPlace : gives .dispatchPlace stUnit (fun t => t.grps.length > stUnit.grps.length && (t.grps.getLastD (gOf st)).g.splits.map (fun y => (y.pc, y.act)) = [(0x40160, allLanes)] && (t.launches.drop 1).any (fun l => l.next > 0)) = true := by
  decide +kernel
/-- Shelf 3 holds two task records, and a core may run two tasks. -/
noncomputable def stShelf : State := let s := after (.qtask false 3 0x44000 0 2) (stXco true); { s with chip := { s.chip with taskSlots := 2 } }
theorem test_taskPop : gives (.taskPop 1 0) stShelf (fun t => (t.grps.drop 1).map (fun g => (g.core, g.slot, g.task, g.shelf)) = [(1, 0, true, 3)] && (shelfOf t 3).recs.length = 1) = true := by decide +kernel
theorem test_shelfFull : gives (.shelfFullTimeout 3) { stShelf with chip := { stShelf.chip with shelves := stShelf.chip.shelves.map fun e => (e.1, { e.2 with recs := List.replicate 264 default }) } } (fun t => t.chip.evLost = 1) = true ∧
    gives (.shelfFullTimeout 3) stShelf (fun t => t.chip.evLost = 0) = true := by decide +kernel
def stSaving (x : GangSt) (req : Bool) : State := { st with gangs := st.gangs.map fun y => { y with st := x, request := req }, chip := { st.chip with saveCount := 2 } }
def gang0 : Nat := (gOf st).gang
theorem test_pslack : gives (.pslackExpiry gang0) (stSaving .placed true) (fun t => t.gangs.map (fun y => (y.st, y.request)) = [(.saving, false)] && (t.grps.all fun g => g.saved)) = true ∧
    gives (.pslackExpiry gang0) (stSaving .placed false) (fun t => t.gangs.map (·.st) = [.placed]) = true := by decide +kernel
theorem test_saveComplete : gives (.gangSaveComplete gang0) (stSaving .saving false) (fun t => t.gangs.map (·.st) = [.saved]) = true ∧
    gives (.gangRestoreComplete gang0) { stSaving .placed false with grps := st.grps.map fun g => { g with saved := true } } (fun t => t.grps.all fun g => !g.saved) = true := by decide +kernel
theorem test_clear : gives (.clearSequenceComplete 3) { st with clearing := [(3, true), (4, true)] } (fun t => t.clearing = [(4, true)]) = true ∧ gives .pgraceExpiry st (fun t => t.gangs.all fun y => !y.request) = true := by decide +kernel
/-- Every cluster is busy or not free for the head unit's domain: nothing moves; a free cluster moves (R459). -/
noncomputable def stMove : State := { stUnit with domains := [(5, 7)] }
theorem test_domainMove : gives (.clusterDomainMove 0 0) stMove (fun t => t.clearing = []) = true := by decide +kernel

/-- Two clusters' domains; the head unit belongs to domain 0, whose cluster 5 is now in domain 7. -/
theorem test_domainMove_free : gives (.clusterDomainMove 5 0) stMove (fun t => aget 0 t.domains 5 = 0 && aget false t.clearing 5) = true := by decide +kernel
theorem test_witness_DispatcherEvents : (match nextUnit stUnit with | some (_, .fresh u, starts) => (lnchBy stUnit u).any (fun l => l.uid = u) && starts != [] | _ => false) = true ∧ nextUnit st = none ∧
    ((∀ g ∈ holders stShelf 1 true, g.slot ≠ 0) ∧ dormantDue stShelf 1 = false ∧ unitWaits stShelf 1 = false ∧ ((holders stShelf 1 true).filter (·.task)).length < stShelf.chip.taskSlots.toNat ∧ (popShelf stShelf 1 0).isSome = true) ∧
    ((gangBy (stSaving .placed true) gang0).any fun y => y.request && decide (y.st = .placed) && (takeSlots (stSaving .placed true) y.wgs).isSome) = true ∧
    ((heads stMove).any fun e => (lnchBy stMove e.2.launch).any fun l => decide (domOf stMove l.pcid = 0)) = true ∧ clusterBusy stMove 5 = false ∧ maskHas stMove 0 5 = true ∧ clusterBusy stMove 0 = true ∧
    maskHas stMove 9 5 = false :=
  ⟨by decide +kernel, by decide +kernel, ⟨by decide +kernel, by decide +kernel, by decide +kernel, by decide +kernel, by decide +kernel⟩, by decide +kernel, by decide +kernel, by decide +kernel, by decide +kernel, by decide +kernel, by decide +kernel⟩
/-- A saved gang is the next unit; a shelf holds a record beyond the 256 on the chip; a restore under way; no unit waits for a victim. -/
def stSaved : State := { stSaving .saved false with grps := st.grps.map fun g => { g with saved := true } }
noncomputable def stSpilled : State := { stShelf with chip := { stShelf.chip with shelves := stShelf.chip.shelves.map fun e => (e.1, { e.2 with cap := 16, recs := List.replicate 257 (e.2.recs.getD 0 default) }) } }
theorem test_spilled_pop : gives (.taskPop 1 0) stSpilled (fun t => (shelfOf t 3).recs.length = 256) = true := by decide +kernel
theorem test_witness_DispatcherMoves : (match nextUnit stSaved with | some (_, .saved _ u, starts) => (gangBy stSaved u).any (fun y => decide y.wgs.Nodup) && starts != [] | _ => false) = true ∧
    (256 < (shelfOf stSpilled 3).recs.length ∧ (popShelf stSpilled 1 0).isSome = true) ∧ ((gangBy (stSaving .placed true) gang0).any fun y => decide (y.st = .placed)) = true ∧
    ((stSaving .placed true).rev.sweepDone = true) ∧ heads st = [] ∧ (st.grps.map (·.uid)).Nodup :=
  ⟨by decide +kernel, ⟨by decide +kernel, by decide +kernel⟩, by decide +kernel, by decide +kernel, by decide +kernel, by decide +kernel⟩

/-! Registers, invalidation, epochs, monitors. -/

theorem test_registerWrite : gives (.registerWrite 0x20 4 7) st (fun t => t.chip.pgrace = 7) = true ∧ gives (.registerWrite 0x21 1 1) st (fun t => t.chip.pgrace = 0x132) = true ∧
    gives (.registerWrite 0x10 8 0x123456789ABCDEF0) st (fun t => t.chip.ctxBase = 0x123456789ABCD000) = true ∧ gives (.registerWrite 0x18 4 0x10001) st (fun t => t.chip.ctxCount = 0x10000) = true ∧
    gives (.registerWrite 0x10FC8 4 0xFF0000) (setQue st 63 default) (fun t => t.chip.pgrace = 50) = true := by decide +kernel
/-- GO starts an invalidation of the address in INVVA; a second write while GO reads 1 is discarded (R402). -/
noncomputable def stGo : State := after (.registerWrite 0x88 4 0x8000FFFF) (after (.registerWrite 0x80 8 0x30000) (after (.xlate 1 1) stWin))
theorem test_invalidationGo : stGo.chip.invCtl = 0x8000FFFF ∧ stGo.chip.invAt = 0x30000 ∧ gives (.invalidationGo 0x80000005) stGo (fun t => t.chip.invCtl = 0x8000FFFF) = true ∧
    gives (.invalidationGo 0x80000005) st (fun t => t.chip.invCtl = 0x80000005) = true := by decide +kernel
theorem test_invalidation : stGo.tlb ≠ [] ∧ (bGet (gOf stGo).g 1).stale = false ∧
    gives .translationInvalidationComplete stGo (fun t => t.tlb = [] && t.chip.invCtl = 0xFFFF && (bGet (gOf t).g 1).stale && (gOf t).wins.any (·.hit)) = true ∧
    gives .translationInvalidationComplete { stGo with chip := { stGo.chip with invAt := 2 ^ 34 } } (fun t => t.tlb != [] && (gOf t).wins.all (!·.hit)) = true := by decide +kernel
theorem test_witness_RegisterBlock : (queOf { st with chip := { st.chip with queues := [] } } 63).en = false ∧ (queOf stQ 0).en = true ∧ (0x10FC8 : Nat) = 0x10000 + 64 * 63 + 8 ∧ (0x107FF4 : Nat) = 0x100000 + 32 * 1023 + 20 ∧
    (shelfOf st 15).recs = [] ∧ (shelfOf stShelf 3).recs ≠ [] ∧ (∃ t, exec (.registerWrite 0xFFFFF8 4 7) st = .next t) ∧
    (∀ k < 32, (0x00AABB00 : DWord).getLsbD k = if 0x21 % 4 * 8 ≤ k ∧ k < (0x21 % 4 + 2) * 8 then (0xAABB : DWord).getLsbD (k - 0x21 % 4 * 8) else (barWord { st with chip := { st.chip with pgrace := 0 } } (0x21 / 4 * 4)).getLsbD k) ∧
    st.chip.invCtl.getLsbD 31 = false ∧ stGo.chip.invCtl.getLsbD 31 = true ∧
    Covered stGo.chip.invCtl stGo.chip.invAt (pcidOf stGo (gOf stGo).launch) false (aget default (gOf stGo).g.b 1).base (aget default (gOf stGo).g.b 1).size ∧
    (1 ∈ (gOf stGo).g.b.map (·.1) ∧ (aget default (gOf stGo).g.b 1).here = true) ∧
    (∃ w, (gOf stGo).wins[0]? = some w ∧ ∃ p ∈ w.xl, Covered stGo.chip.invCtl stGo.chip.invAt (p.1 / 2) (decide (p.1 % 2 = 1)) p.2.1 p.2.2) := by
  refine ⟨by decide +kernel, by decide +kernel, rfl, rfl, by decide +kernel, by decide +kernel, ⟨_, by rfl⟩, by decide +kernel, by decide +kernel, by decide +kernel, ?_, by decide +kernel, ?_⟩
  · unfold Covered invSize
    decide +kernel
  · exact ⟨(gOf stGo).wins.getD 0 default, by decide +kernel, by unfold Covered invSize; decide +kernel⟩

/-- An epoch that marked the granule of c1 (R192, R193). -/
def stEpochQ (queued : Bool) : State := { stMem with rev := { stMem.rev with bitmap := [(0x30, true)], sweepDone := false, epoch := 1, queued := queued } }
theorem test_epoch : gives .revocationEpochComplete (stEpochQ false) (fun t => !(cGet (xOf t) 1).tag && (cGet (xOf t) 2).tag && t.rev.sweepDone && t.rev.done = 1) = true ∧
    gives .revocationEpochComplete (stEpochQ true) (fun t => !t.rev.sweepDone && t.rev.done = 1 && t.rev.epoch = 2 && !t.rev.queued) = true := by decide +kernel
/-- Unit 3 of die 0 samples source 5, unit 4 the same source of core 9 only, with bins of 16 (R433). -/
def stMon : State :=
  { st with chip := { st.chip with monitors := [(3, { cfg := 0x10005, samples := 0, least := 0xFFFFFFFF, most := 0, bins := [] }), (4, { cfg := 0x990405, samples := 0, least := 0xFFFFFFFF, most := 0, bins := [] })] } }
theorem test_monitor : gives (.monitorSample 0 5 8 40) stMon (fun t => (monOf t 3).samples = 1 && (monOf t 3).least = 40 && (monOf t 3).most = 40 && aget 0 (monOf t 3).bins 31 = 1 && (monOf t 4).samples = 0) = true ∧
    gives (.monitorSample 0 5 9 40) stMon (fun t => (monOf t 4).samples = 1 && aget 0 (monOf t 4).bins 2 = 1) = true ∧ gives (.monitorSample 1 5 9 40) stMon (fun t => (monOf t 3).samples = 0) = true := by decide +kernel
theorem test_witness_EpochAndMonitors : st.rev.sweepDone = true ∧ (∃ u ∈ engineLive stTq, u ∈ (startEpoch stTq).rev.inFlight) ∧
    (∃ s1 bad, (stEpochQ false).rev.sweepDone = false ∧ (∀ u ∈ engineLive (stEpochQ false), u ∉ (stEpochQ false).rev.inFlight) ∧
      askQueries (stEpochQ false) (sweepQueries (stEpochQ false)) = (s1, some bad) ∧ s1.rev.queued = false) ∧
    (∃ s1 bad, askQueries (stEpochQ true) (sweepQueries (stEpochQ true)) = (s1, some bad) ∧ s1.rev.queued = true) ∧
    ((monOf stMon 3).cfg.getLsbD 16 = true ∧ (monOf stMon 3).cfg.toNat % 256 = 5 ∧ (monOf stMon 4).cfg.getLsbD 19 = true ∧ (monOf stMon 4).cfg.toNat / 2 ^ 20 % 256 = 9) := by
  refine ⟨rfl, ⟨tuid, by decide +kernel, by decide +kernel⟩, ⟨stEpochQ false, [], rfl, by decide +kernel, ?_, rfl⟩, ⟨stEpochQ true, [], ?_, rfl⟩, by decide +kernel⟩
  all_goals
    rw [show sweepQueries _ = [] by decide +kernel]
    rfl

/-! Links, peers, homes, combining. -/

/-- Port 3 with a state word; node 7 with the incarnation 4. -/
def stLink (w : Word) : State := { st with fab := { st.fab with linkstat := [(3, w)], peers := [(7, { incarn := 4, lost := none })] } }
def kx (inc : Word) : KeyExchange := { port := 3, peer := 7, incarn := inc, agtilux := true, up := true }
def flit (inc : Word) : Flit := { port := 3, node := 7, incarn := inc, dom := 0, stomp := false, mgmt := false, reservedSet := false, tagOk := true, replay := false, txn := 8 }
/-- A flit's effect on the state word of port 3. -/
noncomputable def flitTo (f : Flit) (w : Word) : Word := match exec (.ualinkFlitReceive f) (stLink w) with | .next t => linkAt t 3 | _ => 0xDEAD
theorem test_linkDown : gives (.linkDown 3) (stLink 0x00050003) (fun t => linkAt t 3 = 0x00050000 && aget false t.fab.planeDown 3) = true ∧ gives (.linkDown 36) (stLink 3) (fun t => linkAt t 3 = 3 && linkAt t 36 = 0) = true := by decide +kernel
theorem test_training : gives (.portTraining (kx 5)) (stLink 0) (fun t => linkAt t 3 = 3 && (peerOf t 7).incarn = 5) = true ∧ gives (.portTraining (kx 4)) (stLink 4) (fun t => linkAt t 3 = 5) = true ∧
    gives (.portTraining { kx 4 with agtilux := false }) (stLink 2) (fun t => linkAt t 3 = 1) = true := by decide +kernel
theorem test_rekey : gives (.sealRekey (kx 4)) (stLink 3) (fun t => linkAt t 3 = 3 && t.outbox.length = 1) = true ∧ gives (.sealRekey { kx 4 with agtilux := false }) (stLink 3) (fun t => linkAt t 3 = 1) = true ∧
    gives (.sealRekey (kx 4)) (stLink 1) (fun t => linkAt t 3 = 1 && t.outbox = []) = true := by decide +kernel
theorem test_flit : flitTo { flit 4 with tagOk := false } 3 = 0x13 ∧ flitTo { flit 4 with tagOk := false, replay := true } 3 = 0x17 ∧ flitTo { flit 4 with reservedSet := true } 3 = 0x10003 ∧
    flitTo { flit 4 with dom := 5 } 1 = 0x10001 ∧ flitTo { flit 4 with dom := 5 } 3 = 3 := by decide +kernel
theorem test_flit_incarnation : flitTo (flit 3) 3 = 0x10003 ∧ flitTo (flit 4) 3 = 3 ∧ gives (.ualinkFlitReceive (flit 5)) (stLink 3) (fun t => peerOf t 7 = { incarn := 5, lost := some 4 }) = true := by decide +kernel
theorem test_ucie : gives (.ucieFlitReceive false false []) st (fun t => t.fab.uciBad && linkAt t 34 = 0x10 && t.power = .run) = true ∧
    gives (.ucieFlitReceive false true []) { st with fab := { st.fab with uciBad := true } } (fun t => t.power = .stopped) = true := by decide +kernel
theorem test_witness_LinkEvents : (kx 5).port < 32 ∧ (link (stLink 4) 3).getLsbD 2 = true ∧ (link (stLink 3) 3).getLsbD 2 = false ∧ (link (stLink 3) 3).getLsbD 1 = true ∧ IncOk (stLink 3) 7 4 ∧ IncOk st 7 9 ∧
    IncStale (stLink 3) 7 3 ∧ IncStale (stLink 3) 7 0x80000005 ∧ ¬ IncStale (stLink 3) 7 0x80000004 ∧ ¬ IncOk (stLink 3) 7 0x80000004 ∧ st.fab.uciBad = false ∧ (∀ e ∈ st.fab.wins, e.2.d.kind ≠ 1) := by
  unfold IncOk IncStale
  decide +kernel

/-- A request of the group for byte offset 0x80 of node 7. -/
def rq (k : ApKind) (again : Bool) : Req := { tag := 5, node := 7, group := (gOf st).uid, off := 0x80, pcid := 65535, kind := k, auth := default, posted := false, retried := again, stomped := again }
def stReq (k : ApKind) (again : Bool) : State := { st with fab := { st.fab with reqs := [rq k again], peers := [(7, { incarn := 4, lost := none })] } }
def faults (t : State) : List (Nat × Nat) := t.fab.answers.map fun a => match a.ans with | .fault k d _ => (k, d) | _ => (0, 0)
theorem test_accessAnswer : gives (.accessAnswer 5 .done) (stReq (.read 4) false) (fun t => t.fab.reqs = [] && t.fab.answers.map (fun a => (a.group, a.off)) = [((gOf st).uid, 0x80)] && faults t = [(0, 0)]) = true := by decide +kernel
theorem test_stomp : gives (.stompNotice 5) (stReq (.read 4) false) (fun t => t.fab.reqs.map (·.stomped) = [true] && t.outbox.length = 1) = true ∧
    gives (.stompNotice 5) (stReq (.read 4) true) (fun t => t.fab.reqs = [] && faults t = [(7, 4)] && linkAt t 1 = 0x10000) = true := by decide +kernel
theorem test_retry : gives (.requestRetryTimeout 5) (stReq (.read 4) false) (fun t => t.fab.reqs.map (·.retried) = [true]) = true ∧ gives (.requestRetryTimeout 5) (stReq (.read 4) true) (fun t => t.outbox = []) = true := by decide +kernel
theorem test_peerlost : gives (.peerlostTimeout 5) (stReq (.read 4) true) (fun t => faults t = [(7, 1)] && (peerOf t 7).lost = some 4) = true ∧ gives (.peerlostTimeout 5) (stReq (.read 4) false) (fun t => faults t = []) = true := by decide +kernel
theorem test_switchDown : gives (.switchPortsDown 7) (stReq (.read 4) false) (fun t => faults t = [(7, 2)] && t.fab.reqs = [] && (peerOf t 7).lost = some 4) = true := by decide +kernel
theorem test_lineFill : gives (.lineFill 7 0x80 (List.replicate 128 9) (List.replicate 8 false) 6) (stReq (.fill 0 4) false) (fun t => t.fab.reqs = [] && (guestAt t 65535 7 0x84).any (fun y => y.stamp = 6 && y.data.head? = some 9)) = true ∧
    gives (.lineFill 7 0x100 (List.replicate 128 9) (List.replicate 8 false) 6) (stReq (.fill 0 4) false) (fun t => t.fab.guest = []) = true := by decide +kernel
/-- A window that read sub-page 2 of node 7 at version 6 and waits for its validation. -/
def stValid : State := onGrp (fun g => { g with wins := g.wins.map fun w => { w with remote := [{ node := 7, sub := 2, stamp := 6 }], asked := [(7, 2)] } }) stWin
theorem test_validation : gives (.validationReply 7 2 6) stValid (fun t => (gOf t).wins.map (·.valid) = [[(7, 2)]]) = true ∧ gives (.validationReply 7 2 5) stValid (fun t => (gOf t).wins.all (fun w => w.buf = []) && pcOf t = 0x10000) = true := by
  decide +kernel
theorem test_bump : gives (.epochBump 7 2) stValid (fun t => (gOf t).wins.all (fun w => w.buf = [])) = true ∧ gives (.epochBump 7 3) stValid (fun t => (gOf t).wins.all (fun w => w.buf != [])) = true := by decide +kernel
theorem test_witness_RequestEvents (again : Bool) : ((stReq (.fill 0 4) again).fab.reqs.find? fun x => x.tag = (rq (.fill 0 4) again).tag) = some (rq (.fill 0 4) again) ∧ (rq (.fill 0 4) again).retried = again ∧ (rq (.fill 0 4) again).stomped = again ∧
    (rq (.fill 0 4) again).group ≠ prefName ∧ (rq (.fill 0 4) again).off = 0xFF / 128 * 128 ∧ portOf (stReq (.fill 0 4) again) 0x80 = some 1 ∧ portOf { st with fab := { st.fab with planeDown := (List.range 32).map fun p => (p, true) } } 0x80 = none := by
  cases again
  all_goals decide +kernel
theorem test_witness_ValidationReply : ∃ g w, (stValid.grps.find? fun h => (awaiting h 7 2).isSome) = some g ∧ awaiting g 7 2 = some 0 ∧ g.wins[0]? = some w ∧ grpOf stValid g.uid = some g ∧
    (∀ r ∈ w.remote, r.node = 7 → r.sub = 2 → r.stamp = 6) ∧ ∃ r ∈ w.remote, r.node = 7 ∧ r.sub = 2 ∧ r.stamp ≠ 5 :=
  ⟨gOf stValid, _, by rfl, by decide +kernel, rfl, by rfl, by decide +kernel, by decide +kernel⟩

/-- A packet of a window with tag 5 that node 7 has not acknowledged, after its retry or before (R270, R449). -/
def packet5 : WinPacket := .sum { win := 5, gen := 1, rank := 0, contributor := 0, off := 0, value := 2, tag := 5 }
def stSent (again : Bool) : State :=
  { st with fab := { st.fab with peers := [(7, { incarn := 4, lost := none })], sent := [{ home := 7, packet := packet5, retried := again, stomped := again }] } }
theorem test_sent : gives (.accessAnswer 5 .done) (stSent false) (fun t => t.fab.sent = []) = true ∧ gives (.stompNotice 5) (stSent false) (fun t => t.outbox.length = 1 && t.fab.sent.map (·.stomped) = [true]) = true ∧
    gives (.requestRetryTimeout 5) (stSent false) (fun t => t.outbox.length = 1) = true ∧ gives (.peerlostTimeout 5) (stSent true) (fun t => t.fab.sent = [] && (peerOf t 7).lost = some 4) = true := by decide +kernel
theorem test_witness_Sent (again : Bool) : (∀ r ∈ (stSent again).fab.reqs, r.tag ≠ 5) ∧ ∃ x, ((stSent again).fab.sent.find? fun y => y.packet.tag = 5) = some x ∧ x.stomped = again ∧ x.retried = again :=
  ⟨by cases again <;> decide +kernel, _, by rfl, rfl, rfl⟩
/-- The last posted write of a drained window gives the hold of its sub-page back (R217, R243). -/
def stPosted : State := { st with fab := { st.fab with reqs := [{ rq (.write [1]) false with group := drainName, off := 0x2080, posted := true }] } }
theorem test_posted : gives (.accessAnswer 5 .done) stPosted (fun t => t.fab.reqs = [] && t.fab.answers = [] && t.outbox = [.release 7 2]) = true := by decide +kernel
/-- A reply for which no window waits gives its hold back (R249). -/
theorem test_validation_late : gives (.validationReply 7 9 6) stValid (fun t => t.outbox = [.release 7 9] && (gOf t).wins.map (·.valid) = [[]]) = true := by decide +kernel
theorem test_witness_ValidationLate : ∀ g ∈ stValid.grps, awaiting g 7 9 = none := by
  have h : (stValid.grps.all fun g => (awaiting g 7 9).isNone) = true := by decide +kernel
  intro g hg
  exact Option.isNone_iff_eq_none.1 (List.all_eq_true.1 h g hg)
/-- A fill that two requests ask for, one beside it for another line, and a window that read nothing of the sub-page. -/
theorem test_witness_LineFill : (List.replicate 128 (9 : Byte)).length = 128 ∧ (List.replicate 8 false).length = 8 ∧ (∃ r ∈ (stReq (.fill 0 4) false).fab.reqs, r.node = 7 ∧ r.off = 0x80 / 128 * 128 ∧ isFill r.kind = true) ∧
    ∀ r ∈ (stReq (.fill 0 4) false).fab.reqs, r.node = 7 → r.off = 0x80 / 128 * 128 → isFill r.kind = true → ¬ (r.pcid = 65535 ∧ 7 = 7 ∧ 0x100 / 128 = 0x80 / 128) := by decide +kernel
theorem test_witness_EpochBump : ∀ g ∈ stWin.grps, ∀ w ∈ g.wins, w.hit = false ∧ ∀ r ∈ w.remote, ¬ (r.node = 7 ∧ r.sub = 2) := by decide +kernel
/-- A context with a pod table: one page of 16 GiB, scope .pod, at offset 0 (R200, R203). -/
def onPod (s : State) : State :=
  { s with ram := ramWrite s.ram (hbmLoc 0x28000) 0 (leBytes 8 0x273), ctxs := s.ctxs.map fun e => (e.1, { e.2 with podRoot := 0x28000 }), fab := { s.fab with peers := [(7, { incarn := 4, lost := none })] } }
def stHome : State := onPod { stMem with grps := [] }
/-- A request of node 7 under a capability of the 16 bytes from aperture offset 0x30040 of node 0. -/
def home (k : ApKind) : ApReq := { node := 7, incarn := 4, dom := 0, tag := 5, pcid := 65535, off := 0x30040, cap := area (2 ^ 56 + 0x30040) 16, scope := .dflt, kind := k, die := 1 }
def said (t : State) : Option ApAns := match t.outbox.getLast? with | some (.answer 7 5 a) => some a | _ => none
theorem test_home_read : gives (.apertureRequest (home (.read 4))) stHome (fun t => said t = some (.data [0x21, 0x43, 0x65, 0x87] false) && t.fab.tagRecs.length = 1) = true ∧
    gives (.apertureRequest (home (.read 17))) stHome (fun t => said t = some (.fault 3 4 0)) = true ∧ gives (.apertureRequest { home (.read 4) with incarn := 3 }) stHome (fun t => t.outbox = [] && linkAt t 3 = 0x10000) = true := by
  decide +kernel
theorem test_home_write : gives (.apertureRequest (home (.write [1, 2]))) stHome (fun t => said t = some .done && ramNat t.ram (hbmLoc 0x30040) 4 = 0x87650201) = true ∧
    gives (.apertureRequest (home (.atomic .add .b32 0x10 0))) stHome (fun t => said t = some (.data [0x21, 0x43, 0x65, 0x87] false) && ramNat t.ram (hbmLoc 0x30040) 4 = 0x87654331) = true ∧
    gives (.apertureRequest (home (.atomic .cas .b32 9 8))) stHome (fun t => ramNat t.ram (hbmLoc 0x30040) 4 = 0x87654321) = true := by decide +kernel
/-- A repeated tag is answered from the record, which an expiry removes (R449). -/
noncomputable def stAnswered : State := after (.apertureRequest (home (.atomic .add .b32 1 0))) stHome
theorem test_home_again : gives (.apertureRequest (home (.atomic .add .b32 1 0))) stAnswered (fun t => t.outbox.length = 2 && ramNat t.ram (hbmLoc 0x30040) 4 = 0x87654322) = true ∧
    gives (.homeTagRecordExpiry 7 5) stAnswered (fun t => t.fab.tagRecs = []) = true ∧ gives (.homeTagRecordExpiry 7 6) stAnswered (fun t => t.fab.tagRecs.length = 1) = true := by decide +kernel
theorem test_home_validate : gives (.validationRequest ⟨7, 1⟩ 65535 0x30 0 true) stHome (fun t => t.fab.holds.map (fun h => (h.node, h.sub, h.write)) = [(7, 0x30, true)] && t.outbox = [.version 7 0x30 0 true]) = true ∧
    gives (.validationRequest ⟨7, 1⟩ 65535 0x400000 0 true) stHome (fun t => t.outbox = [.version 7 0x400000 0 false] && t.fab.holds = []) = true ∧
    gives (.validationRequest ⟨7, 1⟩ 65535 0x30 0 true) { stHome with fab := { stHome.fab with holds := [{ node := 6, sub := 0x30, off := 0x30, write := false }] } } (fun t => t.outbox = []) = true := by decide +kernel
/-- Region 9 lets puts and gets into the 4096 bytes from 0x30000. -/
def stUe : State := { stHome with fab := { stHome.fab with regions := [(9, { puts := true, gets := true, cap := area 0x30000 0x1000, pcid := 65535 })] } }
theorem test_ue : gives (.ueInboundPut 9 0x44 [7]) stUe (fun t => t.outbox = [.ueAnswer [] true] && ramNat t.ram (hbmLoc 0x30044) 4 = 7) = true ∧ gives (.ueInboundGet 9 0x40 4) stUe (fun t => t.outbox = [.ueAnswer [0x21, 0x43, 0x65, 0x87] true]) = true ∧
    gives (.ueInboundPut 8 0x44 [7]) stUe (fun t => t.outbox = [.ueAnswer [] false]) = true ∧ gives (.ueInboundGet 9 0xFFE 4) stUe (fun t => t.outbox = [.ueAnswer [] false]) = true := by decide +kernel
theorem test_witness_HomeEvents : IncStale stHome 7 3 ∧ IncOk stHome 7 4 ∧ (∀ x ∈ stHome.fab.tagRecs, ¬ (x.node = 7 ∧ x.tag = 5)) ∧ (stAnswered.fab.tagRecs.find? fun x => x.node = 7 && x.tag = 5).isSome = true ∧
    (apCheck stHome (home (.read 17))).isSome = true ∧ (apCheck stHome (home (.read 4))).isNone = true ∧
    ((match apPlaces stHome (home (.read 4)) 0x30040 2 4 with | .ok s1 ([(l, 4)], _) => !heldLine s1 homeName true (placeLines s1 [(l, 4)]) && !otherHold s1 7 true [(l, 4)] && !hostHolds s1 (placeLines s1 [(l, 4)]) && (spoilAt s1 l 4).isNone | _ => false) = true) ∧
    unitOf .b32 = 4 ∧ podPlace stHome 65535 (4096 * 0x400000) = none ∧ podPlace stHome 65535 (4096 * 0x30) = some (hbmLoc 0x30000) ∧ stHome.drains = [] ∧
    isOk (engReady stUe { uid := inboundName, pcid := 65535, core := none, die := 0, gang := 0 } true (area 0x30000 0x1000) [1, 12] 0x30FFF 1) = true ∧
    isOk (engRead stUe { uid := inboundName, pcid := 65535, core := none, die := 0, gang := 0 } true (area 0x30000 0x1000) 0x30000 4096) = true ∧ (aget regionNone stUe.fab.regions 8).puts = false := by
  unfold IncOk IncStale
  decide +kernel

def faulted {α : Type} : Got α → Bool
  | .fault _ _ => true
  | _ => false
/-- A request for an offset that no page maps, and storage that is damaged (R203, R410). -/
def far (k : ApKind) : ApReq := { home k with off := 2 ^ 34, cap := area (2 ^ 56 + 2 ^ 34) 16 }
def stBad : State := { stHome with bad := [.byte (hbmLoc 0x30041) 2] }
theorem test_home_refused : gives (.apertureRequest (far (.read 4))) stHome (fun t => said t = some (.fault 4 2 0)) = true ∧ gives (.apertureRequest (far (.write [1, 2]))) stHome (fun t => said t = some (.fault 4 2 0)) = true ∧
    gives (.apertureRequest (home (.read 4))) stBad (fun t => said t = some (.fault 9 2 0)) = true := by decide +kernel
theorem test_witness_HomeRefused : (apCheck stHome (far (.read 4))).isNone = true ∧ faulted (apPlaces stHome (far (.read 4)) (2 ^ 34) 2 4) = true ∧ (apCheck stHome (far (.write [1, 2]))).isNone = true ∧ faulted (apPlaces stHome (far (.write [1, 2])) (2 ^ 34) 2 2) = true ∧
    spoilAt stBad (hbmLoc 0x30040) 4 = some 2 ∧ (apCheck stBad (home (.read 4))).isNone = true ∧ isOk (apPlaces stBad (home (.read 4)) 0x30040 2 4) = true := by decide +kernel
/-- Sub-page 0x30 with an epoch bump that node 7 has not acknowledged (R248). -/
def stBump : State := { stHome with fab := { stHome.fab with bumps := [(0x30, [7])] } }
theorem test_home_bump : gives (.validationRequest ⟨7, 1⟩ 65535 0x30 0 false) stBump (fun t => t.outbox = [] && t.fab.holds = []) = true := by decide +kernel
theorem test_witness_Withheld : ¬ Withheld stHome 7 0x30 true ∧ Withheld stBump 7 0x30 false ∧ Withheld { stHome with drains := [{ group := 3, line := hbmLoc 0x30080 }] } 7 0x30 false ∧
    Withheld { stHome with fab := { stHome.fab with holds := [{ node := 6, sub := 0x30, off := 0x30, write := false }] } } 7 0x30 true := by
  unfold Withheld
  decide +kernel
/-- Window 5 for two elements of u32 from offset 0x30040 of this node, for nodes 0 and 7 with one contributor each, and its round word at 0x30080 (R265). -/
def wd (kind : Nat) (acc : Bool) : WinDesc := { kind := kind, fmt := 2, acc := acc, gen := 1, members := [0, 7], range := 0x30040, len := 8, notify := 0x30080, contributors := 1, pcid := 65535 }
def stSum (kind node : Nat) (held : List Held) (merged : List Nat) : State :=
  { stHome with fab := { stHome.fab with node := BitVec.ofNat 9 node, nextTag := 40, wins := [(5, { d := wd kind true, broken := false, held := held, merged := merged, rounds := 0, sparse := if kind = 3 then [(0, [3])] else [] })] } }
def con (rank : Nat) (tag : BitVec 16) : Contribution := { win := 5, gen := 1, rank := rank, contributor := 0, off := 0, value := 2, tag := tag }
def half : List Held := [{ rank := 1, contributor := 0, off := 0, value := 3, tag := 9 }]
theorem test_contribution : gives (.contributionArrival (con 0 8)) (stSum 1 0 [] []) (fun t => (winOf t 5).held.length = 1 && t.ram = stHome.ram) = true ∧
    gives (.contributionArrival (con 0 8)) (stSum 1 0 half []) (fun t => (winOf t 5).held = [] && (winOf t 5).merged = [0] && ramNat t.ram (hbmLoc 0x30040) 4 = 0x87654326) = true := by decide +kernel
/-- The last element's merged write ends the round, whose event is owed (R269); a second contribution waits; one of another generation is dropped. -/
theorem test_contribution_round : gives (.contributionArrival (con 0 8)) (stSum 1 0 half [1]) (fun t => (winOf t 5).rounds = 1 && t.fab.owed.map (·.op) = [.count 1 false]) = true ∧
    gives (.contributionArrival (con 1 8)) (stSum 1 0 half []) (fun t => t.fab.flight = [con 1 8]) = true ∧ gives (.contributionArrival { con 0 8 with gen := 2 }) (stSum 1 0 half []) (fun t => linkAt t 3 = 0x10000) = true := by decide +kernel
/-- A repeated tag is acknowledged and discarded (R270); a rank of another node is acknowledged to it. -/
theorem test_contribution_again : gives (.contributionArrival (con 1 9)) (stSum 1 0 half []) (fun t => t.outbox = [.answer 7 9 .done] && t.fab.flight = [] && (winOf t 5).held = half) = true := by decide +kernel
/-- A contribution of node 3's own, which is rank 0, at its Trestle for home 0: both its contributors make the node partial (R267, R276). -/
def wd2 : WinDesc := { wd 1 true with members := [3, 7], contributors := 3 }
def stTrestle (held : List Held) : State :=
  { stHome with fab := { stHome.fab with node := 3, nextTag := 40, flight := [con 0 8], wins := [(5, { d := wd2, broken := false, held := held, merged := [], rounds := 0, sparse := [] })] } }
def other : List Held := [{ rank := 0, contributor := 1, off := 0, value := 3, tag := 9 }]
theorem test_trestle : gives (.contributionArrival (con 0 8)) (stTrestle []) (fun t => (winOf t 5).held.length = 1 && t.fab.flight = [] && t.fab.sent = []) = true ∧
    gives (.contributionArrival (con 0 8)) (stTrestle other) (fun t => t.fab.flight = [] && t.fab.nextTag = 41 && t.fab.sent.map (·.packet) = [.sum { con 0 40 with value := 5, folded := 2 }]) = true ∧
    gives (.contributionArrival (con 0 8)) (stTrestle [{ rank := 0, contributor := 0, off := 0, value := 3, tag := 9 }]) (fun t => t.fab.flight = [con 0 8]) = true := by decide +kernel
/-- The node partial at its home is folded as one value of its rank (R268). -/
theorem test_node_partial : gives (.contributionArrival { con 1 8 with folded := 1, value := 6 }) (stSum 1 0 [{ rank := 0, contributor := 0, off := 0, value := 2, tag := 8 }] []) (fun t => ramNat t.ram (hbmLoc 0x30040) 4 = 0x87654329) = true := by decide +kernel
/-- A pair at its home joins the entry of its element and is acknowledged; a repeated one is only acknowledged; at another node it goes on (R275, R449). -/
def pair (rank : Nat) (i v : Word) : SparsePair := { win := 5, gen := 1, rank := rank, tag := 6, index := i, value := v }
noncomputable def comes (x : SparsePair) : Instr := .sparsePairArrival x.head x.gen x.index x.value
def stPairOut : State := { stSum 3 3 [] [] with fab := { (stSum 3 3 [] []).fab with sparseFlight := [pair 0 0 4] } }
noncomputable def stPaired : State := after (comes (pair 1 0 4)) (stSum 3 0 [] [])
theorem test_sparse : gives (comes (pair 0 0 4)) (stSum 3 0 [] []) (fun t => (winOf t 5).sparse = [(0, [3, 4])] && t.outbox = []) = true ∧
    gives (comes (pair 1 0 4)) (stSum 3 0 [] []) (fun t => (winOf t 5).sparse = [(0, [3, 4])] && t.outbox = [.answer 7 6 .done]) = true ∧
    gives (comes (pair 1 0 4)) stPaired (fun t => (winOf t 5).sparse = [(0, [3, 4])] && t.outbox.length = 2) = true ∧
    gives (comes (pair 0 0 4)) stPairOut (fun t => t.fab.sparseFlight = [] && t.fab.sent.map (·.home) = [0] && t.outbox.length = 1) = true ∧
    gives (comes (pair 0 2 4)) (stSum 3 0 [] []) (fun t => linkAt t 3 = 0x10000) = true := by decide +kernel
theorem test_mergeTimeout : gives (.mergeTableTimeout 5 0) (stSum 3 0 [] []) (fun t => (winOf t 5).sparse = [] && ramNat t.ram (hbmLoc 0x30040) 4 = 0x87654324 && t.fab.owed.map (·.op) = [.count 1 false]) = true := by decide +kernel
/-- A multicast thread of group 4, whose entry has the nodes 0 and 7, or 7 only: the entry is read, then this node's own replica is written (R273). -/
def mth (off : Nat) (read : Bool) (own : Option Nat) : McThread :=
  { uid := 200, group := 100, grp := 4, gen := 1, off := off, data := [1, 2], pcid := 65535, au := default, read := read, own := own }
def stMc (me : Bool) (m : McThread) : State := { stHome with fab := { stHome.fab with mcast := [(4, { gen := 1, members := if me then 0x81 else 0x80 })], mcThreads := [m] } }
def entryRead (t : State) : List (Bool × Option Nat) := t.fab.mcThreads.map fun m => (m.read, m.own)
theorem test_multicast : gives (.multicastPacketArrival 0) (stMc true (mth 0x30040 false none)) (fun t => t.fab.reqs.map (fun r => (r.node, r.off, r.kind)) = [(7, 0x30040, .replica 4 1 [1, 2])] && entryRead t = [(true, some 0)]) = true ∧
    gives (.multicastPacketArrival 0) (stMc true (mth 0x30040 true (some 0))) (fun t => ramNat t.ram (hbmLoc 0x30040) 4 = 0x87650201 && t.fab.mcThreads = []) = true ∧
    gives (.multicastPacketArrival 0) (stMc false (mth 0x30040 false none)) (fun t => entryRead t = [(true, none)]) = true ∧
    gives (.multicastPacketArrival 0) (stMc true (mth (2 ^ 40) true (some 0))) (fun t => t.chip.mcdrop = 1 && t.fab.mcThreads = []) = true ∧
    gives (.multicastPacketArrival 0) (stMc true { mth 0x30040 false none with gen := 2 }) (fun t => t.fab.mcThreads = [] && linkAt t 3 = 0x10000) = true := by decide +kernel
theorem test_witness_CombiningEvents : Stray (stSum 1 0 [] []) 5 2 0 ∧ Stray (stSum 1 0 [] []) 5 1 2 ∧ ¬ Stray (stSum 1 0 [] []) 5 1 1 ∧ AtHome (stSum 1 0 [] []) 5 ∧ ¬ AtHome (stSum 1 3 [] []) 5 ∧ AtHome (stSum 3 0 [] []) 5 ∧
    (winOf (stSum 1 0 [] []) 5).broken = false ∧ Listed_ (winOf (stSum 1 0 [] []) 5) (con 1 8) ∧ ¬ Listed_ (winOf (stSum 1 0 [] []) 5) (con 2 8) ∧ Listed_ (winOf (stSum 1 0 [] []) 5) { con 1 8 with folded := 1 } ∧
    (heldFor (winOf (stSum 1 0 half []) 5) (con 1 9)).any (fun h => h.tag = 9) = true ∧ (heldFor (winOf (stSum 1 0 half []) 5) (con 0 8)).isNone = true ∧
    elemFull (withHeld (winOf (stSum 1 0 [] []) 5) (con 0 8)) 0 = false ∧ elemFull (withHeld (winOf (stSum 1 0 half []) 5) (con 0 8)) 0 = true ∧
    (match homePlace (stSum 1 0 half []) (wd 1 true) (elemOff (wd 1 true) 0) 3 4 with | .ok s2 l => (spoilAt s2 l 4).isNone | _ => false) = true := by
  unfold Stray AtHome Listed_
  decide +kernel
theorem test_witness_Merging : (∃ j < (winOf (stSum 1 0 half []) 5).d.len / 4, j ≠ 0 ∧ j ∉ (winOf (stSum 1 0 half []) 5).merged) ∧ (∀ j < (winOf (stSum 1 0 half [1]) 5).d.len / 4, j = 0 ∨ j ∈ (winOf (stSum 1 0 half [1]) 5).merged) := by decide +kernel
theorem test_witness_Trestle : ¬ Stray (stTrestle []) 5 1 0 ∧ ¬ AtHome (stTrestle []) 5 ∧ con 0 8 ∈ (stTrestle []).fab.flight ∧ (winOf (stTrestle []) 5).d.kind = 1 ∧ (heldFor (winOf (stTrestle []) 5) (con 0 8)).isNone = true ∧
    rankFull (withHeld (winOf (stTrestle []) 5) (con 0 8)) 0 0 = false ∧ rankFull (withHeld (winOf (stTrestle other) 5) (con 0 8)) 0 0 = true ∧
    (heldFor (winOf (stTrestle [{ rank := 0, contributor := 0, off := 0, value := 3, tag := 9 }]) 5) (con 0 8)).isSome = true := by
  unfold Stray AtHome
  decide +kernel
theorem test_witness_Pairs : ¬ AtHome stPairOut 5 ∧ ¬ Stray stPairOut 5 1 0 ∧ pair 0 0 4 ∈ stPairOut.fab.sparseFlight ∧ (sparseAt (winOf (stSum 3 0 [] []) 5) 0).isSome = true ∧ (∀ r ∈ (stSum 3 0 [] []).fab.tagRecs, ¬ (r.node = 7 ∧ r.tag = 6)) ∧
    (∃ r ∈ stPaired.fab.tagRecs, r.node = 7 ∧ r.tag = 6) ∧ AtHome stPaired 5 ∧ (sparseAt (winOf stPaired 5) 0).isSome = true ∧ sparseAt (winOf (stSum 3 0 [] []) 5) 0 = some [3] ∧ (sparseAt (winOf (stSum 3 0 [] []) 5) 1).isNone = true ∧
    (match homePlace (stSum 3 0 [] []) (wd 3 true) (elemOff (wd 3 true) 0) 3 4 with | .ok s2 l => (spoilAt s2 l 4).isNone | _ => false) = true := by
  unfold Stray AtHome
  decide +kernel
theorem test_witness_Multicast : (aget mcNone (stMc true (mth 0 false none)).fab.mcast 4).members.getLsbD 0 = true ∧ (aget mcNone (stMc false (mth 0 false none)).fab.mcast 4).members.getLsbD 0 = false ∧
    (aget mcNone (stMc true (mth 0 false none)).fab.mcast 4).gen = (mth 0 false none).gen ∧
    (match podOk (stMc true (mth 0x30040 true (some 0))) 65535 0x30040 2 with | .ok s0 _ => (match podAt s0 65535 0x30040 with | .ok s1 l => (blocked s1 mcName true (linesOf s1.ram l (unit216 0x30040 2 0))).isNone | _ => false) | _ => false) = true ∧
    faulted (podOk (stMc true (mth (2 ^ 40) true (some 0))) 65535 (2 ^ 40) 2) = true := by decide +kernel

/-! Protected contexts, the mailbox, power, the host. -/

/-- The last response's status and results. -/
def resp (t : State) : Option (Nat × List Byte) := match t.outbox.getLast? with | some (.doe _ st b) => some (st, b) | _ => none
/-- A slot bound to context 0, whose tables map the 2 MiB page at 2 MiB to region 4 of the slot's domain. -/
def ks (st : SlotSt) : KeySlot := { st := st, pcid := 0, dom := 9, mask := 1, key := 77, mc := 0, taint := [], vers := [], ctr := 0, pool := [] }
def mem0 : List (Nat × DWord) := [(0x3000, 0x24001), (0x24000, 0x26001), (0x26008, 0x00010000008001F3)]
def stProt (x : SlotSt) : State :=
  { st with ram := mem0.foldl (fun r p => ramWrite r (hbmLoc p.1) 0 (leBytes 8 p.2.toNat)) st.ram,
            ctxs := aset ctxNone st.ctxs 0 { valid := true, root := 0x3000, podRoot := 0, handler := 0, pool := 0, prot := true, key := 1 },
            arm := { st.arm with slots := [(1, ks x)], domains := [(4, 1)] } }
def stIde : State := { st with arm := { st.arm with ideCache := true, ideMem := true } }
theorem test_ctxcreate : gives (.ctxcreate 5 1 9) stIde (fun t => resp t = some (0, [1, 0, 0, 0]) && (slotOf t 1).st = .loading && (slotOf t 1).pcid = 5) = true ∧ gives (.ctxcreate 5 1 9) st (fun t => resp t = some (3, [])) = true ∧
    gives (.ctxcreate 5 1 0) stIde (fun t => resp t = some (2, [])) = true ∧ gives (.ctxcreate 0 1 9) (let s := stProt .sealed; { s with arm := { s.arm with ideCache := true, ideMem := true } }) (fun t => resp t = some (3, [])) = true := by decide +kernel
theorem test_ctxassign : gives (.ctxassign 1 0 8 2) (stProt .loading) (fun t => resp t = some (0, []) && domainByte t 7 = 0 && domainByte t 8 = 1 && domainByte t 9 = 1 && domainByte t 10 = 0) = true ∧
    gives (.ctxassign 1 1 130047 2) (stProt .loading) (fun t => resp t = some (2, [])) = true ∧ gives (.ctxassign 1 0 3 2) (stProt .loading) (fun t => resp t = some (3, [])) = true := by decide +kernel
theorem test_ctxload : gives (.ctxload 1 0 4 0) (stProt .loading) (fun t => resp t = some (0, []) && rd8 t.ram.hbm (2 ^ 23 + 0x26008) = 0xF3) = true ∧ gives (.ctxload 1 0 4 0) (stProt .sealed) (fun t => resp t = some (3, [])) = true ∧
    gives (.ctxload 1 0 5 0) (stProt .loading) (fun t => resp t = some (3, [])) = true := by decide +kernel
theorem test_ctxseal : gives (.ctxseal 1) (stProt .loading) (fun t => (slotOf t 1).st = .sealed && resp t = some (0, [])) = true ∧ gives (.ctxseal 1) (stProt .sealed) (fun t => resp t = some (3, [])) = true := by decide +kernel
theorem test_ctxdestroy : gives (.ctxdestroy 1) (stProt .sealed) (fun t => (slotOf t 1).st = .free && domainByte t 4 = 0x80 && t.arm.scrub.regions = [4] && resp t = some (0, [])) = true ∧ gives (.ctxdestroy 2) (stProt .sealed) (fun t => resp t = some (3, [])) = true := by
  decide +kernel
def stScrub : State := { stProt .sealed with arm := { (stProt .sealed).arm with domains := [(0, 0x80), (4, 1)], scrub := { regions := [0], active := true, resumed := false, prog := 0, total := 1 } } }
theorem test_scrubRecord : gives .scrubRecordComplete stScrub (fun t => domainByte t 0 = 0 && domainByte t 4 = 1 && rd8 t.ram.hbm 0x26008 = 0 && !t.arm.scrub.active) = true := by decide +kernel
theorem test_pageout : gives (.pageout 1 0x400000 0) (stProt .sealed) (fun t => resp t = some (3, [])) = true ∧ gives (.pageout 1 0x200000 (BitVec.ofNat 64 (2 ^ 48))) (stProt .sealed) (fun t => resp t = some (2, [])) = true := by
  decide +kernel
theorem test_pagein : gives (.pagein 1 0 0 4) (stProt .sealed) (fun t => resp t = some (3, [])) = true ∧ gives (.pagein 1 0x1000 0 5) (stProt .sealed) (fun t => resp t = some (2, [])) = true := by decide +kernel

theorem rdBytes_eq {m m' : Memory} : ∀ {n a : Nat}, (∀ i < n, rd8 m (a + i) = rd8 m' (a + i)) → rdBytes m a n = rdBytes m' a n
  | 0, _, _ => rfl
  | n + 1, a, h => by
    rw [rdBytes, rdBytes, show rd8 m a = rd8 m' a from h 0 (by omega),
      rdBytes_eq (m := m) (m' := m') (n := n) (a := a + 1) fun i hi => by have e := h (i + 1) (by omega); rwa [show a + (i + 1) = a + 1 + i by omega] at e]
theorem rdBytes_own {m : Memory} : ∀ {bs : List Byte} {a : Nat}, (∀ i < bs.length, rd8 m (a + i) = bs.getD i 0) → rdBytes m a bs.length = bs
  | [], _, _ => rfl
  | b :: l, a, h => by
    rw [List.length_cons, rdBytes, show rd8 m a = b from h 0 (by simp), rdBytes_own fun i hi => by rw [show a + 1 + i = a + (i + 1) by omega, h (i + 1) (by simpa using hi)]; rfl]
theorem leBytes_length : ∀ (n x : Nat), (leBytes n x).length = n
  | 0, _ => rfl
  | n + 1, x => by rw [leBytes, List.length_cons, leBytes_length]
theorem leNat_own : ∀ (n x : Nat), x < 256 ^ n → leNat (leBytes n x) = x
  | 0, x, h => by simp at h; subst h; rfl
  | n + 1, x, h => by
    rw [leBytes, leNat, leNat_own n (x / 256) (by rw [Nat.pow_succ] at h; omega)]
    simp only [BitVec.toNat_ofNat]
    omega
theorem leNat_zeros {m : Memory} : ∀ {n a : Nat}, (∀ i < n, rd8 m (a + i) = 0) → leNat (rdBytes m a n) = 0
  | 0, _, _ => rfl
  | n + 1, a, h => by
    rw [rdBytes, leNat, show rd8 m a = 0 from h 0 (by omega), leNat_zeros fun i hi => by rw [show a + 1 + i = a + (i + 1) by omega]; exact h (i + 1) (by omega)]
    rfl
/-- Host memory with the tag of the blob of zeros for counter 0 at address 0, and a slot that records counter 0 of address 0. -/
noncomputable def stBlob : State :=
  let s := stProt .sealed
  let tag := Config.gcmTag 77 0 (pageAad 0 0 0) (rdBytes [] 0 blobSize)
  { s with ram := { s.ram with host := wrBytes [] (blobSize + 48) (leBytes 16 tag.toNat) }, arm := { s.arm with slots := [(1, { ks .sealed with vers := [(0, 0)] })] } }
theorem test_witness_openBlob : ∃ n b, openBlob stBlob { ks .sealed with vers := [(0, 0)] } 0 0 = some (n, b) := by
  have out (a n : Nat) (h : a + n ≤ blobSize + 48) : leNat (rdBytes stBlob.ram.host a n) = 0 := leNat_zeros fun i hi => (rd8_wrBytes_ne (Or.inl (by omega))).trans rfl
  have e1 : rdBytes stBlob.ram.host 0 blobSize = rdBytes [] 0 blobSize := rdBytes_eq fun i hi => rd8_wrBytes_ne (Or.inl (by omega))
  have e2 : leNat (rdBytes stBlob.ram.host (blobSize + 48) 16) = (Config.gcmTag 77 0 (pageAad 0 0 0) (rdBytes [] 0 blobSize)).toNat := by
    have l : (leBytes 16 (Config.gcmTag 77 0 (pageAad 0 0 0) (rdBytes [] 0 blobSize)).toNat).length = 16 := leBytes_length _ _
    have h := rdBytes_own (m := stBlob.ram.host) (bs := leBytes 16 (Config.gcmTag 77 0 (pageAad 0 0 0) (rdBytes [] 0 blobSize)).toNat) (a := blobSize + 48) fun i hi => rd8_wrBytes_in hi
    rw [l] at h
    rw [h, leNat_own _ _ (lt_of_lt_of_le (BitVec.isLt _) (by decide))]
  refine ⟨0, padTo blobSize (Config.gcmOpen 77 0 (rdBytes [] 0 blobSize)), ?_⟩
  unfold openBlob
  simp only [show (0 : DWord).toNat = 0 from rfl, Nat.zero_add, e1, e2, out (blobSize + 8) 8 (by omega), out (blobSize + 16) 2 (by omega), out blobSize 8 (by omega), BitVec.ofNat_toNat, BitVec.setWidth_eq,
    show (ks .sealed).key = 77 from rfl, show (ks .sealed).pcid = 0 from rfl, show (0 : BitVec 16).toNat = 0 from rfl, decide_true, List.contains_cons, beq_self_eq_true, Bool.true_or, Bool.and_self, if_true]
theorem test_witness_ProtectedContexts : destroying stIde = none ∧ destroying (stProt .loading) = none ∧ (∀ e ∈ stIde.arm.slots, e.2.st ≠ .free → e.2.pcid ≠ 5) ∧ (slotOf stIde 1).st = .free ∧ Bound (stProt .loading) 1 ∧ ¬ Bound (stProt .loading) 0 ∧
    ¬ Bound (stProt .loading) 64 ∧ 130047 + 1 ≤ dieRegions ∧ 130047 + 2 > dieRegions ∧ (∀ i < 2, domainByte (stProt .loading) (8 + i) = 0) ∧ (∀ i < 2, Unmapped (stProt .loading) (8 + i)) ∧
    (domainByte (stProt .loading) 4).toNat = 1 ∧ (stProt .loading).ram.maps = [] ∧ isHbm (2 ^ 21 * 4) = true ∧ stScrub.arm.scrub.active = true ∧ (∀ r ∈ stScrub.arm.scrub.regions, Unmapped stScrub r) ∧
    threadsOf (setSlot (cancelContext (stProt .sealed) 0) 1 { ks .sealed with st := .destroying }) 0 = false := by
  unfold Bound Unmapped
  decide +kernel
theorem test_witness_threads : threadsOf (setSlot (cancelContext (let s := stProt .sealed; { s with fab := { s.fab with mcThreads := [{ mth 0 true none with pcid := 0 }] } }) 0) 1 { ks .sealed with st := .destroying }) 0 = true := by
  decide +kernel
theorem test_witness_PageRequests : (∃ r l, pageAt (stProt .sealed) 1 0x200000 = some (r, l) ∧ l.entry / 2 ^ 21 ≠ r ∧ l.entry % 8 = 0) ∧ pageAt (stProt .sealed) 1 0 = none ∧ (0x200000 : DWord).toNat % 2 ^ 21 = 0 ∧
    (BitVec.ofNat 64 (2 ^ 48 - blobSize - 64)).toNat + blobSize + 64 ≤ 2 ^ 48 ∧ entryAt (stProt .sealed) (ctxOf (stProt .sealed) 0) 0 = some 0x26000 ∧ entryAt stBlob (ctxOf stBlob 0) 0 = some 0x26000 ∧ domainByte stBlob 5 = 0 ∧
    (slotOf stBlob 1) = { ks .sealed with vers := [(0, 0)] } ∧ entryAt st (ctxOf st 9) 0 = none :=
  ⟨⟨4, (match pageAt (stProt .sealed) 1 0x200000 with | some p => p.2 | none => default), by decide +kernel, by decide +kernel, by decide +kernel⟩, by decide +kernel, by decide +kernel, by decide +kernel, by decide +kernel, by decide +kernel, by decide +kernel, by decide +kernel, by decide +kernel⟩
/-- A blob whose counter the slot has not recorded does not verify. -/
theorem test_witness_taint : openBlob (stProt .sealed) (ks .sealed) 0 0 = none := by
  unfold openBlob
  simp [ks]

theorem test_nodeset : gives (.nodeset 3) st (fun t => t.fab.node = 3 && t.fab.nodeSet && resp t = some (0, [])) = true ∧ gives (.nodeset 3) { st with fab := { st.fab with launched := true } } (fun t => !t.fab.nodeSet && resp t = some (3, [])) = true := by
  decide +kernel
theorem test_status : gives (.doeStatus 1) (stProt .sealed) (fun t => (resp t).map (fun p => (p.1, p.2.take 4)) = some (0, [2, 0, 0, 0])) = true ∧ gives (.doeStatus 64) st (fun t => resp t = some (2, [])) = true := by decide +kernel
theorem test_quote : gives (.quote 0 [] []) st (fun t => resp t = some (2, [])) = true ∧ gives (.quote 0 (List.replicate 48 1) (List.replicate 64 2)) st (fun t => (resp t).map (·.1) = some 0) = true := by decide +kernel
theorem test_extend : gives (.extend [1]) st (fun t => resp t = some (2, [])) = true ∧ gives (.extend (List.replicate 48 1)) st (fun t => resp t = some (0, [])) = true := by decide +kernel
theorem test_linkattest : gives (.linkattest (kx 4)) (stLink 5) (fun t => linkAt t 3 = 3 && resp t = some (0, [])) = true ∧ gives (.linkattest { kx 4 with agtilux := false }) (stLink 5) (fun t => linkAt t 3 = 5) = true ∧
    gives (.linkattest { kx 4 with port := 32 }) st (fun t => resp t = some (2, [])) = true := by decide +kernel
theorem test_uekey : gives (.uekey 6 [1]) stEp (fun t => (aget epNone t.fab.endpoints 6).valid && resp t = some (0, [])) = true := by decide +kernel
theorem test_debug : gives .debugnonce st (fun t => t.arm.debugNonce.length = 48) = true ∧ gives (.debug (List.replicate 160 0)) st (fun t => resp t = some (3, []) && !t.arm.unlocked) = true ∧ gives (.debug []) st (fun t => resp t = some (2, [])) = true := by decide +kernel
theorem test_pstate : gives (.pstate 2) st (fun t => t.arm.cur = 2 && t.power = .run) = true ∧ gives (.pstate 3) st (fun t => t.arm.cur = 0 && t.arm.req = 3) = true ∧ gives (.pstate 1) { st with power := .p3 } (fun t => t.power = .p3Leaving) = true := by decide +kernel
theorem test_reset : gives .reset { st with power := .tripped } (fun t => resp t = some (3, [])) = true ∧ gives .reset st (fun t => t.grps = [] && t.fab.incarn = 2 && resp t = some (0, [])) = true := by decide +kernel
theorem test_busy : gives (.nodeset 3) (stProt .destroying) (fun t => resp t = some (1, []) && !t.fab.nodeSet) = true ∧ gives (.ctxdestroy 2) (stProt .destroying) (fun t => resp t = some (1, [])) = true := by decide +kernel
/-- A token of this device for the latest nonce; whether its signature verifies is the configuration's. -/
noncomputable def token : List Byte := bvBytes Config.serial ++ [1, 0, 0, 0] ++ List.replicate 4 0 ++ List.replicate 48 5 ++ List.replicate 96 0
def stIdle (nonce : List Byte) : State := { State.reset with arm := { State.reset.arm with debugNonce := nonce } }
theorem test_witness_MailboxRequests : destroying (stProt .destroying) ≠ none ∧ doeCode (.nodeset 3) = some 1 ∧ destroying st = none ∧ st.fab.launched = false ∧ IncOk (stLink 5) 7 4 ∧ unitPlaced st = true ∧ unitPlaced (stIdle []) = false ∧
    (∀ e ∈ (stIdle []).chip.queues, e.2.en = false) ∧ (List.replicate 160 (0 : Byte)).length = 160 ∧ (Config.debugTokenOk token = true → token.length = 160 ∧ tokenOk (stIdle (List.replicate 48 5)) token = true) := by
  refine ⟨by decide +kernel, rfl, by decide +kernel, by decide +kernel, by unfold IncOk; decide +kernel, by decide +kernel, by decide +kernel, by decide +kernel, rfl, fun h => ⟨rfl, ?_⟩⟩
  unfold tokenOk
  rw [h]
  exact (by simp only [show token.take 8 = bvBytes Config.serial from rfl, decide_true, Bool.true_and, Bool.and_true]; decide +kernel)

theorem test_p3 : gives .p3Entry { stIdle [] with arm := { State.reset.arm with req := 3 } } (fun t => t.power = .p3 && t.arm.cur = 3) = true ∧ gives .p3Entry { st with arm := { st.arm with req := 3 } } (fun t => t.power = .run) = true ∧
    gives .p3ExitComplete { st with power := .p3Leaving, arm := { st.arm with req := 1 } } (fun t => t.power = .run && t.arm.cur = 1) = true := by decide +kernel
theorem test_trip : gives .thermalTrip (stLink 0x50003) (fun t => t.power = .tripped && linkAt t 3 = 0x50000 && aget 0 t.arm.life 5 = 1) = true := by decide +kernel
theorem test_counters : gives .lifetimeCounterFlush { st with arm := { st.arm with life := [(7, 9)] } } (fun t => aget 0 t.arm.flash 7 = 9) = true ∧ gives .hourPowered { st with arm := { st.arm with life := [(7, 9)] } } (fun t => aget 0 t.arm.life 7 = 10) = true ∧
    gives .hourPowered { st with arm := { st.arm with life := [(7, 0xFFFFFFFF)] } } (fun t => aget 0 t.arm.life 7 = 0xFFFFFFFF) = true := by decide +kernel
def stLife : State := { stLink 0x50003 with arm := { stScrub.arm with life := [(5, 2)], flash := [(5, 1)] }, fab := { (stLink 0x50003).fab with incarn := 0xFFFFFFFF } }
theorem test_resets : gives .coldReset stLife (fun t => aget 0 t.arm.life 5 = 1 && t.fab.incarn = 1 && t.arm.scrub.regions = [] && linkAt t 3 = 0) = true ∧
    gives .warmReset stLife (fun t => aget 0 t.arm.flash 5 = 2 && t.fab.incarn = 1 && t.arm.scrub.resumed && domainByte t 0 = 0x80 && domainByte t 4 = 0 && linkAt t 3 = 0x50000) = true ∧
    gives .powerRemoved stLife (fun t => t.power = .off && t.ram.hbm = [] && aget 0 t.arm.life 5 = 0) = true := by decide +kernel
theorem test_witness_PowerAndReset : unitPlaced (stIdle []) = false ∧ threadRuns (stIdle []) = false ∧ unitPlaced st = true ∧ ((stLink 3).fab.linkstat.map (·.1)).Nodup ∧ stScrub.arm.scrub.active = true ∧ domainByte stScrub 0 = 0x80 := by decide +kernel

theorem test_cxlRead : gives (.cxlMemRead 0x30047) stMem (fun t => (match t.outbox with | [.cxl 0x30040 d false] => leNat (d.take 4) = 0x87654321 | _ => false) && aget 0 t.hostHeld (0x30040 / 64) = 1) = true ∧
    gives (.cxlMemRead (2 ^ 39)) stMem (fun t => t.outbox.any fun o => o = .cxl (2 ^ 39) (List.replicate 64 0) true) = true := by decide +kernel
theorem test_cxlWrite : gives (.cxlMemWrite 0x30040 (List.replicate 64 9)) stMem (fun t => ramNat t.ram (hbmLoc 0x30040) 4 = 0x09090909 && ramNat t.ram (hbmLoc 0x30080) 4 = 0) = true ∧
    gives (.cxlMemWrite (2 ^ 23) (List.replicate 64 9)) (stProt .sealed) (fun t => rd8 t.ram.hbm (2 ^ 23) = 0) = true := by decide +kernel
/-- A window that has read the host line at 0x1000, which the device holds in a state of 0 to 3: absent, shared, exclusive, modified (R407). -/
def stMesi (m : Nat) : State := { onGrp (fun g => { g with wins := g.wins.map fun w => { w with reads := [{ sp := .host, a := 0x1000 / 128 * 128 }] } }) stWin with hostMesi := [(32, m)] }
theorem test_hostSnoop : gives (.hostSnoop 0x1000 (some (List.replicate 64 9))) st (fun t => rd8 t.ram.host 0x103F = 9 && rd8 t.ram.host 0x1040 = 0) = true ∧
    gives (.hostSnoop 0x1000 none) (stMesi 2) (fun t => (gOf t).wins.all (·.hit) && aget 0 t.hostMesi 32 = 1) = true ∧
    gives (.hostSnoop 0x1000 none) (stMesi 1) (fun t => (gOf t).wins.all (fun w => !w.hit)) = true := by decide +kernel
theorem test_bisnoop : gives (.backInvalidationResponse 0x80) { st with hostHeld := [(2, 2)] } (fun t => t.hostHeld = []) = true ∧ gives (.ideKm true true) st (fun t => linkAt t 35 = 2 && resp t = some (0, [])) = true ∧
    gives (.ideKm true false) st (fun t => linkAt t 35 = 0 && t.arm.ideCache) = true := by decide +kernel
theorem test_witness_HostAccess : isHbm 0x30040 = true ∧ regionDom stMem 0x30040 = 0 ∧ heldLine stMem 0 true (linesOf stMem.ram { sp := .hbm, a := 0x30040 } 64) = false ∧ regionDom (stProt .sealed) (2 ^ 23) ≠ 0 ∧
    heldLine { stMem with drains := [{ group := 9, line := hbmLoc 0x30000 }] } 0 false (linesOf stMem.ram { sp := .hbm, a := 0x30040 } 64) = true ∧ (∀ m ∈ stMem.ram.maps, 0x30040 + 64 ≤ m.pa ∨ m.pa + m.len ≤ 0x30040) ∧
    heldLine stMem 0 true (linesOf stMem.ram { sp := .host, a := 2 ^ 48 - 64 } 64) = false ∧ isHbm (0x3F80000000 - 64) = true ∧ isHbm 0x3F80000000 = false := by decide +kernel
/-- A damaged line goes out poisoned (R410); the window of stMesi is marked only where it read the snooped line. -/
theorem test_cxlPoison : gives (.cxlMemRead 0x30040) stBad (fun t => t.outbox = [.cxl 0x30040 (List.replicate 64 0) true] && t.hostHeld = []) = true := by decide +kernel
theorem test_witness_Snooped : spoilAt stBad { sp := .hbm, a := 0x30040 } 64 ≠ none ∧ heldLine (stMesi 2) 0 false (linesOf (stMesi 2).ram { sp := .host, a := 0x1000 } 64) = false ∧ 2 ≤ aget 0 (stMesi 2).hostMesi (0x1000 / 128) ∧
    aget 0 (stMesi 1).hostMesi (0x1000 / 128) < 2 ∧ (gOf (stMesi 2)).uid ≠ 0 ∧ (∀ w ∈ (gOf (stMesi 2)).wins, w.hit = false) ∧ ∃ w ∈ (gOf (stMesi 2)).wins, ∃ l ∈ linesOf (stMesi 2).ram { sp := .host, a := 0x1000 } 64, l ∈ w.reads := by decide +kernel

/-- A window that has read the line at 0x30000, alone or behind an older one (R245, R246). -/
def stRead : State := onGrp (fun g => { g with wins := g.wins.map fun w => { w with reads := [hbmLoc 0x30000] } }) stWin
def stOld : State := onGrp (fun g => { g with wins := g.wins ++ g.wins.map fun w => { w with start := w.start + 1 } }) stRead
theorem test_cacheInputs : (gOf (runInput stRead (.l1Full 0 0 (hbmLoc 0x30000)))).wins.map (·.passed) = [[hbmLoc 0x30000]] ∧ (gOf (runInput stOld (.l1Full 0 0 (hbmLoc 0x30000)))).wins.all (·.closed) = true ∧
    (gOf (runInput stRead (.l2Full 0 0 [hbmLoc 0x30000]))).solo = some 256 ∧ (gOf (runInput stRead (.l2Full 0 0 [hbmLoc 0x30000]))).wins = [] := by decide +kernel
/-- The round event of the count of one at 0x30080 (R269), and the failure bit (R267). -/
def stOwed (op : RoundOp) : State := { stHome with fab := { stHome.fab with owed := [{ win := 5, notify := 0x30080, pcid := 65535, op := op }] } }
theorem test_otherInputs : ramNat (runInput (stOwed (.count 1 false)) .roundEvent).ram (hbmLoc 0x30080) 8 = 1 ∧ (runInput (stOwed (.count 1 false)) .roundEvent).fab.owed = [] ∧ ramNat (runInput (stOwed .fail) .roundEvent).ram (hbmLoc 0x30080) 8 = 2 ^ 63 ∧
    (runInput stBump (.bumpAck 7 0x30)).fab.bumps = [] ∧ (runInput st (.vectorMask true)).chip.msixMask = true ∧ aget 0 (runInput st .corrected).arm.life 2 = 1 ∧ spoilAt (runInput stMem (.damage (.byte (hbmLoc 0x30041) 2))) (hbmLoc 0x30040) 4 = some 2 := by decide +kernel
def oneHold : Hold := { node := 7, sub := 0x30, off := 0x31, write := true }
theorem test_witness_InputEffects : (grpAt stRead 0 0).any (fun g => g.wins.all (fun w => w.reads = [hbmLoc 0x30000] && !w.closed) && g.wins.length = 1 && g.live && g.core = 0 && grpOf stRead g.uid = some g && (stRead.grps.filter fun h => h.uid = g.uid) = [g]) = true ∧
    (grpAt stOld 0 0).any (fun g => g.wins.length = 2) = true ∧ (∀ h ∈ stRead.grps, h.uid ≠ (gOf stRead).uid → ∀ v ∈ h.wins, hbmLoc 0x30000 ∉ v.reads) ∧ (∃ e rest, (stOwed .fail).fab.owed = e :: rest) ∧
    isOk (homePlace (stOwed .fail) { winNone.d with notify := 0x30080, pcid := 65535 } 0x30080 3 8) = true ∧ ({ stHome with fab := { stHome.fab with holds := [oneHold] } }.fab.holds.find? fun x => x.node = 7 && x.off = 0x31) = some oneHold ∧
    (stBad.bad.filter fun x => match x with | .byte .. => true | _ => false) = [.byte (hbmLoc 0x30041) 2] ∧ hbmLoc 0x30041 = resolve stBad.ram (hbmLoc 0x30041) :=
  ⟨by decide +kernel, by decide +kernel, by decide +kernel, ⟨_, _, rfl⟩, by decide +kernel, by decide +kernel, by decide +kernel, by decide +kernel⟩

/-! Steps, encodings, the invariant. -/

/-- A word as the first instruction after reset. -/
def first (n w : Nat) : State := State.reset.withFetchWord n w
/-- One step from there. -/
def steps (n w : Nat) (f : State → Bool) : Prop := (match step (first n w) with | .next t => f t | _ => false) = true
theorem test_step_scalar : steps 32 0x44287FEC (fun t => (gOf t).g.splits.map (fun x => (x.pc, sGet x 5)) = [(0x10004, 0xFFFFFFEC)]) := by unfold steps; decide +kernel
/-- An illegal word with no handler ends the launch (R66, R412). -/
theorem test_step_illegal : steps 32 0xFFFFFFFF (fun t => t.launches.map (·.complete) = [true] && t.grps.all (·.ended) && (gOf t).frame = none) ∧ steps 32 0x20000000 (fun t => t.grps.map (·.ended) = [true]) := by unfold steps; decide +kernel
theorem test_step_lane : steps 96 0x00C0043300C6700000000000 (fun t => (gOf t).g.laneQ = [] && (gOf t).g.splits.map (·.pc) = [0x10000]) := by unfold steps; decide +kernel
theorem test_step_ce : steps 64 0x3C00000000000000 (fun t => t.ces.all fun l => l.st != .running) := by unfold steps; decide +kernel
theorem test_step_queue : steps 256 0 (fun t => (queOf t 0).rd = 1) := by unfold steps; decide +kernel
theorem test_tableWord : decodeTableWord 32 0x44287FEC = some (.addi 5 3 (-20)) ∧ decodeTableWord 32 0xFFFFFFFF = none ∧ decodeTableWord 256 0 = some (.qnop false) := by decide +kernel
/-- A chip that is tripped takes no turn of a group, and no event but Armoire's (R469). -/
theorem test_step_power : (match step { first 32 0x44287FEC with power := .tripped } with | .next t => (gOf t).g.splits.map (·.pc) = [0x10000] | _ => false) = true ∧
    (match step { st with power := .tripped, agenda := [.event (.linkDown 3)] } with | .next t => aget false t.fab.planeDown 3 | _ => true) = false ∧
    (match step { st with agenda := [.event (.linkDown 3)] } with | .next t => aget false t.fab.planeDown 3 | _ => false) = true := by decide +kernel
theorem test_witness_InvariantKept : Kept State.reset ∧ Kept (first 32 0x44287FEC) ∧ ∃ t, step (first 32 0x44287FEC) = .next t := by
  refine ⟨⟨by decide +kernel, by decide +kernel⟩, ⟨by decide +kernel, by decide +kernel⟩, ?_⟩
  have h : steps 32 0x44287FEC fun _ => true := by unfold steps; decide +kernel
  unfold steps at h
  split at h
  · exact ⟨_, by assumption⟩
  · exact absurd h (by simp)
theorem test_witness_RoundTrip : (Instr.addi 63 63 (-8192)).wf = true ∧ encodeScalar (.addi 5 3 (-20)) = some 0x44287FEC ∧ decodeScalar 0x20000000 = .ok .exit ∧ (Instr.iadd (hdrAB (.vreg 1) (v 2) (v 3)) (am .s32)).wf = true ∧
    (encodeLane (.iadd (hdrAB (.vreg 1) (v 2) (v 3)) (am .s32))).isSome = true ∧ encodeCe .eend = some [0x3C00000000000000] ∧ encodeQueue (.qnop false) = some 0 := by decide +kernel

/-- The group of the placed word, and its split. -/
def g1 (s : State) : Grp := (grpAt s 0 0).getD (gOf s)
def x1 (s : State) : Split := (pickSplit s (g1 s)).getD (xOf s)
def s1 (n w : Nat) : State := turnOf (first n w) []
def u1 : State := freshRound (s1 32 0x44287FEC) (g1 (s1 32 0x44287FEC))
theorem picked {s : State} {x : Split} (h : ((pickSplit s (g1 s)).map fun y => (y.idx, y.pc)) = some (0, 0x10000)) (hx : x = x1 s) : pickSplit s (g1 s) = some x := by
  rw [hx, x1]
  cases e : pickSplit s (g1 s)
  · rw [e] at h
    exact absurd h (by simp)
  · rfl
theorem fetched {e : Except TrapInfo Unit} (h : (match e with | .ok _ => true | _ => false) = true) : e = .ok () := by
  cases e
  · exact absurd h (by simp)
  · rfl
theorem test_witness_StepRunsDecoded_scalar : Takes (first 32 0x44287FEC) (.slot 0 0) (s1 32 0x44287FEC) ∧ IssuesNext (s1 32 0x44287FEC) 0 0 (g1 (s1 32 0x44287FEC)) (x1 (s1 32 0x44287FEC)) ∧
    fetchCheck (x1 (s1 32 0x44287FEC)).pcc (x1 (s1 32 0x44287FEC)).pc = .ok () ∧
    (∃ t w, fetchWord u1 (g1 (s1 32 0x44287FEC)) (x1 (s1 32 0x44287FEC)).pcc (x1 (s1 32 0x44287FEC)).pc = .ok t w ∧ decodeScalar w = .ok (.addi 5 3 (-20))) ∧
    (match target u1 (agtOf u1 (g1 (s1 32 0x44287FEC))) (x1 (s1 32 0x44287FEC)).pcc 0x10000 accFetch 0 (gangWg u1 (g1 (s1 32 0x44287FEC)).gang) with
      | .ok t (.here l _) => decide (aget 0 t.codeCache (codeKey 0 65535 0x10000) = 0) && (spoilAt t l 4).isNone | _ => false) = true ∧
    fetchCheck capNull 0x10000 ≠ .ok () ∧ decodeScalar 0xFFFFFFFF = .error 1 := by
  refine ⟨Or.inl ⟨[], rfl, rfl⟩, ⟨by rfl, by decide +kernel, by decide +kernel, by decide +kernel, by decide +kernel, picked (by decide +kernel) rfl⟩, fetched (by decide +kernel), ?_, by decide +kernel, by decide +kernel, by decide +kernel⟩
  have h : (match fetchWord u1 (g1 (s1 32 0x44287FEC)) (x1 (s1 32 0x44287FEC)).pcc (x1 (s1 32 0x44287FEC)).pc with | .ok _ w => decide (decodeScalar w = .ok (.addi 5 3 (-20))) | _ => false) = true := by decide +kernel
  split at h
  · exact ⟨_, _, by assumption, by simpa using h⟩
  · exact absurd h (by simp)
def sLane : State := { s1 96 0x00C0043300C6700000000000 with actor := .lane 0 0 }
theorem test_witness_StepRunsDecoded_lane : (actorLane sLane).any (fun x => !attesting x.g && !accessOut sLane x.g && (performer sLane x.g).isNone && !pipeHeld sLane x.g &&
    decide (blockCode x.g.regs (accsOf sLane x.g) x.b.words x.n = none) && (match decodeLane x.g.regs (accsOf sLane x.g) x.w with | .ok _ => true | _ => false)) = true := by decide +kernel
theorem test_witness_StepRunsDecoded_ce : (ceAt (s1 64 0x3C00000000000000) 0 0 0).any (fun l => !l.waiting && decide (l.st ≠ .stopped) && (match ceFetch (s1 64 0x3C00000000000000) l l.pc with
      | .ok t w0 => (match ceFetchRest t l w0 with | .ok _ (w1, w2) => decide (decodeCe w0 w1 w2 = .ok .eend) | _ => false) | _ => false)) = true ∧
    decodeCe 0x4000000000000000 0 0 = .error 1 := by decide +kernel
/-- A data command of a list that is under way. -/
theorem test_witness_StepRunsDecoded_cmd : (ceAt (onCmd (cmd 0 []) stCe) 0 0 0).any (fun l => (l.cmds[0]?).any fun c => !c.asking && c.stop.isNone && (match decodeCe c.w0 c.w1 c.w2 with | .ok _ => true | _ => false)) = true := by decide +kernel
def sQue : State := { queueRetry (s1 256 0) 0 with actor := .queue 0 }
def uQue : State := { sQue with chip := { sQue.chip with lastServed := 0 } }
theorem test_witness_StepRunsDecoded_queue : (queOf sQue 0).en = true ∧ (queOf sQue 0).state = 1 ∧ (queOf sQue 0).rd ≠ (queOf sQue 0).wr ∧ pushing sQue 0 = false ∧ servedFirst sQue 0 = false ∧ (ctxOf uQue (queOf sQue 0).pcid).valid = true ∧
    (match ringRecord uQue 0 (queOf sQue 0) with | .ok _ r => decide (decodeQueue (BitVec.ofNat 256 r) = .ok (.qnop false)) | _ => false) = true := by decide +kernel
/-- A QLAUNCH of a context that is not valid (R384). -/
def sLate : State :=
  let s := s1 256 1
  { queueRetry { s with ctxs := s.ctxs.map fun e => (e.1, { e.2 with valid := false }) } 0 with actor := .queue 0, chip := { (s1 256 1).chip with lastServed := 0 } }
theorem test_witness_StepRunsDecoded_late : (ctxOf sLate (queOf sLate 0).pcid).valid = false ∧ lateOp sLate 0 (queOf sLate 0) = 1 := by decide +kernel
theorem test_witness_StepRunsDecoded_event : isEvent (.linkDown 3) = true ∧ eventOn .run (.linkDown 3) = true ∧ eventOn .tripped (.linkDown 3) = false ∧ isEvent .exit = false ∧
    Takes State.reset (Config.freeTurn 0) { State.reset with nonce := 1, actor := .none } := ⟨rfl, rfl, rfl, rfl, Or.inr ⟨rfl, rfl, rfl⟩⟩

/-! Witnesses of statements whose premises are those of a group that runs, with no window. -/

theorem test_witness_SnopDoesNothing : Runs st (gOf st) (xOf st) := runs_st
theorem test_witness_CallResult : Runs st (gOf st) (xOf st) ∧ Reaches (xOf st) 1 ∧ Reaches (xOf st) (-64) := by
  unfold Reaches
  exact ⟨runs_st, by decide +kernel, by decide +kernel⟩
theorem test_witness_LaneCodeBase : (cGet (xOf stCaps) 1).tag = true ∧ cOtype (cGet (xOf stCaps) 1) = 0 ∧ cHas (cGet (xOf stCaps) 1) 2 = true ∧ cOtype (cGet (xOf stCaps) 4) ≠ 0 ∧ Runs stCaps (gOf stCaps) (xOf stCaps) :=
  ⟨by decide +kernel, by decide +kernel, by decide +kernel, by decide +kernel, runs (by decide +kernel)⟩
theorem test_witness_YieldResult : Nat.min (sGet (xOf st) 0).toNat 65535 = 0 ∧ Nat.min (sGet (xOf (setR [(7, 70000)] st)) 7).toNat 65535 = 65535 := by decide +kernel
theorem test_witness_SpecialRegisterWrite : Runs st (gOf st) (xOf st) ∧ (Instr.smovWrite 1 9).wf = true ∧ (Instr.smovWrite 1 10).wf = true := ⟨runs_st, rfl, rfl⟩
/-- A settled group with no window is as it was. -/
theorem still {s : State} {g : Grp} {x : Split} (h : commitAll s g.uid = (s, .done)) (hg : grpOf s g.uid = some g) (hx : g.g.split x.idx = some x) (hm : ∀ m ∈ s.fab.mcThreads, m.group ≠ g.uid) :
    Settles s g x s g x := ⟨h, hg, hx, hm⟩
theorem test_witness_ExitLeavesSplits : Settles (stTwo 0x9000 false) (gOf (stTwo 0x9000 false)) (xOf (stTwo 0x9000 false)) (stTwo 0x9000 false) (gOf (stTwo 0x9000 false)) (xOf (stTwo 0x9000 false)) ∧
    SplitsOk (gOf (stTwo 0x9000 false)) ∧ pendingStop (stTwo 0x9000 false) (gOf (stTwo 0x9000 false)) = none ∧ ∃ y ∈ (gOf (stTwo 0x9000 false)).g.splits, y.idx ≠ (xOf (stTwo 0x9000 false)).idx ∧ y.st ≠ .merge := by
  refine ⟨still (by rfl) (by rfl) (by rfl) (by decide +kernel), ?_, Option.isNone_iff_eq_none.1 (by decide +kernel), by decide +kernel⟩
  unfold SplitsOk
  decide +kernel
theorem test_witness_ExitEndsGroup : let s := modMat (scalar (base 2)) (gOf (scalar (base 2))).wg 0 fun c => { c with holder := none }
    Settles s (gOf s) (xOf s) s (gOf s) (xOf s) ∧ (gOf s).g.splits = [xOf s] ∧ engineBusy s (gOf s) = false ∧ (matOf s (gOf s)).holder ≠ some (gOf s).uid ∧ (gOf s).task = false ∧ (gOf s).g.compact = none ∧
    ((pairOf s (gOf s)).all fun o => (inRendezvous o).isNone) = true ∧ ∃ h ∈ s.grps, h.wg = (gOf s).wg ∧ h.task = false ∧ h.ended = false ∧ h.uid ≠ (gOf s).uid :=
  ⟨still (by rfl) (by rfl) (by rfl) (by decide +kernel), by decide +kernel, by decide +kernel, by decide +kernel, by decide +kernel, by decide +kernel, by decide +kernel, by decide +kernel⟩
theorem test_witness_Compact : Settles stPair (gOf stPair) (xOf stPair) stPair (gOf stPair) (xOf stPair) ∧ NoRegion (gOf stPair) ∧ (gOf stPair).g.splits = [xOf stPair] ∧ (gOf stPair).g.compact = none ∧
    (∃ o y e w, pairOf stPair (gOf stPair) = some o ∧ o.ended = false ∧ o.g.splits = [y] ∧ y.st = .rendezvous e w ∧ grpOf stPair o.uid = some o ∧ o.uid ≠ (gOf stPair).uid ∧ o.core = (gOf stPair).core ∧
      (lanesIn (xOf stPair).act).length + (lanesIn y.act).length ≤ 96) ∧ pairOf st (gOf st) = none ∧ (gOf (stTwo 0x9000 false)).g.splits.length > 1 ∧
    ∃ o, pairOf (scalar (base 2)) (gOf (scalar (base 2))) = some o ∧ o.ended = false ∧ (o.g.splits.all fun y => y.st = .ready) = true :=
  ⟨still (by rfl) (by rfl) (by rfl) (by decide +kernel), .inl (by decide +kernel), by decide +kernel, by decide +kernel,
    ⟨(pairOf stPair (gOf stPair)).getD (gOf stPair), ((pairOf stPair (gOf stPair)).getD (gOf stPair)).g.splits.getD 0 (xOf stPair), _, _, by rfl, by decide +kernel, by decide +kernel, by rfl, by rfl, by decide +kernel, by decide +kernel, by decide +kernel⟩,
    Option.isNone_iff_eq_none.1 (by decide +kernel), by decide +kernel, (pairOf (scalar (base 2)) (gOf (scalar (base 2)))).getD (gOf st), by rfl, by decide +kernel, by decide +kernel⟩
theorem test_witness_UncompactResult : ∃ rec_ p px pd, (gOf stBack).g.compact = some rec_ ∧ grpOf stBack rec_.partner = some p ∧ p.uid ≠ (gOf stBack).uid ∧ p.g.splits = [px] ∧ px.st = .partner pd ∧
    rec_.h.Nodup ∧ rec_.s.Nodup ∧ rec_.h.length = rec_.s.length ∧ (∀ l ∈ rec_.h, l < 96) ∧ ∀ l ∈ rec_.s, l < 96 :=
  ⟨(gOf stBack).g.compact.getD default, ((gOf stBack).g.compact.bind fun r => grpOf stBack r.partner).getD (gOf stBack), (((gOf stBack).g.compact.bind fun r => grpOf stBack r.partner).getD (gOf stBack)).g.splits.getD 0 (xOf stBack), _,
    by decide +kernel, by rfl, by decide +kernel, by decide +kernel, by rfl, by decide +kernel, by decide +kernel, by decide +kernel, by decide +kernel, by decide +kernel⟩
theorem test_witness_UnmapResult : Settles stMapped (gOf stMapped) (xOf stMapped) stMapped (gOf stMapped) (xOf stMapped) ∧ NoRegion (gOf stMapped) ∧
    ((grpOf (unmapSlot stMapped (gOf stMapped).wg 3) (gOf stMapped).uid).any fun g => g.g = (gOf stMapped).g) = true ∧ ((grpOf (unmapWg stMapped (gOf stMapped).wg) (gOf stMapped).uid).any fun g => g.g = (gOf stMapped).g) = true :=
  ⟨still (by rfl) (by rfl) (by rfl) (by decide +kernel), .inl (by decide +kernel), by decide +kernel, by decide +kernel⟩
theorem test_witness_DropResult : (stTq.tces.map (·.uid)).Nodup ∧ (stCe.ces.map (·.uid)).Nodup := by decide +kernel

end Sys2Proof.Tests
end

section
/-! BAR0 (R5, R376): the word that a write leaves at an offset, and the register that a word belongs to. -/

namespace Sys2Proof.Machine

open Sys2Proof.Claims

/-! Words of a write. -/

/-- Bit k of little-endian bytes is bit k % 8 of byte k / 8 (R1). -/
theorem testBit_leNat : ∀ (l : List Byte) (k : Nat), (leNat l).testBit k = (l.getD (k / 8) 0).getLsbD (k % 8)
  | [], k => by simp [leNat]
  | b :: l, k => by
    rw [leNat, show b.toNat + 256 * leNat l = 2 ^ 8 * leNat l + b.toNat by omega, Nat.testBit_two_pow_mul_add _ b.isLt]
    split
    · next h => rw [show k / 8 = 0 by omega, Nat.mod_eq_of_lt h]; rfl
    · next h =>
      rw [testBit_leNat l, show k / 8 = (k - 8) / 8 + 1 by omega, show (k - 8) % 8 = k % 8 by omega]
      rfl

/-- A bit of a word into which a write has gone: the write's where it covers the bit's byte, and otherwise the old one. -/
theorem getLsbD_mergeBar (old : Word) (a off n : Nat) (v : DWord) {k : Nat} (hk : k < 32) :
    (mergeBar old a off n v).getLsbD k =
      if off ≤ a + k / 8 ∧ a + k / 8 < off + n then v.getLsbD (8 * (a + k / 8 - off) + k % 8) else old.getLsbD k := by
  have hj : k / 8 < 4 := by omega
  have hb : k % 8 < 8 := by omega
  rw [mergeBar, BitVec.getLsbD_ofNat, testBit_leNat, below_range]
  simp only [List.getD_eq_getElem?_getD, List.getElem?_map, List.getElem?_range hj, Option.map_some, Option.getD_some,
    Bool.and_eq_true, decide_eq_true_eq, hk, decide_true, Bool.true_and]
  split
  · simp [hb]
  · simp [hb, show 8 * (k / 8) + k % 8 = k by omega]

/-- A write that covers a whole word, from byte d of its value on, leaves that part of the value. -/
theorem mergeBar_whole (old : Word) (off d n : Nat) (v : DWord) (h : d + 4 ≤ n) :
    mergeBar old (off + d) off n v = (v >>> (8 * d)).truncate 32 := by
  apply BitVec.eq_of_getLsbD_eq
  intro k hk
  rw [getLsbD_mergeBar _ _ _ _ _ hk, if_pos (by omega), BitVec.getLsbD_setWidth, BitVec.getLsbD_ushiftRight]
  simp only [hk, decide_true, Bool.true_and]
  congr 1
  omega

/-- A write inside one word. -/
theorem exec_registerWrite_narrow (s : State) {off n : Nat} (v : DWord) (h0 : 0 < n) (h4 : off % 4 + n ≤ 4) (h24 : off + n ≤ 2 ^ 24) :
    exec (.registerWrite off n v) s = .next (writeBar s (off / 4 * 4) (mergeBar (barWord s (off / 4 * 4)) (off / 4 * 4) off n v)) := by
  have hc : (n = 0 || n > 8 || off + n > 2 ^ 24) = false := by simp; omega
  change execRegisterWrite off n v s = _
  rw [execRegisterWrite, hc, show (off + n - 1) / 4 + 1 - off / 4 = 1 by omega, Nat.mul_comm (off / 4) 4]
  rfl

/-- A write of one whole word. -/
theorem exec_registerWrite_word (s : State) {off : Nat} (v : DWord) (ha : off % 4 = 0) (h24 : off + 4 ≤ 2 ^ 24) :
    exec (.registerWrite off 4 v) s = .next (writeBar s off (v.truncate 32)) := by
  have hm : mergeBar (barWord s off) off off 4 v = v.truncate 32 := mergeBar_whole _ off 0 4 v (by omega)
  rw [exec_registerWrite_narrow s v (by omega) (by omega) h24, show off / 4 * 4 = off by omega, hm]

/-- A write of two whole words: the low one first. -/
theorem exec_registerWrite_pair (s : State) {off : Nat} (v : DWord) (ha : off % 4 = 0) (h24 : off + 8 ≤ 2 ^ 24) :
    exec (.registerWrite off 8 v) s = .next (writeBar (writeBar s off (v.truncate 32)) (off + 4) ((v >>> 32).truncate 32)) := by
  have hc : (decide (8 = 0) || decide (8 > 8) || decide (off + 8 > 2 ^ 24)) = false := by simp; omega
  have hl (old : Word) : mergeBar old off off 8 v = v.truncate 32 := mergeBar_whole old off 0 8 v (by omega)
  have hh (old : Word) : mergeBar old (off + 4) off 8 v = (v >>> 32).truncate 32 := mergeBar_whole old off 4 8 v (by omega)
  change execRegisterWrite off 8 v s = _
  rw [execRegisterWrite, hc, show (off + 8 - 1) / 4 + 1 - off / 4 = 2 by omega]
  simp only [upto, List.foldl, Bool.false_eq_true, if_false, show 4 * (off / 4) = off by omega, show 4 * (off / 4 + 1) = off + 4 by omega, hl, hh]

/-! Registers of 64 bits. -/

/-- A bit of a register after a write of its low word. -/
theorem getLsbD_putHalf_low (x : DWord) (v : Word) (k : Nat) : (putHalf x 0 v).getLsbD k = if k < 32 then v.getLsbD k else x.getLsbD k := by
  rw [putHalf, if_pos rfl, BitVec.getLsbD_append]
  split
  · rfl
  · next h =>
    rw [BitVec.getLsbD_extractLsb', show 32 + (k - 32) = k by omega]
    by_cases hk : k < 64
    · simp [show k - 32 < 32 by omega]
    · simp [BitVec.getLsbD_of_ge x k (by omega)]

/-- A bit of a register after a write of its high word. -/
theorem getLsbD_putHalf_high (x : DWord) (v : Word) (k : Nat) : (putHalf x 1 v).getLsbD k = if k < 32 then x.getLsbD k else v.getLsbD (k - 32) := by
  rw [putHalf, if_neg one_ne_zero, BitVec.getLsbD_append]
  split
  · next h => simp [h]
  · rfl

theorem getLsbD_highMask {k : Nat} (hk : k < 64) : (0xFFFFFFFF00000000 : DWord).getLsbD k = decide (32 ≤ k) := by
  revert k; decide

theorem getLsbD_lowMask {k : Nat} (hk : k < 64) : (0xFFFFFFFF : DWord).getLsbD k = decide (k < 32) := by
  revert k; decide

theorem getLsbD_pageMask {k : Nat} (hk : k < 32) : (0xFFFFF000 : Word).getLsbD k = decide (12 ≤ k) := by
  revert k; decide

/-- The mask of the low word, where it is elaborated as the cast of a natural number. -/
theorem cast_lowMask : ((0xFFFFFFFF : Nat) : DWord) = 0xFFFFFFFF := rfl

/-- A write of the low word, as masks. -/
theorem putHalf_low (x : DWord) (v : Word) : putHalf x 0 v = (x &&& 0xFFFFFFFF00000000) ||| v.zeroExtend 64 := by
  apply BitVec.eq_of_getLsbD_eq
  intro k hk
  rw [getLsbD_putHalf_low, BitVec.getLsbD_or, BitVec.getLsbD_and, getLsbD_highMask hk, BitVec.getLsbD_setWidth]
  split
  · next h => simp [hk, h]
  · next h => simp [show 32 ≤ k by omega]

/-- A write of the high word, as masks. -/
theorem putHalf_high (x : DWord) (v : Word) : putHalf x 1 v = (x &&& (0xFFFFFFFF : DWord)) ||| (v.zeroExtend 64 <<< 32) := by
  apply BitVec.eq_of_getLsbD_eq
  intro k hk
  rw [getLsbD_putHalf_high, BitVec.getLsbD_or, BitVec.getLsbD_and, getLsbD_lowMask hk, BitVec.getLsbD_shiftLeft, BitVec.getLsbD_setWidth]
  split
  · next h => simp [h]
  · next h => simp [hk, h, show k - 32 < 64 by omega]

/-- A write of a low word that is the low word of a double word. -/
theorem putHalf_truncate (x v : DWord) : putHalf x 0 (v.truncate 32) = (x &&& 0xFFFFFFFF00000000) ||| (v &&& 0xFFFFFFFF) := by
  apply BitVec.eq_of_getLsbD_eq
  intro k hk
  rw [getLsbD_putHalf_low, BitVec.getLsbD_or, BitVec.getLsbD_and, getLsbD_highMask hk, BitVec.getLsbD_and, getLsbD_lowMask hk,
    BitVec.getLsbD_setWidth]
  split
  · next h => simp [h]
  · next h => simp [h, show 32 ≤ k by omega]

/-! Which register a word belongs to. -/

/-- Outside the shelf, queue and level blocks a word is written as the rules of its register say; CTXBASE apart, whose low 12 bits read 0. -/
theorem writeBar_plain (s : State) {off : Nat} (v : Word)
    (h : off < 0x1000 ∨ (0x1200 ≤ off ∧ off < 0x10000) ∨ (0x11000 ≤ off ∧ off < 0x100000) ∨ 0x108000 ≤ off) (h10 : off ≠ 0x10) :
    writeBar s off v = bar0Rule s off v := by
  have hcount : (if v.toNat > 65536 then (65536 : Word) else v) = BitVec.ofNat 32 (min v.toNat 65536) := by
    split
    · next hv => rw [Nat.min_eq_right (by omega)]; rfl
    · next hv => rw [Nat.min_eq_left (by omega), BitVec.ofNat_toNat, BitVec.setWidth_eq]
  have hshelf : (decide (0x1000 ≤ off) && decide (off < 0x1200)) = false := by simp; omega
  have hque : (decide (0x10000 ≤ off) && decide (off < 0x11000)) = false := by simp; omega
  have hlevel : (decide (0x100000 ≤ off) && decide (off < 0x108000) && decide (off % 32 = 0x14)) = false := by simp; omega
  by_cases hev : off = 0x40 ∨ off = 0x44
  · obtain rfl | rfl := hev <;> simp [writeBar, bar0Rule, putHalf_low, putHalf_high]
  by_cases hinv : off = 0x80 ∨ off = 0x84
  · obtain rfl | rfl := hinv <;> simp [writeBar, bar0Rule, putHalf_low, putHalf_high]
  obtain ⟨h40, h44⟩ := not_or.1 hev
  obtain ⟨h80, h84⟩ := not_or.1 hinv
  simp only [writeBar, bar0Rule, writeInv, invFields, putHalf_high, cast_lowMask, hcount, hshelf, hque, hlevel, h10, h40, h44, h80, h84, decide_false,
    Bool.or_false, Bool.false_eq_true, if_false]

theorem writeBar_ctxBase (s : State) (v : Word) :
    writeBar s 0x10 v = { s with chip := { s.chip with ctxBase := putHalf s.chip.ctxBase 0 (v &&& 0xFFFFF000) } } := rfl

/-- Word i of the block of queue q. -/
theorem writeBar_queue (s : State) {q i : Nat} (v : Word) (hq : q < 64) (hi : i < 16) :
    writeBar s (0x10000 + 64 * q + 4 * i) v = writeQue s q i v := by
  have hque : (decide (0x10000 ≤ 0x10000 + 64 * q + 4 * i) && decide (0x10000 + 64 * q + 4 * i < 0x11000)) = true := by simp; omega
  have hshelf : (decide (0x1000 ≤ 0x10000 + 64 * q + 4 * i) && decide (0x10000 + 64 * q + 4 * i < 0x1200)) = false := by simp; omega
  have hlow : ∀ n < 0x1000, 0x10000 + 64 * q + 4 * i ≠ n := by omega
  simp only [writeBar, hque, hshelf, hlow _, Nat.reduceLT, decide_false, Bool.or_self, Bool.false_eq_true, if_false, if_true,
    show (0x10000 + 64 * q + 4 * i - 0x10000) / 64 = q by omega, show (0x10000 + 64 * q + 4 * i) % 64 / 4 = i by omega]

/-- The cancel word of a level object. -/
theorem writeBar_level (s : State) {n : Nat} (v : Word) (hn : n < 1024) :
    writeBar s (0x100000 + 32 * n + 20) v = cancelLevel s n fun l => l.objs.contains n := by
  have hlevel : (decide (0x100000 ≤ 0x100000 + 32 * n + 20) && decide (0x100000 + 32 * n + 20 < 0x108000) &&
      decide ((0x100000 + 32 * n + 20) % 32 = 0x14)) = true := by simp; omega
  have hque : (decide (0x10000 ≤ 0x100000 + 32 * n + 20) && decide (0x100000 + 32 * n + 20 < 0x11000)) = false := by simp; omega
  have hshelf : (decide (0x1000 ≤ 0x100000 + 32 * n + 20) && decide (0x100000 + 32 * n + 20 < 0x1200)) = false := by simp; omega
  have hlow : ∀ m < 0x1000, 0x100000 + 32 * n + 20 ≠ m := by omega
  simp only [writeBar, hlevel, hque, hshelf, hlow _, Nat.reduceLT, decide_false, Bool.or_self, Bool.false_eq_true, if_false, if_true,
    show (0x100000 + 32 * n + 20 - 0x100000) / 32 = n by omega]

/-- The CAP word of a shelf descriptor. -/
theorem writeBar_shelfCap (s : State) {k : Nat} (v : Word) (hk : k < 16) : writeBar s (0x1000 + 32 * k + 8) v = writeShelf s k 2 v := by
  have hshelf : (decide (0x1000 ≤ 0x1000 + 32 * k + 8) && decide (0x1000 + 32 * k + 8 < 0x1200)) = true := by simp; omega
  have hlow : ∀ m < 0x1000, 0x1000 + 32 * k + 8 ≠ m := by omega
  simp only [writeBar, hshelf, hlow _, Nat.reduceLT, decide_false, Bool.or_self, Bool.false_eq_true, if_false, if_true,
    show (0x1000 + 32 * k + 8 - 0x1000) / 32 = k by omega, show (0x1000 + 32 * k + 8) % 32 / 4 = 2 by omega]

/-- One queue changed: the others, and the rest of the state, are as they were. -/
theorem queIs_modQue (s : State) (q : Nat) (f : Que → Que) : QueIs s (modQue s q f) q (f (queOf s q)) :=
  ⟨aget_aset_self, fun _ hk => aget_aset_ne hk, rfl⟩

/-- One shelf changed. -/
theorem shelfOf_modShelf (s : State) (k j : Nat) (f : Shelf → Shelf) : shelfOf (modShelf s k f) j = if j = k then f (shelfOf s k) else shelfOf s j :=
  aget_aset

/-- A write of CAP takes effect where the shelf holds no record (R403). -/
theorem shelfOf_writeShelf_cap (s : State) (k j : Nat) (v : Word) :
    shelfOf (writeShelf s k 2 v) j = if j = k ∧ (shelfOf s k).recs = [] then { shelfOf s k with cap := v } else shelfOf s j := by
  rw [writeShelf, shelfOf_modShelf]
  by_cases hj : j = k
  · subst hj
    by_cases hr : (shelfOf s j).recs = [] <;> simp [hr]
  · simp [hj]

/-! The statements about single writes. -/

/-- CTXBASE keeps its low 12 bits 0 (R376). -/
theorem registerWrite_ctxBase (s : State) (v : DWord) : ∃ t, exec (.registerWrite 0x10 4 v) s = .next t ∧
    { t with chip := { t.chip with ctxBase := s.chip.ctxBase } } = s ∧
    ∀ k, t.chip.ctxBase.getLsbD k = if k < 12 then false else if k < 32 then v.getLsbD k else s.chip.ctxBase.getLsbD k := by
  refine ⟨_, exec_registerWrite_word s v rfl (by omega), rfl, fun k => ?_⟩
  rw [writeBar_ctxBase, getLsbD_putHalf_low]
  by_cases hk : k < 32
  · rw [if_pos hk, BitVec.getLsbD_and, getLsbD_pageMask hk, BitVec.getLsbD_setWidth]
    by_cases h12 : k < 12
    · simp [h12]
    · simp [h12, hk, show 12 ≤ k by omega]
  · simp [hk, show ¬ k < 12 by omega]

/-- A word at an aligned offset of the block of a queue. -/
theorem registerWrite_queue (s : State) {off q i : Nat} (v : DWord) (ho : off = 0x10000 + 64 * q + 4 * i) (hq : q < 64) (hi : i < 16) :
    exec (.registerWrite off 4 v) s = .next (writeQue s q i (v.truncate 32)) := by
  rw [exec_registerWrite_word s v (by omega) (by omega), ho, writeBar_queue s _ hq hi]

/-- EN written 1 to a disabled queue is QUEUE_ENABLE (R381). -/
theorem registerWrite_queueEnable (s : State) {off q : Nat} (v : DWord) (ho : off = 0x10000 + 64 * q + 8) (hq : q < 64)
    (hen : (queOf s q).en = false) (hv : v.getLsbD 8 = true) :
    exec (.registerWrite off 4 v) s = exec (.queueEnable q (v.truncate 32)) s := by
  have hb : (v.truncate 32).getLsbD 8 = true := by rw [BitVec.getLsbD_setWidth, hv]; rfl
  change _ = execQueueEnable q (v.truncate 32) s
  rw [registerWrite_queue s (i := 2) v ho hq (by omega), execQueueEnable, hb, hen, decide_eq_true hq]
  rfl

/-- EN written 0 to an enabled queue is QUEUE_DISABLE (R378). -/
theorem registerWrite_queueDisable (s : State) {off q : Nat} (v : DWord) (ho : off = 0x10000 + 64 * q + 8) (hq : q < 64)
    (hen : (queOf s q).en = true) (hv : v.getLsbD 8 = false) :
    exec (.registerWrite off 4 v) s = exec (.queueDisable q (v.truncate 32)) s := by
  have hb : (v.truncate 32).getLsbD 8 = false := by rw [BitVec.getLsbD_setWidth, hv]; rfl
  change _ = execQueueDisable q (v.truncate 32) s
  rw [registerWrite_queue s (i := 2) v ho hq (by omega), execQueueDisable, hb, hen, decide_eq_true hq]
  rfl

/-- A write of QWR is QWR_WRITE (R379). -/
theorem registerWrite_qwr (s : State) {off q : Nat} (v : DWord) (ho : off = 0x10000 + 64 * q + 16) (hq : q < 64) :
    exec (.registerWrite off 4 v) s = exec (.qwrWrite q (v.truncate 32)) s := by
  change _ = execQwrWrite q (v.truncate 32) s
  rw [registerWrite_queue s (i := 4) v ho hq (by omega), execQwrWrite, if_pos hq]
  rfl

/-- A write of QCANCEL of a level object is LVCANCEL (R392). -/
theorem registerWrite_level (s : State) {off n : Nat} (v : DWord) (ho : off = 0x100000 + 32 * n + 20) (hn : n < 1024) :
    exec (.registerWrite off 4 v) s = exec (.lvcancel n) s := by
  change _ = execLvcancel n s
  rw [exec_registerWrite_word s v (by omega) (by omega), ho, writeBar_level s _ hn, execLvcancel, if_pos hn]

/-- A write of the CAP word of a shelf. -/
theorem registerWrite_shelfCap (s : State) {off k : Nat} (v : DWord) (ho : off = 0x1000 + 32 * k + 8) (hk : k < 16) :
    ∃ t, exec (.registerWrite off 4 v) s = .next t ∧ { t with chip := { t.chip with shelves := s.chip.shelves } } = s ∧
      ∀ j, shelfOf t j = if j = k ∧ (shelfOf s k).recs = [] then { shelfOf s k with cap := v.truncate 32 } else shelfOf s j :=
  ⟨writeShelf s k 2 (v.truncate 32), by rw [exec_registerWrite_word s v (by omega) (by omega), ho, writeBar_shelfCap s _ hk], rfl,
    fun j => shelfOf_writeShelf_cap s k j _⟩

/-- A narrow write is one of the whole word, the other bytes kept (R376). -/
theorem registerWrite_narrow_eq_word (s : State) {off n : Nat} {v w : DWord} (h0 : 0 < n) (h4 : off % 4 + n ≤ 4) (h24 : off < 2 ^ 24)
    (hw : ∀ k, k < 32 → w.getLsbD k =
      if off % 4 * 8 ≤ k ∧ k < (off % 4 + n) * 8 then v.getLsbD (k - off % 4 * 8) else (barWord s (off / 4 * 4)).getLsbD k) :
    exec (.registerWrite off n v) s = exec (.registerWrite (off / 4 * 4) 4 w) s := by
  have hm : mergeBar (barWord s (off / 4 * 4)) (off / 4 * 4) off n v = w.truncate 32 := by
    apply BitVec.eq_of_getLsbD_eq
    intro k hk
    rw [getLsbD_mergeBar _ _ _ _ _ hk, BitVec.getLsbD_setWidth, hw k hk]
    simp only [hk, decide_true, Bool.true_and]
    by_cases hc : off % 4 * 8 ≤ k ∧ k < (off % 4 + n) * 8
    · rw [if_pos hc, if_pos (by omega)]
      congr 1
      omega
    · rw [if_neg hc, if_neg (by omega)]
  rw [exec_registerWrite_narrow s v h0 h4 (by omega), exec_registerWrite_word s w (by omega) (by omega), hm]

end Sys2Proof.Machine
end

section
/-! The end of an invalidation (R206, R385, R402), of a revocation epoch (R192, R193), and monitor samples (R433, R434). -/

namespace Sys2Proof.Machine

open Sys2Proof.Claims

/-! Epoch bumps. -/

/-- What an epoch bump leaves alone (R248), and of the groups it only hits windows (R245). -/
structure Bumped (s t : State) : Prop where
  chip : t.chip = s.chip
  tlb : t.tlb = s.tlb
  ctxs : t.ctxs = s.ctxs
  hbm : t.ram.hbm = s.ram.hbm
  host : t.ram.host = s.ram.host
  hits : ∃ p : Window → Bool, t.grps = s.grps.map fun g => { g with wins := g.wins.map fun w => { w with hit := w.hit || p w } }

namespace Bumped

variable {s t u : State}

theorem refl (s : State) : Bumped s s := ⟨rfl, rfl, rfl, rfl, rfl, fun _ => false, by simp⟩

theorem trans (h : Bumped s t) (k : Bumped t u) : Bumped s u := by
  obtain ⟨p, hp⟩ := h.hits
  obtain ⟨q, hq⟩ := k.hits
  refine ⟨k.chip.trans h.chip, k.tlb.trans h.tlb, k.ctxs.trans h.ctxs, k.hbm.trans h.hbm, k.host.trans h.host,
    fun w => p w || q { w with hit := w.hit || p w }, ?_⟩
  simp [hq, hp, Bool.or_assoc]

/-- A fold of steps that each bump at most. -/
theorem foldl {α : Type} {f : State → α → State} (h : ∀ t a, Bumped t (f t a)) (l : List α) (s : State) : Bumped s (l.foldl f s) :=
  List.foldlRecOn l f (.refl s) fun t ht a _ => ht.trans (h t a)

end Bumped

/-- Windows that read a line of p are hit, and the others stay as they are. -/
theorem hitReads_grps (s : State) (p : Loc → Bool) :
    (hitReads s p).grps = s.grps.map fun g => { g with wins := g.wins.map fun w => { w with hit := w.hit || w.reads.any p } } := by
  have hw : ∀ w : Window, (if w.reads.any p then { w with hit := true } else w) = { w with hit := w.hit || w.reads.any p } := by
    intro w
    cases w.reads.any p <;> simp
  simp only [hitReads, hw]

theorem bumpEpoch_bumped (s : State) (sub : Nat) : Bumped s (bumpEpoch s sub) := ⟨rfl, rfl, rfl, rfl, rfl, _, hitReads_grps _ _⟩

theorem wrapBumps_bumped (s : State) (subs : List Nat) : Bumped s (wrapBumps s subs) := .foldl bumpEpoch_bumped _ s

theorem invPod_bumped (s : State) (e : TlbEnt) : Bumped s (invPod s e) := by
  unfold invPod
  dsimp only
  split
  · exact .refl s
  · exact Bumped.trans (t := { s with ram := bumpVers s.ram _ e.size }) ⟨rfl, rfl, rfl, rfl, rfl, (Bumped.refl s).hits⟩ (wrapBumps_bumped _ _)

/-! The range of an invalidation. -/

theorem nbits_eq (x k n : Nat) : nbits x k n = x / 2 ^ k % 2 ^ n := by rw [nbits, Nat.shiftRight_eq_div_pow]

/-- The sizes of R402. -/
theorem getD_sizes (code : Nat) : [2 ^ 12, 2 ^ 16, 2 ^ 18, 2 ^ 21, 2 ^ 25, 2 ^ 29, 2 ^ 34].getD code (2 ^ 34) = invSize code := by
  match code with
  | 0 | 1 | 2 | 3 | 4 | 5 | 6 => rfl
  | n + 7 => simp [invSize]

theorem invRange_all (ctl : Word) (a : DWord) : (invRange ctl a).all = true ↔ ctl.getLsbD 19 = true ∨ ctl.toNat / 2 ^ 16 % 8 = 7 := by
  simp [invRange, nbits_eq]

theorem invRange_size (ctl : Word) (a : DWord) : (invRange ctl a).size = invSize (ctl.toNat / 2 ^ 16 % 8) := by
  rw [show (8 : Nat) = 2 ^ 3 from rfl, ← nbits_eq, ← getD_sizes]
  rfl

theorem invRange_lo (ctl : Word) (a : DWord) :
    (invRange ctl a).lo = a.toNat / invSize (ctl.toNat / 2 ^ 16 % 8) * invSize (ctl.toNat / 2 ^ 16 % 8) := by
  rw [← invRange_size ctl a]
  rfl

theorem invRange_pcid (ctl : Word) (a : DWord) : (invRange ctl a).pcid = ctl.toNat % 2 ^ 16 := by
  rw [invRange, nbits_eq, pow_zero, Nat.div_one]

theorem invRange_covers (ctl : Word) (a : DWord) (pcid : Nat) (pod : Bool) (va n : Nat) :
    (invRange ctl a).covers pcid pod va n = true ↔ Covered ctl a pcid pod va n := by
  simp only [InvRange.covers, Bool.and_eq_true, Bool.or_eq_true, decide_eq_true_eq, invRange_all, invRange_size, invRange_lo, invRange_pcid,
    Covered, or_assoc, and_assoc]
  rfl

/-- An entry of a sparse map whose values are all replaced. -/
theorem aget_map_of_mem {α : Type} {d : α} (f : α → α) {k : Nat} : ∀ {l : AList α}, k ∈ l.map (·.1) →
    aget d (l.map fun e => (e.1, f e.2)) k = f (aget d l k)
  | (j, v) :: l, h => by
    simp only [List.map_cons, aget]
    split
    · rfl
    · next hk => exact aget_map_of_mem f ((List.mem_cons.1 h).resolve_left hk)

/-- A b register whose translation came from a covered entry is stale after the invalidation. -/
theorem stale_of_coversB (i : InvRange) (pcid : Nat) {l : AList BReg} {k : Nat} (hk : k ∈ l.map (·.1)) (h : i.coversB pcid (aget default l k) = true) :
    (aget default (i.stale pcid l) k).stale = true := by
  have hm := aget_map_of_mem (d := default) (fun b : BReg => if i.coversB pcid b then { b with stale := true } else b) hk
  rw [if_pos h] at hm
  exact congrArg BReg.stale hm

/-! The end of an invalidation. -/

/-- The invalidation before the versions of pod pages advance. -/
def invBegun (s : State) (i : InvRange) : State :=
  { s with
    tlb := s.tlb.filter fun e => !i.covers e.pcid e.pod e.base e.size,
    grps := s.grps.map (invGrp s i),
    wgs := s.wgs.map fun w => { w with ctxs := w.ctxs.map fun e => (e.1, invMat i (pcidOf s w.launch) e.2) } }

theorem loadCtx_chip (s : State) (pcid : Nat) : (loadCtx s pcid).chip = s.chip := by unfold loadCtx; dsimp only; split <;> rfl
theorem loadCtx_tlb (s : State) (pcid : Nat) : (loadCtx s pcid).tlb = s.tlb := by unfold loadCtx; dsimp only; split <;> rfl
theorem loadCtx_grps (s : State) (pcid : Nat) : (loadCtx s pcid).grps = s.grps := by unfold loadCtx; dsimp only; split <;> rfl
theorem loadCtx_ram (s : State) (pcid : Nat) : (loadCtx s pcid).ram = s.ram := by unfold loadCtx; dsimp only; split <;> rfl

/-- The descriptors in force after that of one context has been loaded (R385). -/
theorem aget_loadCtx (s : State) (pcid pc : Nat) : aget ctxNone (loadCtx s pcid).ctxs pc =
    if pc = pcid then (if (readCtx s pcid).valid then readCtx s pcid else ctxNone) else ctxOf s pc := by
  unfold loadCtx
  dsimp only
  split
  · exact aget_aset
  · exact aget_aset

/-- The invalidation with the descriptor of its context loaded, before the versions of pod pages advance (R206, R385). -/
def invLoaded (s : State) (i : InvRange) : State := if i.all then loadCtx (invBegun s i) i.pcid else invBegun s i

theorem invLoaded_chip (s : State) (i : InvRange) : (invLoaded s i).chip = s.chip := by
  unfold invLoaded
  split
  · exact loadCtx_chip ..
  · rfl

theorem invLoaded_tlb (s : State) (i : InvRange) : (invLoaded s i).tlb = s.tlb.filter fun e => !i.covers e.pcid e.pod e.base e.size := by
  unfold invLoaded
  split
  · exact loadCtx_tlb ..
  · rfl

theorem invLoaded_grps (s : State) (i : InvRange) : (invLoaded s i).grps = s.grps.map (invGrp s i) := by
  unfold invLoaded
  split
  · exact loadCtx_grps ..
  · rfl

theorem invLoaded_ram (s : State) (i : InvRange) : (invLoaded s i).ram = s.ram := by
  unfold invLoaded
  split
  · exact loadCtx_ram ..
  · rfl

/-- The table of contexts is not touched by the invalidation itself. -/
theorem readCtx_invBegun (s : State) (i : InvRange) (pc : Nat) : readCtx (invBegun s i) pc = readCtx s pc := rfl

theorem aget_invLoaded (s : State) (i : InvRange) (pc : Nat) : aget ctxNone (invLoaded s i).ctxs pc =
    if pc = i.pcid ∧ i.all = true then (if (readCtx s pc).valid then readCtx s pc else ctxNone) else ctxOf s pc := by
  unfold invLoaded
  split
  · next ha =>
    rw [aget_loadCtx, readCtx_invBegun]
    by_cases hp : pc = i.pcid
    · subst hp; simp [ha]
    · rw [if_neg hp, if_neg fun h => hp h.1]; rfl
  · next ha => rw [if_neg fun h => ha h.2]; rfl

theorem invalidate_bumped (s : State) (i : InvRange) : Bumped (invLoaded s i) (invalidate s i) := .foldl invPod_bumped _ _

/-- A group after an invalidation, with more windows hit. -/
theorem invalidate_grp {s : State} {i : InvRange} {k : Nat} {g h : Grp} (hg : s.grps[k]? = some g) (hh : (invalidate s i).grps[k]? = some h) :
    ∃ p : Window → Bool, h = { invGrp s i g with wins := (invGrp s i g).wins.map fun w => { w with hit := w.hit || p w } } := by
  obtain ⟨p, hp⟩ := (invalidate_bumped s i).hits
  rw [hp, invLoaded_grps, List.map_map, List.getElem?_map, hg] at hh
  exact ⟨p, (Option.some.inj hh).symm⟩

/-- A window that used a covered entry is hit. -/
theorem invalidate_hit {s : State} {i : InvRange} {k j : Nat} {g h : Grp} {w v : Window} (hg : s.grps[k]? = some g)
    (hh : (invalidate s i).grps[k]? = some h) (hw : g.wins[j]? = some w) (hv : h.wins[j]? = some v)
    (hx : ∃ p ∈ w.xl, i.covers (p.1 / 2) (p.1 % 2 = 1) p.2.1 p.2.2 = true) : v.hit = true := by
  obtain ⟨p, rfl⟩ := invalidate_grp hg hh
  simp only [invGrp, List.map_map, List.getElem?_map, hw, Option.map_some, Option.some.injEq] at hv
  subst hv
  simp [List.any_eq_true.2 hx]

/-- A b register whose translation came from a covered entry is stale. -/
theorem invalidate_stale {s : State} {i : InvRange} {k n : Nat} {g h : Grp} (hg : s.grps[k]? = some g) (hh : (invalidate s i).grps[k]? = some h)
    (hn : n ∈ g.g.b.map (·.1)) (hc : i.coversB (pcidOf s g.launch) (aget default g.g.b n) = true) : (aget default h.g.b n).stale = true := by
  obtain ⟨p, rfl⟩ := invalidate_grp hg hh
  exact stale_of_coversB i _ hn hc

theorem exec_translationInvalidationComplete {s : State} (h : s.chip.invCtl.getLsbD 31 = true) :
    exec .translationInvalidationComplete s = .next
      { invalidate s (invRange s.chip.invCtl s.chip.invAt) with
        chip := { s.chip with invCtl := s.chip.invCtl &&& 0x7FFFFFFF } } := by
  change execTranslationInvalidationComplete s = _
  have hc := (invalidate_bumped s (invRange s.chip.invCtl s.chip.invAt)).chip.trans (invLoaded_chip ..)
  rw [execTranslationInvalidationComplete, h]
  simp only [hc, Bool.not_true, Bool.false_eq_true, if_false]
  rfl

end Sys2Proof.Machine
end

section
/-! The end of a revocation epoch (R192, R193). -/

namespace Sys2Proof.Machine

open Sys2Proof.Claims

/-- A sweep's barrier leaves a capability as it is or clears its tag. -/
def Untags (f : Nat → Cap → Cap) : Prop := ∀ pc c, f pc c = c ∨ (f pc c).tag = false

namespace Untags

variable {f : Nat → Cap → Cap}

/-- A capability that comes out with its tag went in as it is. -/
theorem eq_of_tag (h : Untags f) {pc : Nat} {c : Cap} (ht : (f pc c).tag = true) : f pc c = c :=
  (h pc c).resolve_right (by simp [ht])

/-- A capability that has passed a barrier with its tag passes it again. -/
theorem again (h : Untags f) {pc : Nat} {c : Cap} (ht : (f pc c).tag = true) : (f pc (f pc c)).tag = true := by
  rw [h.eq_of_tag ht, ht]

end Untags

/-- The load barrier is one (R191). -/
theorem barrier_untags (s : State) : Untags (barrier s) := by
  intro pc c
  unfold barrier
  split
  · split
    · exact .inr rfl
    · exact .inl rfl
  · exact .inl rfl

/-- So is that of the end of an epoch (R193). -/
theorem sweepBarrier_untags (s : State) (bad : List (Nat × Nat × Nat)) : Untags (sweepBarrier s bad) := by
  intro pc c
  unfold sweepBarrier
  dsimp only
  split
  · split
    · split
      · split
        · exact .inr rfl
        · exact .inl rfl
      · exact .inl rfl
    · split
      · exact .inr rfl
      · exact .inl rfl
  · exact barrier_untags s pc c

/-- Every tagged capability of a split passes the barrier f. -/
def CleanSplit (f : Cap → Cap) (x : Split) : Prop :=
  (∀ e ∈ x.c, e.2.tag = true → (f e.2).tag = true) ∧ (x.pcc.tag = true → (f x.pcc).tag = true) ∧ (x.lcc.tag = true → (f x.lcc).tag = true)

/-- Every tagged capability of the splits of a state's groups passes the barrier of its context in state s. -/
def CleanGrps (s : State) (f : Nat → Cap → Cap) (l : List Grp) : Prop :=
  ∀ g ∈ l, ∀ x ∈ g.g.splits, CleanSplit (f (pcidOf s g.launch)) x

theorem cleanSplit_sweepSplit {f : Nat → Cap → Cap} (h : Untags f) (pc : Nat) (x : Split) : CleanSplit (f pc) (sweepSplit (f pc) x) := by
  refine ⟨fun e he ht => ?_, h.again, h.again⟩
  obtain ⟨d, -, rfl⟩ := List.mem_map.1 he
  exact h.again ht

/-- A sweep by another barrier keeps what the first one made sure of. -/
theorem CleanSplit.sweepSplit {f : Cap → Cap} {r : Nat → Cap → Cap} (h : Untags r) {pc : Nat} {x : Split} (hx : CleanSplit f x) :
    CleanSplit f (Machine.sweepSplit (r pc) x) := by
  obtain ⟨hc, hp, hl⟩ := hx
  refine ⟨fun e he ht => ?_, fun ht => ?_, fun ht => ?_⟩
  · obtain ⟨d, hd, rfl⟩ := List.mem_map.1 he
    have heq : r pc d.2 = d.2 := h.eq_of_tag ht
    simp only [heq] at ht ⊢
    exact hc d hd ht
  · have heq : (Machine.sweepSplit (r pc) x).pcc = x.pcc := h.eq_of_tag ht
    rw [heq] at ht ⊢
    exact hp ht
  · have heq : (Machine.sweepSplit (r pc) x).lcc = x.lcc := h.eq_of_tag ht
    rw [heq] at ht ⊢
    exact hl ht

/-- The groups that a sweep leaves are clean. -/
theorem cleanGrps_sweepGrp {f : Nat → Cap → Cap} (h : Untags f) (s : State) (l : List Grp) : CleanGrps s f (l.map (sweepGrp s f)) := by
  intro g hg x hx
  obtain ⟨g0, -, rfl⟩ := List.mem_map.1 hg
  obtain ⟨x0, -, rfl⟩ := List.mem_map.1 hx
  exact cleanSplit_sweepSplit h _ _

theorem CleanGrps.sweepGrp {s t : State} {f r : Nat → Cap → Cap} (h : Untags r) {l : List Grp} (hl : CleanGrps s f l) :
    CleanGrps s f (l.map (Machine.sweepGrp t r)) := by
  intro g hg x hx
  obtain ⟨g0, hg0, rfl⟩ := List.mem_map.1 hg
  obtain ⟨x0, hx0, rfl⟩ := List.mem_map.1 hx
  exact (hl g0 hg0 x0 hx0).sweepSplit h

/-- Marks on windows keep groups clean. -/
theorem CleanGrps.marked {s t u : State} {f : Nat → Cap → Cap} (hl : CleanGrps s f t.grps) (h : Marked t u) : CleanGrps s f u.grps := by
  obtain ⟨w, hw⟩ := h
  intro g hg x hx
  rw [hw] at hg
  obtain ⟨g0, hg0, rfl⟩ := List.mem_map.1 hg
  exact hl g0 hg0 x hx

theorem Marked.uids {s t : State} (h : Marked s t) : t.grps.map (·.uid) = s.grps.map (·.uid) := by
  obtain ⟨f, hf⟩ := h
  rw [hf, List.map_map]
  rfl

theorem map_uid_sweepGrp (s : State) (f : Nat → Cap → Cap) (l : List Grp) : (l.map (sweepGrp s f)).map (·.uid) = l.map (·.uid) := by
  rw [List.map_map]
  rfl

/-! Memory under the sweep. -/

theorem putTag_hbm (r : Ram) (l : Loc) (t : Bool) : (putTag r l t).hbm = r.hbm := by unfold putTag; split <;> rfl
theorem putTag_host (r : Ram) (l : Loc) (t : Bool) : (putTag r l t).host = r.host := by unfold putTag; split <;> rfl

/-- What the walk of the tagged granules leaves alone: the groups but for marks on windows, the registers of the epoch, and the bytes of memory. -/
structure TagsOnly (s t : State) : Prop where
  marked : Marked s t
  rev : t.rev = s.rev
  hbm : t.ram.hbm = s.ram.hbm
  host : t.ram.host = s.ram.host

theorem TagsOnly.trans {s t u : State} (h : TagsOnly s t) (k : TagsOnly t u) : TagsOnly s u :=
  ⟨h.marked.trans k.marked, k.rev.trans h.rev, k.hbm.trans h.hbm, k.host.trans h.host⟩

theorem putTagEv_tagsOnly (s : State) (u : Nat) (l : Loc) (t : Bool) : TagsOnly s (putTagEv s u l t) :=
  ⟨Marked.trans (.of_eq rfl) (markHit_marked ..), rfl, putTag_hbm .., putTag_host ..⟩

theorem sweepMem_tagsOnly (s : State) (f : Nat → Cap → Cap) : TagsOnly s (sweepMem s f) := by
  unfold sweepMem
  refine List.foldlRecOn _ _ (motive := TagsOnly s) ⟨.of_eq rfl, rfl, rfl, rfl⟩ fun t ht e _ => ?_
  split
  · exact ht
  · exact ht.trans (putTagEv_tagsOnly ..)

/-! The end of the epoch. -/

/-- The state that the sweep of an epoch's end leaves, its answers dropped (R193). -/
def sweptAll (s : State) (f : Nat → Cap → Cap) : State := dropAns (sweepMem (sweepChip (sweepGroups s f) f) f) sweepName

theorem sweptAll_tagsOnly (s : State) (f : Nat → Cap → Cap) : TagsOnly (sweepGroups s f) (sweptAll s f) := by
  have h := sweepMem_tagsOnly (sweepChip (sweepGroups s f) f) f
  refine ⟨Marked.trans (.of_eq rfl) (h.marked.trans (.of_eq (dropAns_grps ..))), (dropAns_rev ..).trans h.rev, ?_, ?_⟩
  · rw [sweptAll, dropAns_ram, h.hbm]; rfl
  · rw [sweptAll, dropAns_ram, h.host]; rfl

theorem sweptAll_clean {f : Nat → Cap → Cap} (h : Untags f) (s : State) : CleanGrps s f (sweptAll s f).grps :=
  CleanGrps.marked (t := sweepGroups s f) (cleanGrps_sweepGrp h s s.grps) (sweptAll_tagsOnly s f).marked

theorem sweptAll_uids (s : State) (f : Nat → Cap → Cap) : (sweptAll s f).grps.map (·.uid) = s.grps.map (·.uid) :=
  (sweptAll_tagsOnly s f).marked.uids.trans (map_uid_sweepGrp s f s.grps)

/-- The epoch is done; a queued one starts (R192). -/
def epochEnd (s : State) : State :=
  if s.rev.queued then startEpoch { s with rev := { s.rev with done := s.rev.epoch, queued := false } }
  else { s with rev := { s.rev with done := s.rev.epoch, sweepDone := true } }

theorem exec_revocationEpochComplete_wait {s : State} (h : s.rev.sweepDone = true ∨ ∃ u ∈ engineLive s, u ∈ s.rev.inFlight) :
    exec .revocationEpochComplete s = .next s := by
  have hc : (s.rev.sweepDone || (engineLive s).any s.rev.inFlight.contains) = true := by
    simpa [List.any_eq_true] using h
  change execRevocationEpochComplete s = _
  rw [execRevocationEpochComplete, if_pos hc]

theorem exec_revocationEpochComplete_done {s s1 : State} {bad : List (Nat × Nat × Nat)} (hd : s.rev.sweepDone = false)
    (he : ∀ u ∈ engineLive s, u ∉ s.rev.inFlight) (ha : askQueries s (sweepQueries s) = (s1, some bad)) :
    exec .revocationEpochComplete s = .next (epochEnd (sweptAll s1 (sweepBarrier s1 bad))) := by
  have hc : (s.rev.sweepDone || (engineLive s).any s.rev.inFlight.contains) = false := by
    simpa [hd, List.any_eq_false] using he
  change execRevocationEpochComplete s = _
  rw [execRevocationEpochComplete, hc, ha]
  rfl

/-- What the end of an epoch makes of the epoch registers, and what it leaves of the state before it (R192, R193). -/
structure EpochEnded (s t : State) : Prop where
  done : t.rev.done = s.rev.epoch
  bitmap : t.rev.bitmap = s.rev.bitmap
  idle : s.rev.queued = false → t.rev = { s.rev with done := s.rev.epoch, sweepDone := true }
  next : s.rev.queued = true → t.rev.epoch = s.rev.epoch + 1 ∧ t.rev.sweepDone = false ∧ t.rev.queued = false ∧ t.rev.marked = false
  clean : ∀ (u : State) (f : Nat → Cap → Cap), CleanGrps u f s.grps → CleanGrps u f t.grps
  uids : t.grps.map (·.uid) = s.grps.map (·.uid)
  ram : t.ram = s.ram

theorem epochEnd_ended (s : State) : EpochEnded s (epochEnd s) := by
  unfold epochEnd
  cases hq : s.rev.queued with
  | false =>
    rw [if_neg Bool.false_ne_true]
    exact ⟨rfl, rfl, fun _ => rfl, fun h => absurd (hq.symm.trans h) Bool.false_ne_true, fun _ _ h => h, rfl, rfl⟩
  | true =>
    rw [if_pos rfl]
    exact ⟨rfl, rfl, fun h => absurd (h.symm.trans hq) Bool.false_ne_true, fun _ => ⟨rfl, rfl, rfl, rfl⟩,
      fun _ _ h => h.sweepGrp (barrier_untags _), map_uid_sweepGrp .., rfl⟩

end Sys2Proof.Machine
end

section
/-! Monitor samples (R433, R434). -/

namespace Sys2Proof.Machine

open Sys2Proof.Claims

/-- What an event record to the host leaves alone (R401). -/
structure Reported (s t : State) : Prop where
  monitors : t.chip.monitors = s.chip.monitors
  wgs : t.wgs = s.wgs
  tces : t.tces = s.tces
  ces : t.ces = s.ces

namespace Reported

variable {s t u : State}

theorem refl (s : State) : Reported s s := ⟨rfl, rfl, rfl, rfl⟩

theorem trans (h : Reported s t) (k : Reported t u) : Reported s u :=
  ⟨k.monitors.trans h.monitors, k.wgs.trans h.wgs, k.tces.trans h.tces, k.ces.trans h.ces⟩

/-- The index of the ring and the vector of the record. -/
theorem posted (h : Reported s t) (w : Word) (o : List Out) : Reported s { t with chip := { t.chip with evWr := w }, outbox := o } :=
  ⟨h.monitors, h.wgs, h.tces, h.ces⟩

theorem monOf (h : Reported s t) (u : Nat) : Machine.monOf t u = Machine.monOf s u := by rw [Machine.monOf, h.monitors]; rfl

end Reported

theorem wrapBumps_reported (s : State) (subs : List Nat) : Reported s (wrapBumps s subs) :=
  List.foldlRecOn _ bumpEpoch (.refl s) fun _ ht _ _ => ht.trans ⟨rfl, rfl, rfl, rfl⟩

theorem mend_reported (s : State) (l : Loc) (n : Nat) : Reported s (mend s l n) := by
  unfold mend
  split
  · exact .refl s
  · exact ⟨rfl, rfl, rfl, rfl⟩

theorem markHit_reported (s : State) (u : Nat) (ls : List Loc) : Reported s (markHit s u ls) := ⟨rfl, rfl, rfl, rfl⟩

theorem putMem_reported (s : State) (u : Nat) (l : Loc) (sp : BitVec 3) (b : List Byte) : Reported s (putMem s u l sp b) := by
  obtain ⟨hm, hw, ht, hc⟩ := mend_reported s l b.length
  unfold putMem
  refine Reported.trans ?_ (markHit_reported _ _ _)
  refine Reported.trans ?_ (wrapBumps_reported _ _)
  exact ⟨hm, hw, ht, hc⟩

theorem raiseEvent_reported (s : State) (kind src d : Nat) (p : List Byte) : Reported s (raiseEvent s kind src d p) := by
  unfold raiseEvent
  dsimp only
  split
  · exact ⟨rfl, rfl, rfl, rfl⟩
  · generalize hp : putMem s 0 _ 0 _ = t
    have ht : Reported s t := hp ▸ putMem_reported ..
    exact ht.posted _ _

/-- A unit after a sample (R433). -/
def monSample (m : Monitor) (v : Word) : Monitor :=
  { m with samples := satInc m.samples, least := if v < m.least then v else m.least, most := if m.most < v then v else m.most,
           bins := aset 0 m.bins (min 31 (v.toNat / 2 ^ cfgShift m.cfg)) (satInc (aget 0 m.bins (min 31 (v.toNat / 2 ^ cfgShift m.cfg)))) }

/-- The bin of the value counts it. -/
theorem aget_monSample_bins (m : Monitor) (v : Word) (b : Nat) : aget 0 (monSample m v).bins b =
    if b = min 31 (v.toNat / 2 ^ cfgShift m.cfg) then satInc (aget 0 m.bins b) else aget 0 m.bins b := by
  rw [monSample, aget_aset]
  split
  · next h => rw [h]
  · rfl

theorem monOf_setMon (s : State) (u k : Nat) (m : Monitor) : monOf (setMon s u m) k = if k = u then m else monOf s k := aget_aset

/-- A sample changes its unit; the event of R435 changes none. -/
theorem sampleUnit_reported (s : State) (die u : Nat) (v : Word) :
    Reported (setMon s (64 * die + u) (monSample (monOf s (64 * die + u)) v)) (sampleUnit s die u v) := by
  unfold sampleUnit
  dsimp only
  refine iteInduction (motive := Reported _) (fun _ => iteInduction (motive := Reported _) (fun _ => ?_) fun _ => ?_) fun _ => ?_
  · exact .trans (t := (draw (setMon s (64 * die + u) _)).2) ⟨rfl, rfl, rfl, rfl⟩ (raiseEvent_reported ..)
  · exact ⟨rfl, rfl, rfl, rfl⟩
  · exact .refl _

theorem monOf_sampleUnit (s : State) (die u k : Nat) (v : Word) :
    monOf (sampleUnit s die u v) k = if k = 64 * die + u then monSample (monOf s k) v else monOf s k := by
  rw [(sampleUnit_reported s die u v).monOf, monOf_setMon]
  split
  · next h => rw [h]
  · rfl

/-- The units of a list after each has taken a sample, and the others. -/
theorem monOf_sampleUnits (die k : Nat) (v : Word) : ∀ (l : List Nat) (s : State), l.Nodup →
    monOf (l.foldl (fun t u => sampleUnit t die u v) s) k = if ∃ u ∈ l, k = 64 * die + u then monSample (monOf s k) v else monOf s k
  | [], s, _ => by simp
  | u :: l, s, hn => by
    obtain ⟨hu, hl⟩ := List.nodup_cons.1 hn
    rw [List.foldl_cons, monOf_sampleUnits die k v l _ hl, monOf_sampleUnit]
    by_cases hk : k = 64 * die + u
    · have hno : ¬ ∃ w ∈ l, k = 64 * die + w := fun ⟨w, hw, he⟩ => hu (by rwa [show u = w by omega])
      rw [if_neg hno, if_pos hk, if_pos ⟨u, List.mem_cons_self, hk⟩]
    · simp only [List.mem_cons, exists_eq_or_imp, hk, false_or, if_false]

/-- Sampling leaves workgroups and engines alone. -/
theorem sampleUnits_frame (die : Nat) (v : Word) (l : List Nat) (s : State) :
    let t := l.foldl (fun t u => sampleUnit t die u v) s
    t.wgs = s.wgs ∧ t.tces = s.tces ∧ t.ces = s.ces :=
  List.foldlRecOn (motive := fun t : State => t.wgs = s.wgs ∧ t.tces = s.tces ∧ t.ces = s.ces) l _ ⟨rfl, rfl, rfl⟩
    fun t ⟨hw, ht, hc⟩ u _ =>
      have h := sampleUnit_reported t die u v
      ⟨h.wgs.trans hw, h.tces.trans ht, h.ces.trans hc⟩

/-- The units of a die that a sample reaches (R433, R434). -/
theorem samples_iff (m : Monitor) (src core : Nat) : samples m src core = true ↔
    m.cfg.getLsbD 16 = true ∧ m.cfg.toNat % 256 = src ∧ (m.cfg.getLsbD 19 = true → m.cfg.toNat / 2 ^ 20 % 256 = core) := by
  have hs : cfgSrc m.cfg = m.cfg.toNat % 256 := by simp [cfgSrc, nbits]
  have hc : cfgCore m.cfg = m.cfg.toNat / 2 ^ 20 % 256 := by simp [cfgCore, nbits, Nat.shiftRight_eq_div_pow]
  rw [samples, hs, hc, Bool.and_eq_true, Bool.and_eq_true, Bool.or_eq_true, decide_eq_true_eq, decide_eq_true_eq, and_assoc,
    Bool.not_eq_true', ← Bool.not_eq_true, ← imp_iff_not_or]

/-- The units that take a sample. -/
def sampledUnits (s : State) (die src core : Nat) : List Nat := (below 64).filter fun u => samples (monOf s (64 * die + u)) src core

theorem exec_monitorSample_none {die src : Nat} (s : State) (core : Nat) (v : Word) (h : die > 1 ∨ src = 0 ∨ src > 14) :
    exec (.monitorSample die src core v) s = .next s := by
  change execMonitorSample die src core v s = _
  rw [execMonitorSample, if_pos (by simpa [or_assoc] using h)]

theorem exec_monitorSample {die src : Nat} (s : State) (core : Nat) (v : Word) (hd : die ≤ 1) (h0 : 0 < src) (h14 : src ≤ 14) :
    exec (.monitorSample die src core v) s = .next ((sampledUnits s die src core).foldl (fun t u => sampleUnit t die u v) s) := by
  change execMonitorSample die src core v s = _
  rw [execMonitorSample, if_neg (by simp; omega)]
  rfl

/-- A unit after a sample of a die: the units of the list have taken it. -/
theorem monOf_monitorSample (s : State) (die src core k : Nat) (v : Word) :
    monOf ((sampledUnits s die src core).foldl (fun t u => sampleUnit t die u v) s) k =
      if (64 * die ≤ k ∧ k < 64 * die + 64) ∧ samples (monOf s k) src core = true then monSample (monOf s k) v else monOf s k := by
  have hn : (sampledUnits s die src core).Nodup := by
    rw [sampledUnits, below_range]
    exact List.nodup_range.filter _
  have hm : (∃ u ∈ sampledUnits s die src core, k = 64 * die + u) ↔ (64 * die ≤ k ∧ k < 64 * die + 64) ∧ samples (monOf s k) src core = true := by
    simp only [sampledUnits, below_range, List.mem_filter, List.mem_range]
    constructor
    · rintro ⟨u, ⟨hu, hs⟩, rfl⟩
      exact ⟨by omega, hs⟩
    · rintro ⟨⟨hl, hu⟩, hs⟩
      have he : 64 * die + (k - 64 * die) = k := by omega
      exact ⟨k - 64 * die, ⟨by omega, by rwa [he]⟩, he.symm⟩
  rw [monOf_sampleUnits die k v _ s hn]
  simp only [hm]

end Sys2Proof.Machine
end

section
/-! The statements about registers of the chip, settled. -/

namespace Sys2Proof.Claims

open Sys2Proof Sys2Proof.Machine

/-- A word written to BAR0 at an aligned offset (R5, R376, R402). -/
theorem registerWrite_word (s : State) (off : Nat) (v : DWord) (ha : off % 4 = 0) (h24 : off + 4 ≤ 2 ^ 24) :
    ((off < 0x1000 ∨ (0x1200 ≤ off ∧ off < 0x10000) ∨ (0x11000 ≤ off ∧ off < 0x100000) ∨ 0x108000 ≤ off) → off ≠ 0x10 →
      exec (.registerWrite off 4 v) s = .next (bar0Rule s off (v.truncate 32))) ∧
    (∀ q, off = 0x10000 + 64 * q → q < 64 → ∃ t, exec (.registerWrite off 4 v) s = .next t ∧
      QueIs s t q { queOf s q with base := ((queOf s q).base &&& 0xFFFFFFFF00000000) ||| (v &&& 0xFFFFFFFF) }) ∧
    (∀ q, off = 0x10000 + 64 * q + 12 → q < 64 → ∃ t, exec (.registerWrite off 4 v) s = .next t ∧
      QueIs s t q { queOf s q with rootp := v.truncate 16 }) := by
  refine ⟨fun h h10 => ?_, fun q ho hq => ?_, fun q ho hq => ?_⟩
  · rw [exec_registerWrite_word s v ha h24, writeBar_plain s _ h h10]
  · refine ⟨_, registerWrite_queue s (i := 0) v ho hq (by omega), ?_⟩
    rw [← putHalf_truncate]
    exact queIs_modQue s q fun x => { x with base := putHalf x.base 0 (v.truncate 32) }
  · refine ⟨_, registerWrite_queue s (i := 3) v ho hq (by omega), ?_⟩
    have hr : (v.truncate 32).extractLsb' 0 16 = v.truncate 16 := by
      apply BitVec.eq_of_getLsbD_eq
      intro k hk
      simp [hk, show k < 32 by omega]
    rw [← hr]
    exact queIs_modQue s q fun x => { x with rootp := (v.truncate 32).extractLsb' 0 16 }

/-- A write of two words is one after the other. -/
theorem registerWrite_two_words {s t : State} {off : Nat} {v : DWord} (ha : off % 4 = 0) (h24 : off + 8 ≤ 2 ^ 24)
    (h : exec (.registerWrite off 4 v) s = .next t) : exec (.registerWrite off 8 v) s = exec (.registerWrite (off + 4) 4 (v >>> 32)) t := by
  rw [exec_registerWrite_word s v ha (by omega)] at h
  obtain rfl := Host.Outcome.next.inj h
  rw [exec_registerWrite_pair s v ha h24, exec_registerWrite_word _ _ (by omega) (by omega)]

/-- GO starts an invalidation where none runs (R402). -/
theorem invalidationGo_starts {s : State} {v : Word} (hv : v.getLsbD 31 = true) (hg : s.chip.invCtl.getLsbD 31 = false) :
    exec (.invalidationGo v) s = .next { s with chip := { s.chip with invCtl := v &&& 0x801FFFFF, invAt := s.chip.invVa } } := by
  change execInvalidationGo v s = _
  rw [execInvalidationGo, if_pos hv, writeInv, hg]
  rfl

/-- A second GO is discarded (R402). -/
theorem invalidationGo_discarded {s : State} {v : Word} (hg : s.chip.invCtl.getLsbD 31 = true) : exec (.invalidationGo v) s = .next s := by
  change execInvalidationGo v s = _
  rw [execInvalidationGo, writeInv, if_pos hg, ite_self]

/-- No invalidation runs. -/
theorem translationInvalidationComplete_idle {s : State} (hg : s.chip.invCtl.getLsbD 31 = false) :
    exec .translationInvalidationComplete s = .next s := by
  change execTranslationInvalidationComplete s = _
  rw [execTranslationInvalidationComplete, hg]
  rfl

/-- Each kind of write by its own lemma; the end of an invalidation through `invalidate_bumped`, since the version bumps of pod pages that come
last keep all that the statement names but hits on windows. -/
theorem registerBlock : RegisterBlock := by
  refine ⟨fun s off v ha h24 => ?_, fun s t off v ha h24 h => registerWrite_two_words ha h24 h,
    fun s off n v w h0 _ h4 h24 hw => registerWrite_narrow_eq_word s h0 h4 h24 hw,
    fun s v => ⟨invalidationGo_starts, invalidationGo_discarded⟩, fun s => ⟨translationInvalidationComplete_idle, fun hg => ?_⟩⟩
  · obtain ⟨hplain, hbase, hroot⟩ := registerWrite_word s off v ha h24
    exact ⟨hplain, fun ho => ho ▸ registerWrite_ctxBase s v, hbase, hroot, fun q => registerWrite_qwr s v, fun q => registerWrite_queueEnable s v,
      fun q => registerWrite_queueDisable s v, fun n => registerWrite_level s v, fun k => registerWrite_shelfCap s v⟩
  · have hb := invalidate_bumped s (invRange s.chip.invCtl s.chip.invAt)
    have hram := invLoaded_ram s (invRange s.chip.invCtl s.chip.invAt)
    refine ⟨_, exec_translationInvalidationComplete hg, rfl, fun e => ?_, ?_, hb.hbm.trans (congrArg Ram.hbm hram),
      hb.host.trans (congrArg Ram.host hram), fun k g h hgk hhk => ⟨fun n hn hhere hc => ?_, fun j w v hw hv hx => ?_⟩, fun pc => ?_⟩
    · change e ∈ (invalidate s _).tlb ↔ _
      rw [hb.tlb, invLoaded_tlb, List.mem_filter, Bool.not_eq_true', ← Bool.not_eq_true, invRange_covers]
    · obtain ⟨p, hp⟩ := hb.hits
      change (invalidate s _).grps.map _ = _
      rw [hp, invLoaded_grps, List.map_map, List.map_map]
      rfl
    · exact invalidate_stale hgk hhk hn (by rw [InvRange.coversB, hhere, Bool.true_and]; exact (invRange_covers ..).2 hc)
    · obtain ⟨p, hp, hc⟩ := hx
      exact invalidate_hit hgk hhk hw hv ⟨p, hp, (invRange_covers ..).2 hc⟩
    · change aget ctxNone (invalidate s _).ctxs pc = _
      rw [hb.ctxs, aget_invLoaded, invRange_pcid]
      simp only [invRange_all]

/-- A capability that still has its tag after the sweep passed the barrier unchanged, so it passes again; the epoch that follows keeps this. A unit
takes a sample once, since the units of the list are distinct. -/
theorem epochAndMonitors : EpochAndMonitors := by
  refine ⟨fun s => ⟨exec_revocationEpochComplete_wait, fun s1 bad hd he ha => ?_⟩,
    fun s die src core v => ⟨exec_monitorSample_none s core v, fun hd h0 h14 => ?_⟩⟩
  · obtain ⟨-, hrev, hhbm, hhost⟩ := sweptAll_tagsOnly s1 (sweepBarrier s1 bad)
    have hrev : (sweptAll s1 (sweepBarrier s1 bad)).rev = s1.rev := hrev
    obtain ⟨hdone, hmap, hidle, hnext, hclean, huids, hram⟩ := epochEnd_ended (sweptAll s1 (sweepBarrier s1 bad))
    rw [hrev] at hdone hmap hidle hnext
    exact ⟨_, exec_revocationEpochComplete_done hd he ha, hdone, hmap, hidle, hnext,
      hclean s1 _ (sweptAll_clean (sweepBarrier_untags s1 bad) s1), huids.trans (sweptAll_uids s1 _), hram ▸ hhbm, hram ▸ hhost⟩
  · obtain ⟨hw, ht, hc⟩ := sampleUnits_frame die v (sampledUnits s die src core) s
    refine ⟨_, exec_monitorSample s core v hd h0 h14, hw, ht, hc, fun u hu => ?_, fun u hl hh => ⟨fun hs => ?_, fun hs => ?_⟩⟩
    · rw [monOf_monitorSample, if_neg (by omega)]
    · rw [monOf_monitorSample, if_pos ⟨⟨hl, hh⟩, (samples_iff ..).2 hs⟩]
      exact ⟨rfl, rfl, aget_monSample_bins _ v⟩
    · rw [monOf_monitorSample, if_neg fun h => hs ((samples_iff ..).1 h.2)]

/-- Settles O48: each write of BAR0 is one of words, the end of an invalidation hits and removes what its range covers, the barrier of an
epoch's end untags for good, and a sample changes the units that sample its source. -/
theorem chipRegisters : Obligations.ChipRegisters := ⟨registerBlock, epochAndMonitors⟩

end Sys2Proof.Claims
end

section
/-! Damaged registers and writes of q registers (R410). `LOut.mend` repairs registers by name, where q register n has the name 1,000 + n, so a
write of q0 also strikes damage recorded for v register 1,000. No group has that register, but the input `damage` takes any number, and
`mended` of the statements keeps what is recorded for a v register that is not written. -/

namespace Sys2Proof.Claims

open Sys2Proof Sys2Proof.Machine

/-- Instructions that write no v register repair none. -/
theorem mended_vreg_of_no_v {x : LX} {w : LW} {u n l e : Nat} (hv : w.v = []) : mended x w (.vreg u n l e) = false := by
  simp [mended, hv]

/-- Damage that the writes do not mend is still there when the instruction has retired. -/
theorem LaneLeaves.keeps_damage {x : LX} {w : LW} {t : State} {d : Damage} (h : LaneLeaves x w t) (hd : d ∈ x.s.bad) (hm : mended x w d = false) :
    d ∈ t.bad := by
  obtain ⟨g', ⟨-, -, -, hbad, -⟩, -⟩ := h
  exact (hbad d).2 ⟨hd, hm⟩

/-- The checks at issue pass where the matrix context is held and idle, none of its operations is buffered, and the checkpoint has room. -/
theorem issues_of_idle_matrix {x : LX} {g1 : Grp} (hh : (matOf x.s x.g).holder = some x.g.uid)
    (hk : keptHit x.g (writesOf (RawLane.ofWord x.w)) = false) (hs : x.spoiled (RawLane.ofWord x.w) = none)
    (hm : ¬ (0x2C0 ≤ (RawLane.ofWord x.w).op.toNat ∧ (RawLane.ofWord x.w).op.toNat ≤ 0x2C9)) (hb : matBuffered x.g = [])
    (hr : (matOf x.s x.g).run.toList ++ (matOf x.s x.g).queue = [])
    (ht : takeCkpt x.s x.g ((writesOf (RawLane.ofWord x.w)).filter (· < 1000))
      (((writesOf (RawLane.ofWord x.w)).filter fun n => 1000 ≤ n && n < 2000).map fun n => ckptQ (n - 1000)) = some g1) :
    Issues x { x with s := setGrp x.s g1, g := g1 } := by
  obtain ⟨hrun, hqueue⟩ := List.append_eq_nil_iff.1 hr
  have hv : matVRegs x.s x.g = [] := by simp [matVRegs, matPending, Option.toList_eq_nil_iff.1 hrun, hqueue, hb]
  refine ⟨fun _ => hh, hk, hs, hm, fun _ o ho => ?_, fun n _ => hv ▸ List.not_mem_nil, g1, ht, rfl⟩
  rw [hb, hr] at ho
  exact absurd ho (by simp)

/-- Lane instructions that write q0 from the integers 1 and 2: LBCAST and IADD. -/
def q0Write (wide : Bool) : Instr :=
  let h := hdrAB (.qreg 0) (.special 97) (.special 98)
  let m : AMods := { ty := .dflt, rnd := .rne, ftz := false, sat := false, x := 0 }
  if wide then .lbcast h m else .iadd h m

/-- The group placed on core 0 with its matrix context held and such an instruction at the head of its lane queue. -/
def q0State (wide : Bool) : State :=
  let s := placeBlock (placeGroup (placeCtx State.reset [])) ((encodeLane (q0Write wide)).getD 0)
  match grpAt s 0 0 with
  | some g => { modMat s g.wg 0 fun c => { c with holder := some g.uid } with actor := .lane 0 0 }
  | none => s

/-- Damage that the input of R410 puts on record: lane 0 of v register 1,000 of that group. -/
def v1000Damage (s : State) : Damage := .vreg (match grpAt s 0 0 with | some g => g.uid | none => 0) 1000 0 5
def q0Damaged (wide : Bool) : State := runInput (q0State wide) (.damage (v1000Damage (q0State wide)))

/-- The instruction as the lane queue holds it. -/
theorem q0Damaged_runs (wide : Bool) : (actorLane (q0Damaged wide)).isSome = true := by cases wide <;> decide +kernel
def q0LX (wide : Bool) : LX := (actorLane (q0Damaged wide)).get (q0Damaged_runs wide)

/-- It issues, in a whole block, with the damage on record. -/
theorem q0LX_issues (wide : Bool) : ∃ x1, Issues (q0LX wide) x1 ∧ WholeBlock (q0LX wide).b ∧ v1000Damage (q0State wide) ∈ x1.s.bad := by
  have hchecks : let x := q0LX wide
      let r := RawLane.ofWord x.w
      (matOf x.s x.g).holder = some x.g.uid ∧ keptHit x.g (writesOf r) = false ∧ x.spoiled r = none ∧
      ¬ (0x2C0 ≤ r.op.toNat ∧ r.op.toNat ≤ 0x2C9) ∧ matBuffered x.g = [] ∧ (matOf x.s x.g).run.toList ++ (matOf x.s x.g).queue = [] ∧
      (takeCkpt x.s x.g ((writesOf r).filter (· < 1000)) (((writesOf r).filter fun n => 1000 ≤ n && n < 2000).map fun n => ckptQ (n - 1000))).isSome = true := by
    cases wide <;> decide +kernel
  have hblock : (q0LX wide).b.splits ≤ 1 ∧ (q0LX wide).b.full = true ∧ (q0LX wide).b.receiver = false := by cases wide <;> decide +kernel
  have hbad : v1000Damage (q0State wide) ∈ (q0LX wide).s.bad := by cases wide <;> decide +kernel
  obtain ⟨hh, hk, hs, hm, hb, hr, ht⟩ := hchecks
  obtain ⟨g1, ht⟩ := Option.isSome_iff_exists.1 ht
  exact ⟨_, issues_of_idle_matrix hh hk hs hm hb hr ht, hblock, hbad⟩

/-- Once it has retired no damage is on record. -/
theorem q0Write_drops_damage (wide : Bool) {t : State} (h : exec (q0Write wide) (q0Damaged wide) = .next t) : t.bad = [] := by
  have hrun : (match exec (q0Write wide) (q0Damaged wide) with | .next t => t.bad | _ => [v1000Damage (q0State wide)]) = [] := by
    cases wide <;> decide +kernel
  rwa [h] at hrun

/-- So it leaves something else than the statements say of any writes without v registers. -/
theorem q0Write_not_laneLeaves {wide : Bool} {x1 : LX} {w : LW} (hv : w.v = []) (hbad : v1000Damage (q0State wide) ∈ x1.s.bad) :
    ¬ ∃ t, exec (q0Write wide) (q0Damaged wide) = .next t ∧ LaneLeaves x1 w t := by
  rintro ⟨t, ht, hl⟩
  have hkept := hl.keeps_damage hbad (mended_vreg_of_no_v hv)
  rw [q0Write_drops_damage wide ht] at hkept
  exact absurd hkept List.not_mem_nil

/-- Refutes O33: an IADD to q0 strikes the damage recorded for v register 1,000, which the statement says it leaves. -/
theorem not_laneArithmetic : ¬ Obligations.LaneArithmetic := by
  intro h
  obtain ⟨x1, hi, -, hbad⟩ := q0LX_issues false
  exact q0Write_not_laneLeaves rfl hbad (h (q0Write false) _ _ x1 _ (Option.some_get _).symm hi (by decide) (.inl rfl))

/-- Refutes O35: an LBCAST to q0 in a whole group strikes the damage recorded for v register 1,000, which the statement says it leaves. -/
theorem not_laneGroupWide : ¬ Obligations.LaneGroupWide := by
  intro h
  obtain ⟨x1, hi, hb, hbad⟩ := q0LX_issues true
  exact q0Write_not_laneLeaves rfl hbad ((h (q0Write true) _ _ x1 (Option.some_get _).symm hi (by decide) hb).1 _ rfl)

end Sys2Proof.Claims
end

section
/-! The contents of a mapped range (R224, R225): its rows take its bytes, and its addresses then name its rows. -/

namespace Sys2Proof.Machine

/-! Bytes of memory after a write of a tag, of a span record and of a byte. -/

theorem byteAt_putTag (r : Ram) (l p : Loc) (t : Bool) : byteAt (putTag r l t) p = byteAt r p := by
  obtain ⟨sp, a⟩ := l
  cases sp with
  | pad w =>
    obtain ⟨sp', k⟩ := p
    cases sp' with
    | pad w' =>
      simp only [putTag, byteAt, padOf, aget_aset]
      split
      · next h => rw [h]
      · rfl
    | _ => rfl
  | _ => cases p.sp <;> rfl

theorem byteAt_putSpan (r : Ram) (l p : Loc) (c : BitVec 3) : byteAt (putSpan r l c) p = byteAt r p := by
  obtain ⟨sp, a⟩ := l
  cases sp with
  | pad w =>
    obtain ⟨sp', k⟩ := p
    cases sp' with
    | pad w' =>
      simp only [putSpan, byteAt, padOf, aget_aset]
      split
      · next h => rw [h]
      · rfl
    | _ => rfl
  | _ => rfl

theorem byteAt_putByte_pad (r : Ram) (w a : Nat) (b : Byte) (k : Nat) :
    byteAt (putByte r { sp := .pad w, a := a } b) { sp := .pad w, a := k } = if k = a then b else byteAt r { sp := .pad w, a := k } := by
  simp only [putByte, byteAt, padOf, aget_aset_self, rd8_wr8]

theorem putTag_maps (r : Ram) (l : Loc) (t : Bool) : (putTag r l t).maps = r.maps := by unfold putTag; split <;> rfl
theorem putSpan_maps (r : Ram) (l : Loc) (c : BitVec 3) : (putSpan r l c).maps = r.maps := by unfold putSpan; split <;> rfl
theorem putByte_maps (r : Ram) (l : Loc) (b : Byte) : (putByte r l b).maps = r.maps := by unfold putByte; split <;> rfl

theorem ramWrite_maps (c : BitVec 3) : ∀ (bs : List Byte) (r : Ram) (l : Loc), (ramWrite r l c bs).maps = r.maps
  | [], _, _ => rfl
  | _ :: bs, r, l => by rw [ramWrite, ramWrite_maps c bs, putSpan_maps, putTag_maps, putByte_maps]

/-- A scratchpad byte after a write of bytes to rows of its scratchpad: a row is its own place (R225). -/
theorem byteAt_ramWrite_pad (w : Nat) (c : BitVec 3) (k : Nat) : ∀ (bs : List Byte) (r : Ram) (a : Nat),
    byteAt (ramWrite r { sp := .pad w, a := a } c bs) { sp := .pad w, a := k } =
      if a ≤ k ∧ k < a + bs.length then bs.getD (k - a) 0 else byteAt r { sp := .pad w, a := k }
  | [], r, a => by rw [ramWrite, if_neg (by simp only [List.length_nil]; omega)]
  | b :: bs, r, a => by
    rw [ramWrite, byteAt_ramWrite_pad w c k bs, resolve, byteAt_putSpan, byteAt_putTag, byteAt_putByte_pad, List.length_cons]
    dsimp only
    by_cases hk : k = a
    · subst hk
      rw [if_neg (by omega), if_pos rfl, if_pos (by omega), Nat.sub_self]; rfl
    · rw [if_neg hk]
      by_cases hin : a + 1 ≤ k ∧ k < a + 1 + bs.length
      · rw [if_pos hin, if_pos (by omega), show k - a = k - (a + 1) + 1 by omega]; rfl
      · rw [if_neg hin, if_neg (by omega)]

@[simp] theorem length_ramRead (r : Ram) : ∀ (n : Nat) (l : Loc), (ramRead r l n).length = n
  | 0, _ => rfl
  | n + 1, _ => congrArg (· + 1) (length_ramRead r n _)

theorem getElem_ramRead (r : Ram) : ∀ (n : Nat) (l : Loc) (k : Nat) (h : k < (ramRead r l n).length),
    (ramRead r l n)[k] = byteAt r (resolve r { l with a := l.a + k })
  | _ + 1, _, 0, _ => rfl
  | n + 1, l, k + 1, h => by
    have hk := getElem_ramRead r n { l with a := l.a + 1 } k (by simpa using h)
    simpa only [ramRead, List.getElem_cons_succ, Nat.add_assoc, Nat.add_comm 1 k] using hk

/-! A mapping that takes effect. -/

/-- Tags differ at most: each byte and the live mappings are the same. -/
structure SameBytes (r r' : Ram) : Prop where
  bytes : ∀ p, byteAt r' p = byteAt r p
  maps : r'.maps = r.maps

namespace SameBytes

variable {r r' r'' : Ram}

theorem refl (r : Ram) : SameBytes r r := ⟨fun _ => rfl, rfl⟩

theorem trans (h : SameBytes r r') (k : SameBytes r' r'') : SameBytes r r'' :=
  ⟨fun p => (k.bytes p).trans (h.bytes p), k.maps.trans h.maps⟩

theorem putTag (r : Ram) (l : Loc) (t : Bool) : SameBytes r (putTag r l t) := ⟨fun _ => byteAt_putTag .., putTag_maps ..⟩

theorem foldl {α : Type} {f : Ram → α → Ram} (h : ∀ r a, SameBytes r (f r a)) (l : List α) (r : Ram) : SameBytes r (l.foldl f r) :=
  List.foldlRecOn l f (.refl r) fun r' hr a _ => hr.trans (h r' a)

end SameBytes

theorem barTags_sameBytes (s : State) (wg : Nat) (l : Loc) (n : Nat) : SameBytes s.ram (barTags s wg l n).ram :=
  .foldl (fun r _ => iteInduction (motive := SameBytes r) (fun _ => .refl r) fun _ => .putTag ..) _ _

theorem byteAt_addMap (r : Ram) (ms : List MapEnt) (p : Loc) : byteAt { r with maps := ms } p = byteAt r p := by
  unfold byteAt; split <;> rfl

theorem byteAt_mapOne (s : State) (m : MapEnt) (p : Loc) : byteAt (mapOne s m).ram p =
    byteAt (ramWrite s.ram { sp := .pad m.wg, a := m.off } 0 (ramRead s.ram (hbmLoc m.pa) m.len)) p := by
  unfold mapOne
  dsimp only
  rw [aliasReads_ram, (barTags_sameBytes _ _ _ _).bytes, markHit_ram, byteAt_addMap]
  exact (SameBytes.foldl (fun r k => SameBytes.putTag r _ _) _ _).bytes p

theorem mapOne_maps (s : State) (m : MapEnt) : (mapOne s m).ram.maps = s.ram.maps ++ [m] := by
  unfold mapOne
  dsimp only
  rw [aliasReads_ram, (barTags_sameBytes _ _ _ _).maps, markHit_ram]
  dsimp only
  rw [(SameBytes.foldl (fun r k => SameBytes.putTag r _ _) _ _).maps, ramWrite_maps]

/-- The rows of a new mapping hold what its range held. -/
theorem byteAt_mapOne_row (s : State) (m : MapEnt) {k : Nat} (hk : k < m.len) :
    byteAt (mapOne s m).ram { sp := .pad m.wg, a := m.off + k } = byteAt s.ram (resolve s.ram (hbmLoc (m.pa + k))) := by
  have hl : k < (ramRead s.ram (hbmLoc m.pa) m.len).length := by simpa
  rw [byteAt_mapOne, byteAt_ramWrite_pad, if_pos (by simp [hk]), Nat.add_sub_cancel_left, List.getD_eq_getElem _ _ hl, getElem_ramRead]
  rfl

/-- An address that only the new mapping covers names its row. -/
theorem resolve_mapOne (s : State) (m : MapEnt) {k : Nat} (hk : k < m.len)
    (hfree : ∀ e ∈ s.ram.maps, ¬ (e.pa ≤ m.pa + k ∧ m.pa + k < e.pa + e.len)) :
    resolve (mapOne s m).ram (hbmLoc (m.pa + k)) = { sp := .pad m.wg, a := m.off + k } := by
  have hnone : s.ram.maps.find? (fun e => decide (e.pa ≤ m.pa + k) && decide (m.pa + k < e.pa + e.len)) = none := by
    simpa [List.find?_eq_none] using hfree
  have hfind : (mapOne s m).ram.maps.find? (fun e => decide (e.pa ≤ m.pa + k) && decide (m.pa + k < e.pa + e.len)) = some m := by
    rw [mapOne_maps, List.find?_append, hnone]
    simp [hk]
  unfold resolve hbmLoc
  dsimp only
  rw [hfind]
  simp

end Sys2Proof.Machine

namespace Sys2Proof.Claims

open Sys2Proof.Machine

theorem mapKeepsContents : MapKeepsContents := by
  intro s m hfree
  have hrow {k : Nat} (hk : k < m.len) := byteAt_mapOne_row s m hk
  refine ⟨List.ext_getElem (by simp) fun k h _ => ?_, List.ext_getElem (by simp) fun k h _ => ?_⟩
  all_goals
    have hk : k < m.len := by simpa using h
    rw [getElem_ramRead, getElem_ramRead]
  · rw [show ({ hbmLoc m.pa with a := (hbmLoc m.pa).a + k } : Loc) = hbmLoc (m.pa + k) from rfl,
      resolve_mapOne s m hk fun e he => hfree e he k hk, hrow hk]
  · exact hrow hk

end Sys2Proof.Claims
end

section
/-! Translation registers (R207, R208) and the effects of MAP and UNMAP (R224, R226). -/

namespace Sys2Proof.Machine

theorem toNat_limOf_le {v u : Int} (h : v ≤ u) (hu : 0 ≤ u) : ((limOf v).toNat : Int) ≤ u := by
  have hm : (limOf v).toNat ≤ v.toNat := by
    rw [limOf, BitVec.toNat_ofNat]
    exact (Nat.mod_le _ _).trans (Nat.min_le_left _ _)
  omega

/-- What a translation of a capability changes and gives (R208): memory and the groups stay, the register holds the capability, and its
limit does not pass the capability's top. -/
structure Translated (s : State) (c : Cap) (p : State × BReg) : Prop where
  ram : p.1.ram = s.ram
  grps : p.1.grps = s.grps
  cap : p.2.cap = c
  limit : (cAddr c : Int) ≤ capTop c → (p.2.limit.toNat : Int) ≤ capTop c - cAddr c

theorem xlateReg_translated (s : State) (g : Grp) (c : Cap) : Translated s c (xlateReg s g c) := by
  have none_ (t : State) (hr : t.ram = s.ram) (hg : t.grps = s.grps) : Translated s c (t, { bNone with cap := c }) :=
    ⟨hr, hg, rfl, fun h => show (0 : Int) ≤ _ by omega⟩
  have hram := leafFor_ram s (ctxOf s (pcidOf s g.launch)) (pcidOf s g.launch) false (cAddr c)
  have hgrps := leafFor_grps s (ctxOf s (pcidOf s g.launch)) (pcidOf s g.launch) false (cAddr c)
  unfold xlateReg
  dsimp only
  split
  · exact ⟨rfl, rfl, rfl, fun h => toNat_limOf_le le_rfl (by omega)⟩
  split
  · exact none_ s rfl rfl
  generalize leafFor s _ _ false _ = q at hram hgrps
  obtain ⟨s1, e | l⟩ := q
  · exact none_ s1 hram hgrps
  · exact iteInduction (motive := Translated s c) (fun _ => none_ s1 hram hgrps) fun _ =>
      ⟨hram, hgrps, rfl, fun h => toNat_limOf_le (min_le_right _ _) (by omega)⟩

/-- Ownership alone changes. -/
theorem grantOwn_frame (s : State) (who a : Nat) : grantOwn s who a = { s with owners := (grantOwn s who a).owners } := rfl

/-- The granting of the mapped sub-pages to the mapping core changes ownership alone (R252). -/
theorem grantMapped_frame (es : List MapEnt) (who : Nat) (s : State) :
    let t := es.foldl (fun t m => (subsOf t.ram (hbmLoc m.pa) m.len).foldl (fun u k => grantOwn u who (4096 * k)) t) s
    t = { s with owners := t.owners } := by
  have step {t : State} (ht : t = { s with owners := t.owners }) (who a : Nat) :
      grantOwn t who a = { s with owners := (grantOwn t who a).owners } := by
    rw [grantOwn_frame, ht]
  exact List.foldlRecOn (motive := fun t : State => t = { s with owners := t.owners }) es _ rfl fun t ht m _ =>
    List.foldlRecOn (motive := fun t : State => t = { s with owners := t.owners }) _ _ ht fun u hu k _ => step hu who (4096 * k)

end Sys2Proof.Machine

namespace Sys2Proof.Claims

open Sys2Proof.Machine

section
variable {s : State} {g : Grp} {x : Split}

/-- XLATE and XDROP of a register that a queued lane word names are tried again (R208). -/
theorem translationRegister_busy (h : Runs s g x) {b : BRegIx} (hb : bBusy g b.toNat = true) (c : CReg) :
    exec (.xlate b c) s = .next s ∧ exec (.xdrop b) s = .next s := by
  constructor <;>
  · refine (scalarStep_eq h).trans ?_
    simp [hb, finish]

theorem xdrop_completes (h : Runs s g x) {b : BRegIx} (hb : bBusy g b.toNat = false) :
    Completes (.xdrop b) s { g with g := { g.g with b := aset bNone g.g.b b.toNat bNone } } x (pccAt x 1) [] := by
  refine completes_set none h rfl ?_ rfl (runs_spec h).2 rfl (no_claim _ _)
  simp [hb, Fin.ok, putB]

theorem xdropAll_completes (h : Runs s g x) (hb : ∀ n < 8, bBusy g n = false) :
    Completes .xdropAll s { g with g := { g.g with b := [] } } x (pccAt x 1) [] := by
  have hno : (below 8).any (bBusy g) = false := by simpa [below_range] using hb
  refine completes_set none h rfl ?_ rfl (runs_spec h).2 rfl (no_claim _ _)
  simp [hno, Fin.ok]

theorem xlate_completes (h : Runs s g x) {b : BRegIx} {c : CReg} (hb : bBusy g b.toNat = false) (ht : (cGet x c).tag = true)
    (ho : cOtype (cGet x c) = 0) (hlo : capBase (cGet x c) ≤ cAddr (cGet x c)) (hhi : (cAddr (cGet x c) : Int) ≤ capTop (cGet x c))
    {s1 : State} {r : BReg} (he : xlateReg s g (cGet x c) = (s1, r)) :
    CompletesIn (.xlate b c) s s1 { g with g := { g.g with b := aset bNone g.g.b b.toNat r } } x (pccAt x 1) [] := by
  have hx := xlateReg_translated s g (cGet x c)
  rw [he] at hx
  have hg1 : grpOf s1 g.uid = some g := by
    rw [grpOf, hx.grps]
    exact (runs_spec h).1
  refine ⟨_, scalarStep_eq h, ?_⟩
  have hout : ¬ (decide ((cAddr (cGet x c) : Int) < capBase (cGet x c)) || decide ((cAddr (cGet x c) : Int) > capTop (cGet x c))) = true := by
    simp; omega
  simp only [hb, ht, ho, he, hg1, hout, Bool.false_eq_true, Bool.not_true, bne_self_eq_false, if_false]
  exact retires_set (ws := []) (p := none) (g := { g with g := { g.g with b := aset bNone g.g.b b.toNat r } }) hg1 (runs_spec h).2 (no_claim _ _)

theorem xlateLim_completes (h : Runs s g x) {b : BRegIx} {d : SReg} (hs : (bGet g.g b.toNat).stale = false)
    (hc : ¬ Seizes g x [(d, if (bGet g.g b.toNat).cap.tag = true then (bGet g.g b.toNat).limit else 0)]) :
    Completes (.xlateLim b d) s g x (pccAt x 1) [(d, if (bGet g.g b.toNat).cap.tag = true then (bGet g.g b.toNat).limit else 0)] := by
  refine completes_ret none h rfl ?_ rfl hc
  simp [freshB, hs, Fin.set]

end

theorem translationRegisters : TranslationRegisters := by
  intro s g x b c d h
  refine ⟨fun hb => translationRegister_busy h hb c, xdrop_completes h, xdropAll_completes h, ?_, ?_⟩
  · intro hb ht ho hlo hhi s1 r he
    have hx := xlateReg_translated s g (cGet x c)
    rw [he] at hx
    exact ⟨xlate_completes h hb ht ho hlo hhi he, hx.ram, hx.cap, hx.limit hhi⟩
  · rintro hs v rfl hc
    exact xlateLim_completes h hs hc

theorem unmapResult : UnmapResult := by
  intro s g x s1 g1 x1 k t g2 h hr hset hg2 hcore
  have hx2 : g2.g.split x.idx = some x1 := hcore ▸ hset.2.2.1
  constructor
  · rintro rfl
    exact completes_in none h rfl (settles_irr hr hset _) hg2 hx2 rfl (no_claim _ _)
  · rintro rfl
    exact completes_in none h rfl (settles_irr hr hset _) hg2 hx2 rfl (no_claim _ _)

/-- Check 7 passes where the address is this node's aperture and the base unmarked, or is none of its addresses (R177). -/
theorem not_marked_of_check7 {s : State} {pcid : Nat} {c : Cap} {va access : Nat} (h : check7 s pcid c va access = none) :
    (isAperture va && decide (nbits va 47 9 = s.fab.node.toNat) && apertureMarked s pcid c) = false := by
  have ha : isAperture va = decide (nbits va 56 1 = 1) := by
    rw [isAperture, nbits_eq, decide_eq_decide]
    omega
  by_contra hm
  rw [Bool.not_eq_false, ha] at hm
  simp [check7, hm] at h

theorem mapResult : MapResult := by
  intro s g x s1 g1 x1 d a b k s2 ps len c p t g3 h hr hset hc hp hlen hcc h7 hcp hwg hca hpa hlm hl0 hl1 hps hov ht hg3 hcore
  have hx3 : g3.g.split x.idx = some x1 := hcore ▸ hset.2.2.1
  let u := (mapEnts g1.wg k.toNat (cAddr p % 2 ^ 21) ps).foldl
    (fun t m => (subsOf t.ram (hbmLoc m.pa) m.len).foldl (fun u k => grantOwn u (g1.core + 1) (4096 * k)) t) t
  have hu : u = { t with owners := u.owners } := grantMapped_frame _ _ _
  have hgu : grpOf u g.uid = some g3 := by rw [hu]; exact hg3
  refine ⟨u, completes_in none h rfl ?_ hgu hx3 rfl (no_claim _ _), hu⟩
  refine (settles_irr hr hset _).trans ?_
  have hmine := not_marked_of_check7 h7
  have hshape : (cAddr c % 128 != 0 || cAddr p % 128 != 0 || len % 128 != 0 || decide (len < 128) || decide (len > 262144)) = false := by
    simp [hca, hpa, hlm]; omega
  have hfree : (ps.any fun q => (s2.ram.maps.filter fun m => !(decide (m.wg = g1.wg) && decide (m.slot = k.toNat))).any fun m =>
      decide (q.1 < m.pa + m.len) && decide (m.pa < q.1 + q.2)) = false := by
    refine List.any_eq_false.2 fun q hq hany => ?_
    obtain ⟨e, he, hlap⟩ := List.any_eq_true.1 hany
    obtain ⟨hmem, hother⟩ := List.mem_filter.1 he
    exact hov q hq e hmem (fun ⟨hw, hs⟩ => by simp [hw, hs] at hother) (by simpa using hlap)
  have hcc' : checkUse c [pMAP, pLOAD, pSTORE] (cAddr c) len accMap false (some false) (gangPad s1 g1.gang) = .ok () := hcc
  have hcp' : checkUse p [pLOAD, pSTORE] (cAddr p) len accMap false (some true) (gangPad s1 g1.gang) = .ok () := hcp
  subst hc hp hlen ht
  dsimp only
  rw [hcc']
  dsimp only
  rw [hmine, hcp']
  simp only [hwg, hshape, hps, hfree, bne_self_eq_false, Bool.false_eq_true, if_false]
  rfl

/-- Settles O18: each part says what its instructions leave, MAP and UNMAP once the group's windows have committed. -/
theorem translationAndMapping : Obligations.TranslationAndMapping :=
  ⟨translationRegisters, unmapResult, mapResult, mapKeepsContents⟩

end Sys2Proof.Claims
end

section
/-! What write events, event records and rollbacks leave of the fabric, and of the groups (R245, R248, R253, R401). -/

namespace Sys2Proof.Machine

open Sys2Proof.Claims

/-! Groups whose windows a conflict has hit. -/

/-- Windows are hit, and nothing else of the groups changes (R245). -/
def Hits (s t : State) : Prop :=
  ∃ p : Grp → Window → Bool, t.grps = s.grps.map fun g => { g with wins := g.wins.map fun w => { w with hit := w.hit || p g w } }

namespace Hits

variable {s t u : State}

theorem of_eq (h : t.grps = s.grps) : Hits s t := ⟨fun _ _ => false, by simp [h]⟩

theorem trans (h : Hits s t) (k : Hits t u) : Hits s u := by
  obtain ⟨p, hp⟩ := h
  obtain ⟨q, hq⟩ := k
  refine ⟨fun g w => p g w || q { g with wins := g.wins.map fun w => { w with hit := w.hit || p g w } } { w with hit := w.hit || p g w }, ?_⟩
  simp [hq, hp, Bool.or_assoc]

/-- A group keeps its name, its contents and what its windows buffer. -/
theorem grpOf (h : Hits s t) {u : Nat} {g : Grp} (hg : grpOf s u = some g) :
    ∃ ws, Machine.grpOf t u = some { g with wins := ws } ∧ ws.map (·.buf) = g.wins.map (·.buf) := by
  obtain ⟨p, hp⟩ := h
  refine ⟨g.wins.map fun w => { w with hit := w.hit || p g w }, ?_, by simp⟩
  unfold Machine.grpOf at *
  rw [hp, List.find?_map]
  exact congrArg (Option.map _) hg

end Hits

theorem markHit_hits (s : State) (u : Nat) (ls : List Loc) : Hits s (markHit s u ls) := by
  refine ⟨fun g w => g.uid != u && ls.any w.reads.contains, List.map_congr_left fun g _ => ?_⟩
  by_cases hu : g.uid = u
  · simp only [hu, bne_self_eq_false, Bool.false_and, Bool.or_false, List.map_id', if_true]
    rw [← hu]
  · have hw : ∀ w : Window, (if ls.any w.reads.contains = true then { w with hit := true } else w) =
        { w with hit := w.hit || (g.uid != u && ls.any w.reads.contains) } := by
      intro w
      cases ls.any w.reads.contains <;> simp [hu]
    simp only [hu, if_false, hw]

/-! A write event or an event record. -/

/-- What a write event or an event record to the host leaves alone (R245, R248, R401): of the fabric only the epoch bumps that are out may
change, messages are added, and windows are hit. -/
structure Written (s t : State) : Prop where
  power : t.power = s.power
  fab : { t.fab with bumps := s.fab.bumps } = s.fab
  outbox : s.outbox ⊆ t.outbox
  hits : Hits s t

namespace Written

variable {s t u : State}

theorem refl (s : State) : Written s s := ⟨rfl, rfl, fun _ h => h, .of_eq rfl⟩

theorem trans (h : Written s t) (k : Written t u) : Written s u :=
  ⟨k.power.trans h.power, (congrArg (fun f : Fabric => { f with bumps := s.fab.bumps }) k.fab).trans h.fab,
    fun _ m => k.outbox (h.outbox m), h.hits.trans k.hits⟩

theorem foldl {α : Type} {f : State → α → State} (h : ∀ t a, Written t (f t a)) (l : List α) (s : State) : Written s (l.foldl f s) :=
  List.foldlRecOn l f (.refl s) fun t ht a _ => ht.trans (h t a)

/-- A step that leaves the power, the fabric and the groups as they are. -/
theorem of_eq (hp : t.power = s.power) (hf : t.fab = s.fab) (ho : s.outbox ⊆ t.outbox) (hg : t.grps = s.grps) : Written s t :=
  ⟨hp, by rw [hf], ho, .of_eq hg⟩

end Written

theorem bumpEpoch_written (s : State) (sub : Nat) : Written s (bumpEpoch s sub) :=
  ⟨rfl, rfl, List.subset_append_left _ _, fun _ w => w.reads.any fun l => l.sp = .hbm && l.a / 4096 = sub, hitReads_grps _ _⟩

theorem markHit_written (s : State) (u : Nat) (ls : List Loc) : Written s (markHit s u ls) := ⟨rfl, rfl, fun _ h => h, markHit_hits s u ls⟩

theorem mend_written (s : State) (l : Loc) (n : Nat) : Written s (mend s l n) := by
  unfold mend
  split
  · exact .refl s
  · exact .of_eq rfl rfl (fun _ h => h) rfl

theorem markDirty_written (s : State) (ls : List Loc) : Written s (markDirty s ls) := .of_eq rfl rfl (fun _ h => h) rfl
theorem takeHost_written (s : State) (ls : List Loc) : Written s (takeHost s ls) := .of_eq rfl rfl (List.subset_append_left _ _) rfl
theorem hostState_written (s : State) (st : Nat) (ls : List Loc) : Written s (hostState s st ls) := .of_eq rfl rfl (fun _ h => h) rfl

theorem putMem_written (s : State) (u : Nat) (l : Loc) (sp : BitVec 3) (b : List Byte) : Written s (putMem s u l sp b) := by
  have lines (ls : List Loc) : Written s (hostState (takeHost (markDirty (mend s l b.length) ls) ls) 3 ls) :=
    (mend_written s l b.length).trans ((markDirty_written _ ls).trans ((takeHost_written _ ls).trans (hostState_written _ 3 ls)))
  unfold putMem
  refine Written.trans ?_ (markHit_written _ _ _)
  refine Written.trans ?_ (.foldl bumpEpoch_written _ _)
  exact (lines _).trans (.of_eq rfl rfl (fun _ h => h) rfl)

theorem raiseEvent_written (s : State) (kind src d : Nat) (p : List Byte) : Written s (raiseEvent s kind src d p) := by
  unfold raiseEvent
  dsimp only
  split
  · exact .of_eq rfl rfl (fun _ h => h) rfl
  · generalize hp : putMem s 0 _ 0 _ = t
    have ht : Written s t := hp ▸ putMem_written ..
    exact ht.trans (.of_eq rfl rfl (List.subset_append_left _ _) rfl)

theorem lifeInc_written (s : State) (i : Nat) : Written s (lifeInc s i) := .of_eq rfl rfl (fun _ h => h) rfl

theorem escalate_written (s : State) (core : Nat) : Written s (escalate s core) := by
  unfold escalate
  dsimp only
  refine iteInduction (motive := Written s) (fun _ => ?_) fun _ => .of_eq rfl rfl (fun _ h => h) rfl
  refine Written.trans ?_ (raiseEvent_written ..)
  exact .of_eq rfl rfl (fun _ h => h) rfl

theorem endTce_written (s : State) (uid : Nat) : Written s (endTce s uid) := by
  unfold endTce
  split
  · exact .refl s
  · exact (Written.foldl (fun t l => putMem_written ..) _ s).trans (.of_eq rfl rfl (fun _ h => h) rfl)

theorem endCe_written (s : State) (uid : Nat) : Written s (endCe s uid) := by
  unfold endCe
  split
  · exact .refl s
  · refine (Written.foldl (fun t c => iteInduction (motive := Written t) (fun _ => ?_) fun _ => .refl t) _ s).trans
      (.of_eq rfl rfl (fun _ h => h) rfl)
    split
    · exact putMem_written ..
    · exact .refl t

theorem spoilEngine_written (s : State) (uid : Nat) : Written s (spoilEngine s uid) := by
  unfold spoilEngine
  dsimp only
  have h1 : Written s (if s.tces.any (fun o => o.uid = uid && (o.st = .running || o.st = .queued)) then endTce (lifeInc s 3) uid else s) :=
    iteInduction (motive := Written s) (fun _ => (lifeInc_written s 3).trans (endTce_written ..)) fun _ => .refl s
  generalize (if s.tces.any (fun o => o.uid = uid && (o.st = .running || o.st = .queued)) then endTce (lifeInc s 3) uid else s) = s1 at h1 ⊢
  refine Written.trans (h1.trans ?_) (.foldl (fun t w => .foldl (fun u e => ?_) _ t) _ _)
  · split
    · exact (lifeInc_written _ 3).trans (endCe_written ..)
    · exact .refl _
  · exact iteInduction (motive := Written u) (fun _ => .of_eq rfl rfl (fun _ h => h) rfl) fun _ => .refl u

/-! Rollbacks. -/

/-- What a rollback leaves alone too (R253): it drops answers and gives back holds. -/
structure FabricKept (s t : State) : Prop where
  power : t.power = s.power
  fab : { t.fab with bumps := s.fab.bumps, answers := s.fab.answers, holds := s.fab.holds } = s.fab
  holds : t.fab.holds ⊆ s.fab.holds
  outbox : s.outbox ⊆ t.outbox

namespace FabricKept

variable {s t u : State}

theorem refl (s : State) : FabricKept s s := ⟨rfl, rfl, fun _ h => h, fun _ h => h⟩

theorem trans (h : FabricKept s t) (k : FabricKept t u) : FabricKept s u :=
  ⟨k.power.trans h.power,
    (congrArg (fun f : Fabric => { f with bumps := s.fab.bumps, answers := s.fab.answers, holds := s.fab.holds }) k.fab).trans h.fab,
    fun _ m => h.holds (k.holds m), fun _ m => k.outbox (h.outbox m)⟩

theorem foldl {α : Type} {f : State → α → State} (h : ∀ t a, FabricKept t (f t a)) (l : List α) (s : State) : FabricKept s (l.foldl f s) :=
  List.foldlRecOn l f (.refl s) fun t ht a _ => ht.trans (h t a)

theorem linkstat (h : FabricKept s t) : t.fab.linkstat = s.fab.linkstat := congrArg (·.linkstat) h.fab
theorem planeDown (h : FabricKept s t) : t.fab.planeDown = s.fab.planeDown := congrArg (·.planeDown) h.fab
theorem peers (h : FabricKept s t) : t.fab.peers = s.fab.peers := congrArg (·.peers) h.fab
theorem reqs (h : FabricKept s t) : t.fab.reqs = s.fab.reqs := congrArg (·.reqs) h.fab
theorem sent (h : FabricKept s t) : t.fab.sent = s.fab.sent := congrArg (·.sent) h.fab
theorem guest (h : FabricKept s t) : t.fab.guest = s.fab.guest := congrArg (·.guest) h.fab
theorem wins (h : FabricKept s t) : t.fab.wins = s.fab.wins := congrArg (·.wins) h.fab

end FabricKept

theorem Written.fabricKept {s t : State} (h : Written s t) : FabricKept s t :=
  ⟨h.power, congrArg (fun f : Fabric => { f with answers := s.fab.answers, holds := s.fab.holds }) h.fab,
    fun _ k => (congrArg (·.holds) h.fab : t.fab.holds = s.fab.holds) ▸ k, h.outbox⟩

theorem Written.answers {s t : State} (h : Written s t) : t.fab.answers = s.fab.answers := congrArg (·.answers) h.fab

theorem endHold_answers (s : State) (a : Ans) : (endHold s a).fab.answers = s.fab.answers := by
  unfold endHold
  split
  · split <;> rfl
  · rfl

theorem endHold_kept (s : State) (a : Ans) : FabricKept s (endHold s a) := by
  unfold endHold
  split
  · split
    · exact ⟨rfl, rfl, List.erase_subset, fun _ h => h⟩
    · exact ⟨rfl, rfl, fun _ h => h, List.subset_append_left _ _⟩
  · exact .refl s

theorem dropAns_kept (s : State) (uid : Nat) : FabricKept s (dropAns s uid) :=
  FabricKept.trans (t := { s with fab := { s.fab with answers := s.fab.answers.filter fun a => a.group != uid } })
    ⟨rfl, rfl, fun _ h => h, fun _ h => h⟩ (.foldl endHold_kept _ _)

theorem dropAns_answers (s : State) (uid : Nat) : (dropAns s uid).fab.answers = s.fab.answers.filter fun a => a.group != uid :=
  List.foldlRecOn (motive := fun t : State => t.fab.answers = s.fab.answers.filter fun a => a.group != uid) _ endHold rfl
    fun t ht a _ => (endHold_answers t a).trans ht

theorem rollBad_written (s : State) (g : Grp) (gone : List Window) : Written s (rollBad s g gone) := by
  unfold rollBad
  split
  · exact .refl s
  · exact .of_eq rfl rfl (fun _ h => h) rfl

/-- What a rollback of the windows of group g from position k on leaves, w the window there (R253): the older windows, the state at w's
start with its b registers stale, no answers of the group, and the holds of the windows given back. -/
structure RolledBack (s t : State) (g : Grp) (k : Nat) (w : Window) : Prop where
  kept : FabricKept s t
  answers : t.fab.answers = s.fab.answers.filter fun a => a.group != g.uid
  released : ∀ v ∈ g.wins.drop k, ∀ h ∈ v.valid, .release h.1 h.2 ∈ t.outbox
  grp : ∃ g' : Grp, g'.uid = g.uid ∧ g'.wins = g.wins.take k ∧ { g'.g with b := w.snap.b } = w.snap ∧ Hits (setGrp s g') t

theorem RolledBack.written {s t u : State} {g : Grp} {k : Nat} {w : Window} (h : RolledBack s t g k w) (hw : Written t u) :
    RolledBack s u g k w := by
  obtain ⟨g', hu, hwins, hsnap, hits⟩ := h.grp
  exact ⟨h.kept.trans hw.fabricKept, hw.answers.trans h.answers, fun v hv r hr => hw.outbox (h.released v hv r hr),
    g', hu, hwins, hsnap, hits.trans hw.hits⟩

/-- The group put back, its answers dropped and its holds given back. -/
theorem rolledBack_undone {s s0 : State} {g g' : Grp} {k : Nat} {w : Window} (h0 : s0 = { s with wgs := s0.wgs }) (hu : g'.uid = g.uid)
    (hwins : g'.wins = g.wins.take k) (hsnap : { g'.g with b := w.snap.b } = w.snap) :
    RolledBack s (releaseHolds (dropAns (setGrp s0 g') g.uid) (g.wins.drop k)) g k w := by
  have hset : FabricKept s (setGrp s0 g') := by rw [h0]; exact ⟨rfl, rfl, fun _ h => h, fun _ h => h⟩
  have hrel (t : State) : FabricKept t (releaseHolds t (g.wins.drop k)) := ⟨rfl, rfl, fun _ h => h, List.subset_append_left _ _⟩
  refine ⟨hset.trans ((dropAns_kept _ g.uid).trans (hrel _)), ?_, fun v hv h hh => ?_, g', hu, hwins, hsnap, .of_eq ?_⟩
  · rw [h0]
    exact dropAns_answers _ _
  · exact List.mem_append_right _ (List.mem_map_of_mem (List.mem_flatMap.2 ⟨v, hv, hh⟩))
  · change (dropAns (setGrp s0 g') g.uid).grps = _
    rw [dropAns_grps, h0]
    rfl

theorem rollGrp_rolledBack {s : State} {uid k : Nat} {g : Grp} {w : Window} (hg : grpOf s uid = some g) (hw : g.wins[k]? = some w) :
    RolledBack s (rollGrp s uid k) g k w := by
  have hu := grpOf_uid hg
  subst hu
  simp only [rollGrp, hg, hw]
  generalize hs0 : List.foldl _ s _ = s0
  have h0 : s0 = { s with wgs := s0.wgs } := hs0 ▸
    List.foldlRecOn (motive := fun t : State => t = { s with wgs := t.wgs }) _ _ rfl fun t ht v _ => by rw [ht]; rfl
  have h1 (g' : Grp) (hu : g'.uid = g.uid) (hwins : g'.wins = g.wins.take k) (hsnap : { g'.g with b := w.snap.b } = w.snap) :=
    (rolledBack_undone h0 hu hwins hsnap).written (rollBad_written _ g (g.wins.drop k))
  exact iteInduction (motive := fun t => RolledBack s t g k w) (fun _ => (h1 _ (by rfl) (by rfl) (by rfl)).written (escalate_written ..))
    fun _ => h1 _ (by rfl) (by rfl) (by rfl)

/-- The group of a rollback, found again. -/
theorem RolledBack.grpOf {s t : State} {g : Grp} {k : Nat} {w : Window} (h : RolledBack s t g k w) (hg : Machine.grpOf s g.uid = some g) :
    ∃ g' : Grp, Machine.grpOf t g.uid = some g' ∧ g'.wins.map (·.buf) = (g.wins.take k).map (·.buf) ∧ { g'.g with b := w.snap.b } = w.snap := by
  obtain ⟨g', hu, hwins, hsnap, hits⟩ := h.grp
  obtain ⟨ws, hfound, hbuf⟩ := hits.grpOf (u := g'.uid) (grpOf_setGrp (by rwa [hu]))
  rw [hu] at hfound
  exact ⟨_, hfound, by rw [← hwins]; exact hbuf, hsnap⟩

theorem grpOf_modGrp {s : State} {u : Nat} {g : Grp} (hg : grpOf s u = some g) {f : Grp → Grp} (hf : ∀ g, (f g).uid = g.uid) :
    grpOf (modGrp s u f) u = some (f g) := by
  unfold grpOf modGrp at *
  rw [find_updWhere _ _ _ _ fun a _ => by rw [hf], hg, Option.map_some, if_pos (by simpa using List.find?_some hg)]

/-- A rollback of a group's windows from position k on, or nothing where there is none. -/
theorem rollHit_cases (s : State) (uid : Nat) : rollHit s uid = s ∨
    ∃ g k w, grpOf s uid = some g ∧ g.wins[k]? = some w ∧ w.hit = true ∧ RolledBack s (rollHit s uid) g k w := by
  unfold rollHit
  split
  · exact .inl rfl
  · next g hg =>
    split
    · next k hk =>
      have hhit := List.find?_some hk
      split at hhit
      · next w hw => exact .inr ⟨g, k, w, hg, hw, hhit, rollGrp_rolledBack hg hw⟩
      · exact absurd hhit Bool.noConfusion
    · exact .inl rfl

theorem rollHit_kept (s : State) (uid : Nat) : FabricKept s (rollHit s uid) := by
  obtain h | ⟨g, k, w, -, -, -, h⟩ := rollHit_cases s uid
  · rw [h]
    exact .refl s
  · exact h.kept

theorem rollAll_kept (s : State) : FabricKept s (rollAll s) := FabricKept.foldl (fun t (g : Grp) => rollHit_kept t g.uid) s.grps s

/-- Nothing is rolled back where no window is hit. -/
theorem rollAll_eq_self {s : State} (h : ∀ g ∈ s.grps, ∀ w ∈ g.wins, w.hit = false) : rollAll s = s := by
  refine List.foldlRecOn (motive := fun t => t = s) _ _ rfl fun t ht g _ => ?_
  rw [ht]
  obtain h' | ⟨g', k, w, hg, hw, hhit, -⟩ := rollHit_cases s g.uid
  · exact h'
  · have := h g' (List.mem_of_find?_eq_some hg) w (List.mem_of_getElem? hw)
    rw [this] at hhit
    exact absurd hhit Bool.noConfusion

/-! A requester without windows. -/

/-- No group of this name has a window. -/
def Windowless (s : State) (u : Nat) : Prop := ∀ g ∈ s.grps, g.uid = u → g.wins = []

theorem Hits.windowless {s t : State} (h : Hits s t) {u : Nat} (hw : Windowless s u) : Windowless t u := by
  obtain ⟨p, hp⟩ := h
  intro g hg hu
  rw [hp, List.mem_map] at hg
  obtain ⟨g0, hg0, rfl⟩ := hg
  simp [hw g0 hg0 hu]

/-- A rollback of hit windows leaves the answers of a requester that has no window (R253). -/
theorem rollHit_windowless {s : State} {u : Nat} (hw : Windowless s u) (v : Nat) : Windowless (rollHit s v) u ∧
    ∀ a ∈ s.fab.answers, a.group = u → a ∈ (rollHit s v).fab.answers := by
  obtain h | ⟨g, k, w, hg, hk, -, h⟩ := rollHit_cases s v
  · rw [h]
    exact ⟨hw, fun a ha _ => ha⟩
  · have hne : g.uid ≠ u := fun he => by
      rw [hw g (List.mem_of_find?_eq_some hg) he] at hk
      exact absurd hk (by simp)
    obtain ⟨g', hu', -, -, hits⟩ := h.grp
    refine ⟨hits.windowless fun x hx hxu => ?_, fun a ha hau => ?_⟩
    · rw [setGrp_grps, updWhere, List.mem_map] at hx
      obtain ⟨y, hy, rfl⟩ := hx
      split at hxu
      · exact absurd (hu'.symm.trans hxu) hne
      · next hyu => rw [if_neg hyu]; exact hw y hy hxu
    · rw [h.answers, List.mem_filter]
      exact ⟨ha, by simpa [hau] using hne.symm⟩

theorem rollAll_answers {s : State} {u : Nat} (hw : Windowless s u) {a : Ans} (ha : a ∈ s.fab.answers) (hau : a.group = u) :
    a ∈ (rollAll s).fab.answers :=
  (List.foldlRecOn (motive := fun t => Windowless t u ∧ a ∈ t.fab.answers) _ _ ⟨hw, ha⟩ fun _ ht g _ =>
    ⟨(rollHit_windowless ht.1 g.uid).1, (rollHit_windowless ht.1 g.uid).2 a ht.2 hau⟩).2

end Sys2Proof.Machine
end

section
/-! The state words of the links, windows that break, and lost planes (R269, R370, R445). -/

namespace Sys2Proof.Machine

open Sys2Proof.Claims

/-! LINKSTAT (R445). -/

theorem link_modLink (s : State) (p k : Nat) (f : Word → Word) : link (modLink s p f) k = if k = p then f (link s p) else link s k := aget_aset

theorem linkIs_modLink (s : State) (p : Nat) (f : Word → Word) : LinkIs s (modLink s p f) p (f (link s p)) :=
  ⟨rfl, fun k => link_modLink s p k f⟩

theorem satField_dropped (w : Word) : satField 16 16 w = dropped w := by
  have hf : nbits w.toNat 16 16 = w.toNat / 2 ^ 16 := by
    rw [nbits_eq, Nat.mod_eq_of_lt]
    omega
  simp [satField, dropped, hf, BitVec.ofNat_add]

theorem satField_tagFailed (w : Word) : satField 4 12 w = tagFailed w := by
  simp [satField, tagFailed, nbits_eq, BitVec.ofNat_add]

theorem linkIs_countDrop (s : State) (p : Nat) : LinkIs s (countDrop s p) p (dropped (link s p)) :=
  satField_dropped _ ▸ linkIs_modLink s p (satField 16 16)

theorem linkIs_countTag (s : State) (p : Nat) : LinkIs s (modLink s p (satField 4 12)) p (tagFailed (link s p)) :=
  satField_tagFailed _ ▸ linkIs_modLink s p (satField 4 12)

theorem link_countTag (s : State) (p k : Nat) : link (countTag s p) k = if k = p then tagFailed (link s p) else link s k :=
  (linkIs_countTag s p).2 k

theorem FabricKept.link {s t : State} (h : FabricKept s t) (k : Nat) : link t k = link s k := by rw [Claims.link, h.linkstat]; rfl

/-! Windows that break (R269). -/

/-- Windows are broken, the events that their round words are owed are noted, and nothing else changes; a window keeps what it describes. -/
structure Broke (s t : State) : Prop where
  frame : { t with fab := { t.fab with wins := s.fab.wins, owed := s.fab.owed } } = s
  d : ∀ id, (winOf t id).d = (winOf s id).d
  broken : ∀ id, (winOf s id).broken = true → (winOf t id).broken = true

namespace Broke

variable {s t u : State}

theorem refl (s : State) : Broke s s := ⟨rfl, fun _ => rfl, fun _ h => h⟩

theorem trans (h : Broke s t) (k : Broke t u) : Broke s u :=
  ⟨(congrArg (fun x : State => { x with fab := { x.fab with wins := s.fab.wins, owed := s.fab.owed } }) k.frame).trans h.frame,
    fun id => (k.d id).trans (h.d id), fun id hb => k.broken id (h.broken id hb)⟩

/-- A part of the state that is neither the window table nor the owed events stays. -/
theorem keeps {α : Type} (h : Broke s t) (f : State → α)
    (hf : ∀ x : State, f { x with fab := { x.fab with wins := s.fab.wins, owed := s.fab.owed } } = f x) : f t = f s := by
  rw [← hf t, h.frame]

end Broke

theorem winOf_setWin (s : State) (id k : Nat) (w : Win) : winOf (setWin s id w) k = if k = id then w else winOf s k := aget_aset

/-- A window of the table is broken, whatever its home is told. -/
theorem breakWin_broke (s : State) (id : Nat) (event : Bool) : Broke s (breakWin s id event) := by
  unfold breakWin
  dsimp only
  split
  · exact .refl s
  · have hset (held merged sparse) : Broke s (setWin s id { winOf s id with broken := true, held := held, merged := merged, sparse := sparse }) := by
      refine ⟨rfl, fun k => ?_, fun k hb => ?_⟩ <;> rw [winOf_setWin] <;> split
      · next hk => rw [hk]
      · rfl
      · rfl
      · exact hb
    exact iteInduction (motive := Broke s) (fun _ => (hset ..).trans ⟨rfl, fun _ => rfl, fun _ h => h⟩) fun _ => hset ..

theorem breakWin_broken {s : State} {id : Nat} (h : (winOf s id).d.kind ≠ 0) (event : Bool) : (winOf (breakWin s id event) id).broken = true := by
  unfold breakWin
  dsimp only
  split
  · next hc => simpa [h] using hc
  · exact iteInduction (motive := fun t => (winOf t id).broken = true)
      (fun _ => by rw [oweRound]; exact congrArg (·.broken) ((winOf_setWin _ _ _ _).trans (if_pos rfl)))
      fun _ => congrArg (·.broken) ((winOf_setWin _ _ _ _).trans (if_pos rfl))

theorem breakWins_broke (event : State → Nat → Bool) (ids : List Nat) (s : State) :
    Broke s (ids.foldl (fun t id => breakWin t id (event t id)) s) :=
  List.foldlRecOn (motive := Broke s) ids _ (.refl s) fun t ht id _ => ht.trans (breakWin_broke t id _)

/-- Each window of the list that is one is broken. -/
theorem breakWins_broken (event : State → Nat → Bool) {id : Nat} {ids : List Nat} {s : State} (hid : id ∈ ids) (hk : (winOf s id).d.kind ≠ 0) :
    (winOf (ids.foldl (fun t id => breakWin t id (event t id)) s) id).broken = true := by
  induction ids generalizing s with
  | nil => exact absurd hid List.not_mem_nil
  | cons k ids ih =>
    rw [List.foldl_cons]
    rcases List.mem_cons.1 hid with rfl | hid
    · exact (breakWins_broke event ids _).broken _ (breakWin_broken hk _)
    · exact ih hid (by rwa [(breakWin_broke s k _).d])

/-- A window that is one stands in the table. -/
theorem winOf_mem {s : State} {id : Nat} (h : (winOf s id).d.kind ≠ 0) : (id, winOf s id) ∈ s.fab.wins := by
  have hmem : ∀ l : AList Win, (aget winNone l id).d.kind ≠ 0 → (id, aget winNone l id) ∈ l := by
    intro l
    induction l with
    | nil => exact fun h => absurd rfl h
    | cons e l ih =>
      obtain ⟨k, w⟩ := e
      intro h
      simp only [aget] at h ⊢
      split
      · next hk => rw [hk]; exact List.mem_cons_self
      · next hk => exact List.mem_cons_of_mem _ (ih (by rwa [if_neg hk] at h))
  exact hmem _ h

/-! Planes (R370). -/

/-- What the loss of a plane leaves: its mark, where the port has a plane, and broken windows. -/
structure PlaneLost (s t : State) (p : Nat) : Prop where
  linkstat : t.fab.linkstat = s.fab.linkstat
  down : p < 32 → aget false t.fab.planeDown p = true
  same : 32 ≤ p → t = s
  frame : (∀ e ∈ s.fab.wins, e.2.d.kind ≠ 1) → { t with fab := { t.fab with planeDown := s.fab.planeDown } } = s

theorem losePlane_lost (s : State) (p : Nat) : PlaneLost s (losePlane s p) p := by
  unfold losePlane
  split
  · next h =>
    refine ⟨rfl, fun hp => ?_, fun _ => rfl, fun _ => rfl⟩
    simpa [show ¬ 32 ≤ p by omega] using h
  · next h =>
    have hp : p < 32 := by
      by_contra hp
      exact h (by simp [show p ≥ 32 by omega])
    have hb := breakWins_broke (fun _ _ => true) ((s.fab.wins.filter fun e => e.2.d.kind = 1 && planeOwns s e.2.d p).map (·.1))
      { s with fab := { s.fab with planeDown := aset false s.fab.planeDown p true } }
    refine ⟨hb.keeps (·.fab.linkstat) fun _ => rfl, fun _ => ?_, fun h32 => absurd h32 (by omega), fun hw => ?_⟩
    · rw [hb.keeps (·.fab.planeDown) fun _ => rfl]
      exact aget_aset_self
    · have hnone : s.fab.wins.filter (fun e => e.2.d.kind = 1 && planeOwns s e.2.d p) = [] :=
        List.filter_eq_nil_iff.2 fun e he => by simp [hw e he]
      rw [hnone]
      rfl

end Sys2Proof.Machine
end

section
/-! Answers to this node's requests, and lost peers (R217, R243, R273, R446, R447). -/

namespace Sys2Proof.Machine

open Sys2Proof.Claims

/-! Answers (R217). -/

theorem mem_endThreads (s : State) (m : McThread) : m ∈ (endThreads s).fab.mcThreads ↔
    m ∈ s.fab.mcThreads ∧ ¬ (m.read = true ∧ m.own = none ∧ ∀ x ∈ s.fab.reqs, x.group ≠ m.uid) := by
  have hc : (m.read && m.own.isNone && !(s.fab.reqs.any fun r => decide (r.group = m.uid))) = true ↔
      m.read = true ∧ m.own = none ∧ ∀ x ∈ s.fab.reqs, x.group ≠ m.uid := by
    simp [and_assoc]
  rw [endThreads, List.mem_filter, Bool.not_eq_true', ← Bool.not_eq_true, hc]

/-- The end of the last posted write of a drained window to a sub-page gives the window's hold there back (R243). -/
theorem answerReq_posted {s : State} {r : Req} (hp : r.group ≠ prefName) (hr : r.posted = true) (a : ApAns) {rs : List Req}
    (hrs : rs = s.fab.reqs.filter fun x => x.tag != r.tag) :
    answerReq s r a = endThreads { s with
      fab := { s.fab with reqs := rs }
      outbox := s.outbox ++ if r.group = drainName ∧ ∀ x ∈ rs, ¬ (x.group = drainName ∧ x.node = r.node ∧ x.off / 4096 = r.off / 4096)
        then [Out.release r.node (r.off / 4096)] else [] } := by
  have hlast : (decide (r.group = drainName) && !(rs.any fun x =>
      decide (x.group = drainName) && decide (x.node = r.node) && decide (x.off / 4096 = r.off / 4096))) = true ↔
      r.group = drainName ∧ ∀ x ∈ rs, ¬ (x.group = drainName ∧ x.node = r.node ∧ x.off / 4096 = r.off / 4096) := by
    simp only [Bool.and_eq_true, Bool.not_eq_true', List.any_eq_false, decide_eq_true_eq, and_assoc]
  unfold answerReq
  dsimp only
  rw [if_neg hp, if_pos hr, ← hrs]
  simp only [hlast]
  split <;> simp

theorem answerReq_answered (s : State) (r : Req) (a : ApAns) : Answered s (answerReq s r a) r a := by
  have hreqs : s.fab.reqs.filter (fun x => x.tag != r.tag) = s.fab.reqs.filter fun x => x.tag ≠ r.tag :=
    List.filter_congr fun x _ => by rw [bne, beq_eq_decide, decide_not]
  by_cases hp : r.group = prefName
  · unfold answerReq
    rw [if_pos hp]
    exact ⟨hreqs, rfl, fun _ => rfl, fun _ => ⟨rfl, rfl⟩, fun h => absurd hp h, fun h => absurd hp h⟩
  · cases hr : r.posted with
    | false =>
      unfold answerReq
      rw [if_neg hp, hr]
      exact ⟨hreqs, rfl, fun h => h.elim (absurd · hp) fun h => absurd h (by simp [hr]), fun _ => ⟨rfl, rfl⟩, fun _ _ => rfl,
        fun _ h => absurd h (by simp [hr])⟩
    | true =>
      rw [answerReq_posted hp hr a rfl]
      exact ⟨hreqs, rfl, fun _ => rfl, fun h => h.elim (absurd · hp) fun h => absurd h (by simp [hr]), fun _ h => absurd h (by simp [hr]),
        fun _ _ => ⟨mem_endThreads _, rfl⟩⟩

/-- The answers that wait stay, and the new one waits where its requester takes it. -/
theorem answered_answers {s t : State} {r : Req} {a : ApAns} (h : Answered s t r a) : s.fab.answers ⊆ t.fab.answers ∧
    (r.posted = false → r.group ≠ prefName → { node := r.node, group := r.group, off := r.off, kind := r.kind, auth := r.auth, ans := a } ∈ t.fab.answers) := by
  obtain ⟨-, -, hkeep, -, hadd, -⟩ := h
  by_cases hc : r.group = prefName ∨ r.posted = true
  · rw [hkeep hc]
    exact ⟨fun _ h => h, fun hp hg => absurd hc (by simp [hp, hg])⟩
  · obtain ⟨hg, hp⟩ := not_or.1 hc
    rw [hadd hg (by simpa using hp)]
    exact ⟨List.subset_append_left _ _, fun _ _ => by simp⟩

/-! The requests to a peer that is lost (R447). -/

/-- What is left once requests have been answered with PEERLOST detail 2. -/
structure AllAnswered (s t : State) (rs : List Req) : Prop where
  frame : { t with outbox := s.outbox, fab := { t.fab with reqs := s.fab.reqs, answers := s.fab.answers, mcThreads := s.fab.mcThreads } } = s
  reqs : ∀ x ∈ t.fab.reqs, x ∈ s.fab.reqs ∧ ∀ r ∈ rs, x.tag ≠ r.tag
  kept : s.fab.answers ⊆ t.fab.answers
  answers : ∀ r ∈ rs, r.posted = false → r.group ≠ prefName →
    { node := r.node, group := r.group, off := r.off, kind := r.kind, auth := r.auth, ans := .fault kPeerlost 2 0 } ∈ t.fab.answers

theorem allAnswered (rs : List Req) : ∀ s : State, AllAnswered s (rs.foldl (fun t r => answerReq t r (.fault kPeerlost 2 0)) s) rs := by
  induction rs with
  | nil => exact fun s => ⟨rfl, fun x hx => ⟨hx, by simp⟩, fun _ h => h, by simp⟩
  | cons r rs ih =>
    intro s
    rw [List.foldl_cons]
    have hr := answerReq_answered s r (.fault kPeerlost 2 0)
    obtain ⟨hframe, hreqs, hkept, hans⟩ := ih (answerReq s r (.fault kPeerlost 2 0))
    obtain ⟨hkept', hnew⟩ := answered_answers hr
    obtain ⟨hreqs', hframe', -⟩ := hr
    refine ⟨?_, fun x hx => ?_, fun a ha => hkept (hkept' ha), fun y hy hp hg => ?_⟩
    · exact (congrArg (fun x : State => { x with outbox := s.outbox, fab := { x.fab with reqs := s.fab.reqs, answers := s.fab.answers, mcThreads := s.fab.mcThreads } })
        hframe).trans hframe'
    · obtain ⟨hx, hrs⟩ := hreqs x hx
      rw [hreqs', List.mem_filter] at hx
      exact ⟨hx.1, List.forall_mem_cons.2 ⟨by simpa using hx.2, hrs⟩⟩
    · rcases List.mem_cons.1 hy with rfl | hy
      · exact hkept (hnew hp hg)
      · exact hans y hy hp hg

/-! A lost peer (R447). -/

/-- The requests of this node to another. -/
def reqsTo (s : State) (node : Nat) : List Req := s.fab.reqs.filter fun r => r.node = node

/-- Whether a window has read a node's memory or asked it to validate a sub-page. -/
def readsFrom (node : Nat) (w : Window) : Bool := w.remote.any (fun r => r.node = node) || w.asked.any fun a => a.1 = node

/-- The state s1, in which the requests to a node are answered, with the rest of what the loss of the node takes away but for its windows (R447). -/
def forgetPeer (s s1 : State) (node : Nat) : State :=
  { s1 with
    grps := s1.grps.map fun g => { g with wins := g.wins.map fun w => if readsFrom node w then { w with hit := true } else w },
    owners := (s1.owners.map fun e => (e.1, disown node e.2)).filter fun e => e.2 != ownNone,
    fab := { s1.fab with
      guest := s1.fab.guest.filter (fun x => x.node != node), holds := s1.fab.holds.filter (fun h => h.node != node),
      bumps := (s1.fab.bumps.map fun b => (b.1, b.2.erase node)).filter (fun b => !b.2.isEmpty),
      sent := s1.fab.sent.filter (fun x => x.home != node), tagRecs := s1.fab.tagRecs.filter (fun x => x.node != node),
      peers := aset { incarn := 0, lost := none } s1.fab.peers node { peerOf s node with lost := some (peerOf s node).incarn } } }

/-- The windows that a peer is a member or the home of. -/
def winsWith (s : State) (node : Nat) : List Nat :=
  (s.fab.wins.filter fun e => e.2.d.kind != 2 && (e.2.d.members.contains node || homeOf e.2.d = node)).map (·.1)

/-- Whether the home of a window is another node than this peer, and so is told that the window is broken. -/
def homeStays (node : Nat) (t : State) (id : Nat) : Bool := homeOf (winOf t id).d != node

theorem losePeer_eq (s : State) (node : Nat) :
    let s1 := (reqsTo s node).foldl (fun t r => answerReq t r (.fault kPeerlost 2 0)) s
    losePeer s node = rollAll ((winsWith (forgetPeer s s1 node) node).foldl (fun t id => breakWin t id (homeStays node t id)) (forgetPeer s s1 node)) := rfl

theorem forgetPeer_windowless {s s1 : State} (hg : s1.grps = s.grps) (node : Nat) {u : Nat}
    (hw : ∀ g ∈ s.grps, g.uid = u → g.wins = []) : Windowless (forgetPeer s s1 node) u := by
  intro g hmem hu
  simp only [forgetPeer, List.mem_map, hg] at hmem
  obtain ⟨g0, hg0, rfl⟩ := hmem
  simp [hw g0 hg0 hu]

theorem mem_winsWith {s : State} {node id : Nat} (h2 : (winOf s id).d.kind ≠ 2) (h0 : (winOf s id).d.kind ≠ 0)
    (h : node ∈ (winOf s id).d.members ∨ homeOf (winOf s id).d = node) : id ∈ winsWith s node :=
  List.mem_map.2 ⟨(id, winOf s id), List.mem_filter.2 ⟨winOf_mem h0, by simpa [h2] using h⟩, rfl⟩

theorem losePeer_gone (s : State) (node : Nat) : PeerGone s (losePeer s node) node := by
  rw [losePeer_eq]
  have hall := allAnswered (reqsTo s node) s
  generalize (reqsTo s node).foldl (fun t r => answerReq t r (.fault kPeerlost 2 0)) s = s1 at hall ⊢
  have hs1 {α : Type} (f : State → α) (hf : ∀ x : State, f { x with outbox := s.outbox, fab := { x.fab with reqs := s.fab.reqs, answers := s.fab.answers, mcThreads := s.fab.mcThreads } } = f x) :
      f s1 = f s := by rw [← hf s1, hall.frame]
  have hb := breakWins_broke (homeStays node) (winsWith (forgetPeer s s1 node) node) (forgetPeer s s1 node)
  generalize hs3 : (winsWith (forgetPeer s s1 node) node).foldl (fun t id => breakWin t id (homeStays node t id)) (forgetPeer s s1 node) = s3 at hb ⊢
  have hk := rollAll_kept s3
  have hpeers : (rollAll s3).fab.peers = (forgetPeer s s1 node).fab.peers := hk.peers.trans (hb.keeps (·.fab.peers) fun _ => rfl)
  have hwins (id : Nat) : winOf (rollAll s3) id = winOf s3 id := by rw [winOf, hk.wins]; rfl
  have hwin0 (id : Nat) : winOf (forgetPeer s s1 node) id = winOf s id := congrArg (aget winNone · id) (hs1 (·.fab.wins) fun _ => rfl)
  refine ⟨?_, fun r hr hn => ?_, fun x hx => ?_, fun h hh => ?_, fun x hx => ?_, fun k hne => ?_, fun r hr hn hp hg hw => ?_, fun id h2 h0 hm => ?_⟩
  · rw [peerOf, hpeers]
    exact congrArg Peer.lost aget_aset_self
  · rw [hk.reqs, hb.keeps (·.fab.reqs) fun _ => rfl] at hr
    obtain ⟨hmem, htag⟩ := hall.reqs r hr
    exact htag r (List.mem_filter.2 ⟨hmem, by simpa using hn⟩) rfl
  · rw [hk.guest, hb.keeps (·.fab.guest) fun _ => rfl] at hx
    simpa using (List.mem_filter.1 hx).2
  · have hmem := hk.holds hh
    rw [hb.keeps (·.fab.holds) fun _ => rfl] at hmem
    simpa using (List.mem_filter.1 hmem).2
  · rw [hk.sent, hb.keeps (·.fab.sent) fun _ => rfl] at hx
    simpa using (List.mem_filter.1 hx).2
  · rw [peerOf, hpeers, forgetPeer, aget_aset_ne hne, hs1 (·.fab.peers) fun _ => rfl]
    rfl
  · have hwl : Windowless s3 r.group := fun g hgm hu => by
      rw [hb.keeps (·.grps) fun _ => rfl] at hgm
      exact forgetPeer_windowless (hs1 (·.grps) fun _ => rfl) node hw g hgm hu
    have hans : s3.fab.answers = s1.fab.answers := hb.keeps (·.fab.answers) fun _ => rfl
    have ha := hall.answers r (List.mem_filter.2 ⟨hr, by simpa using hn⟩) hp hg
    rw [← hans] at ha
    exact ⟨_, rollAll_answers hwl ha rfl, rfl, rfl, rfl, rfl⟩
  · rw [hwins, ← hs3]
    rw [← hwin0] at h2 h0 hm
    exact breakWins_broken (homeStays node) (mem_winsWith h2 h0 hm) h0

/-! Incarnations (R446). -/

/-- The incarnations that are accepted without more ado, as the check decides them. -/
theorem incOk_iff {s : State} {node : Nat} {inc : Word} :
    (decide ((peerOf s node).incarn = 0) || decide ((peerOf s node).incarn = inc)) = true ↔ IncOk s node inc := by
  rw [Bool.or_eq_true, decide_eq_true_eq, decide_eq_true_eq]
  rfl

theorem incarnCheck_ok {s : State} {node : Nat} {inc : Word} (h : IncOk s node inc) (port : Option Nat) : incarnCheck s port node inc = (s, true) :=
  if_pos (incOk_iff.2 h)

theorem incarnCheck_stale {s : State} {node : Nat} {inc : Word} (h : IncStale s node inc) (p : Nat) :
    incarnCheck s (some p) node inc = (countDrop s p, false) := by
  obtain ⟨h0, hne, hlt⟩ := h
  exact (if_neg fun hc => (incOk_iff.1 hc).elim h0 hne).trans (if_pos hlt)

/-- A new incarnation loses the peer and is recorded. -/
theorem incarnCheck_new {s : State} {node : Nat} {inc : Word} (hok : ¬ IncOk s node inc) (hst : ¬ IncStale s node inc) (port : Option Nat) :
    incarnCheck s port node inc = ({ losePeer s node with fab := { (losePeer s node).fab with
      peers := aset { incarn := 0, lost := none } (losePeer s node).fab.peers node { peerOf (losePeer s node) node with incarn := inc } } }, true) := by
  have hge : ¬ ((peerOf s node).incarn - inc).toNat < 2 ^ 31 := fun hlt => hst ⟨fun h0 => hok (.inl h0), fun he => hok (.inr he), hlt⟩
  exact (if_neg (hok ∘ incOk_iff.1)).trans (if_neg hge)

end Sys2Proof.Machine
end

section
/-! Links, key exchanges and flits (R370, R442, R443, R445, R446, R448). -/

namespace Sys2Proof.Claims

open Sys2Proof.Machine

/-! A link that goes down (R370, R445). -/

theorem setBitW_clear_two (w : Word) : setBitW 1 false (setBitW 0 false w) = w &&& 0xFFFFFFFC := by
  simp only [setBitW, Bool.false_eq_true, if_false, BitVec.and_assoc]
  rfl

theorem exec_linkDown {p : Nat} (hp : p ≤ 35) (s : State) :
    exec (.linkDown p) s = .next (losePlane (linkBit (linkBit s p 0 false) p 1 false) p) :=
  congrArg Host.Outcome.next (if_neg (by simp only [cxlPort]; omega))

theorem exec_linkDown_none {p : Nat} (hp : 35 < p) (s : State) : exec (.linkDown p) s = .next s :=
  congrArg Host.Outcome.next (if_pos hp)

theorem linkDown_link (s : State) (p k : Nat) :
    link (losePlane (linkBit (linkBit s p 0 false) p 1 false) p) k = if k = p then link s p &&& 0xFFFFFFFC else link s k := by
  rw [link, (losePlane_lost _ p).linkstat]
  change link (linkBit (linkBit s p 0 false) p 1 false) k = _
  rw [linkBit, linkBit, link_modLink, link_modLink, link_modLink, if_pos rfl, setBitW_clear_two]
  split <;> rfl

/-- What a link that goes down leaves: its state word, its plane, and otherwise broken sum windows alone. -/
theorem linkDown_leaves (s : State) (p : Nat) {t : State} (ht : t = losePlane (linkBit (linkBit s p 0 false) p 1 false) p) :
    (∀ k, link t k = if k = p then link s p &&& 0xFFFFFFFC else link s k) ∧
    (p < 32 → aget false t.fab.planeDown p = true) ∧ (32 ≤ p → t.fab.planeDown = s.fab.planeDown) ∧
    (32 ≤ p ∨ (∀ e ∈ s.fab.wins, e.2.d.kind ≠ 1) → { t with fab := { t.fab with linkstat := s.fab.linkstat, planeDown := s.fab.planeDown } } = s) := by
  have hd := losePlane_lost (linkBit (linkBit s p 0 false) p 1 false) p
  rw [← ht] at hd
  refine ⟨ht ▸ linkDown_link s p, hd.down, fun h => by rw [hd.same h]; rfl, ?_⟩
  rintro (h | h)
  · rw [hd.same h]
    rfl
  · exact congrArg (fun x : State => { x with fab := { x.fab with linkstat := s.fab.linkstat } }) (hd.frame h)

/-! Key exchanges (R442). -/

/-- A port that has trained, from which an exchange is asked. -/
def trained (s : State) (x : KeyExchange) : State := { linkBit s x.port 0 true with outbox := s.outbox ++ [.keyExchange x.port] }

theorem link_trained (s : State) (x : KeyExchange) (k : Nat) : link (trained s x) k = if k = x.port then link s x.port ||| 1 else link s k :=
  link_modLink ..

theorem keyExchange_notAgtilux {x : KeyExchange} (hx : x.agtilux = false) (s : State) : keyExchange s x = linkBit s x.port 1 false := by
  unfold keyExchange
  rw [hx]
  rfl

theorem link_planeBack (s : State) (p k : Nat) : link (planeBack s p) k = link s k := rfl

/-- What an accepted exchange leaves: the port is sealed, the peer's incarnation is recorded, and nothing else changes. -/
structure KeyExchanged (s t : State) (x : KeyExchange) : Prop where
  link : ∀ k, link t k = if k = x.port then link s x.port ||| 2 else link s k
  peer : (peerOf t x.peer).incarn = x.incarn
  frame : { t with fab := { t.fab with linkstat := s.fab.linkstat, peers := s.fab.peers } } = s

theorem keyExchange_accepted {s : State} {x : KeyExchange} (hx : x.agtilux = true) (hi : IncOk s x.peer x.incarn) :
    KeyExchanged s (keyExchange s x) x := by
  unfold keyExchange
  rw [hx, incarnCheck_ok hi]
  dsimp only [Bool.not_true, Bool.false_eq_true, if_false]
  refine ⟨fun k => (link_modLink _ _ _ _).trans rfl, congrArg Peer.incarn aget_aset_self, rfl⟩

theorem exec_portTraining_locked {s : State} {x : KeyExchange} (hp : x.port < 32) (hu : x.up = true) (hl : (link s x.port).getLsbD 2 = true) :
    exec (.portTraining x) s = .next (trained s x) := by
  have hc : (decide (x.port ≥ 32) || !x.up) = false := by simp [hu, hp]
  change execPortTraining x s = _
  unfold execPortTraining
  rw [hc, show linkLocked s x.port = true from hl]
  rfl

theorem exec_portTraining {s : State} {x : KeyExchange} (hp : x.port < 32) (hu : x.up = true) (hl : (link s x.port).getLsbD 2 = false) :
    exec (.portTraining x) s = .next (planeBack (keyExchange (trained s x) x) x.port) := by
  have hc : (decide (x.port ≥ 32) || !x.up) = false := by simp [hu, hp]
  change execPortTraining x s = _
  unfold execPortTraining
  rw [hc, show linkLocked s x.port = false from hl]
  rfl

theorem exec_sealRekey {s : State} {x : KeyExchange} (hp : x.port < 32) (hs : (link s x.port).getLsbD 1 = true) (hl : (link s x.port).getLsbD 2 = false) :
    exec (.sealRekey x) s = .next (keyExchange { s with outbox := s.outbox ++ [.keyExchange x.port] } x) := by
  have hc : ¬ (decide (x.port ≥ 32) || !linkSealed s x.port || linkLocked s x.port) = true := by
    simp [show linkSealed s x.port = true from hs, show linkLocked s x.port = false from hl, hp]
  exact congrArg Host.Outcome.next (if_neg hc)

theorem exec_sealRekey_none {s : State} {x : KeyExchange} (h : (link s x.port).getLsbD 1 = false ∨ (link s x.port).getLsbD 2 = true) :
    exec (.sealRekey x) s = .next s := by
  have hc : (decide (x.port ≥ 32) || !linkSealed s x.port || linkLocked s x.port) = true := by
    rcases h with h | h
    · simp [show linkSealed s x.port = false from h]
    · simp [show linkLocked s x.port = true from h]
  exact congrArg Host.Outcome.next (if_pos hc)

/-- A peer that is no Agtilux part leaves the port up and unsealed. -/
theorem trained_unsealed {x : KeyExchange} (hx : x.agtilux = false) (s : State) {t : State} (ht : t = planeBack (keyExchange (trained s x) x) x.port) :
    link t x.port = (link s x.port ||| 1) &&& 0xFFFFFFFD ∧ aget false t.fab.planeDown x.port = false ∧ t.fab.peers = s.fab.peers := by
  rw [ht, keyExchange_notAgtilux hx]
  refine ⟨?_, aget_aset_self, rfl⟩
  rw [link_planeBack, linkBit, link_modLink, if_pos rfl]
  exact congrArg (· &&& 0xFFFFFFFD) ((link_trained s x x.port).trans (if_pos rfl))

/-- A peer that is accepted leaves the port up and sealed. -/
theorem trained_sealed {s : State} {x : KeyExchange} (hx : x.agtilux = true) (hi : IncOk s x.peer x.incarn) {t : State}
    (ht : t = planeBack (keyExchange (trained s x) x) x.port) :
    link t x.port = link s x.port ||| 3 ∧ aget false t.fab.planeDown x.port = false ∧ (peerOf t x.peer).incarn = x.incarn ∧
      { t with fab := { t.fab with linkstat := s.fab.linkstat, planeDown := s.fab.planeDown, peers := s.fab.peers } } =
        { s with outbox := s.outbox ++ [.keyExchange x.port] } := by
  obtain ⟨hlink, hpeer, hframe⟩ := keyExchange_accepted (s := trained s x) hx hi
  generalize keyExchange (trained s x) x = k at hlink hpeer hframe ht
  rw [ht]
  refine ⟨?_, aget_aset_self, hpeer, ?_⟩
  · rw [link_planeBack, hlink, if_pos rfl, link_trained, if_pos rfl, BitVec.or_assoc]
    rfl
  · exact congrArg (fun y : State => { y with fab := { y.fab with linkstat := s.fab.linkstat, planeDown := s.fab.planeDown } }) hframe

/-! Flits (R441, R443, R446, R448). -/

/-- A flit of a port that is not locked: the check of its tag, of its reserved and domain fields, and of its sender (R441). -/
theorem exec_flit {s : State} {f : Flit} (hp : f.port < 32) (hl : (link s f.port).getLsbD 2 = false) : exec (.ualinkFlitReceive f) s = .next (
    if (link s f.port).getLsbD 1 && !f.mgmt && !f.tagOk then
      if f.replay then lockPort (countTag s f.port) f.port f.node else countTag s f.port
    else if f.reservedSet || (!((link s f.port).getLsbD 1 && !f.mgmt) && f.dom != 0) then countDrop s f.port
    else if f.stomp then { countDrop s f.port with outbox := (countDrop s f.port).outbox ++ [.stomp f.txn] }
    else (incarnCheck s (some f.port) f.node f.incarn).1) := by
  have hc : ¬ (decide (f.port ≥ 32) || linkLocked s f.port) = true := by simp [show linkLocked s f.port = false from hl, hp]
  exact congrArg Host.Outcome.next (if_neg hc)

/-- A sealed flit whose tag fails (R443). -/
theorem exec_flit_tagFails {s : State} {f : Flit} (hp : f.port < 32) (hl : (link s f.port).getLsbD 2 = false)
    (hs : (link s f.port).getLsbD 1 = true) (hm : f.mgmt = false) (ht : f.tagOk = false) :
    exec (.ualinkFlitReceive f) s = .next (if f.replay then lockPort (countTag s f.port) f.port f.node else countTag s f.port) := by
  rw [exec_flit hp hl, if_pos (by simp only [hs, hm, ht]; rfl)]

/-- A flit whose tag, if it has one, is good. -/
theorem exec_flit_tagHolds {s : State} {f : Flit} (hp : f.port < 32) (hl : (link s f.port).getLsbD 2 = false)
    (h : (link s f.port).getLsbD 1 = true → f.mgmt = false → f.tagOk = true) : exec (.ualinkFlitReceive f) s = .next (
    if f.reservedSet || (!((link s f.port).getLsbD 1 && !f.mgmt) && f.dom != 0) then countDrop s f.port
    else if f.stomp then { countDrop s f.port with outbox := (countDrop s f.port).outbox ++ [.stomp f.txn] }
    else (incarnCheck s (some f.port) f.node f.incarn).1) := by
  rw [exec_flit hp hl, if_neg]
  simpa using h

theorem exec_flit_dropped {s : State} {f : Flit} (hp : f.port < 32) (hl : (link s f.port).getLsbD 2 = false)
    (h : (link s f.port).getLsbD 1 = false ∨ f.mgmt = true ∨ f.tagOk = true)
    (hbad : f.reservedSet = true ∨ (((link s f.port).getLsbD 1 = false ∨ f.mgmt = true) ∧ f.dom ≠ 0)) :
    exec (.ualinkFlitReceive f) s = .next (countDrop s f.port) := by
  rw [exec_flit_tagHolds hp hl fun hs hm =>
    (h.resolve_left (ne_false_of_eq_true hs)).resolve_left (ne_true_of_eq_false hm), if_pos]
  rw [Bool.or_eq_true, Bool.and_eq_true, Bool.not_eq_true', Bool.and_eq_false_iff, Bool.not_eq_false', bne_iff_ne]
  exact hbad

/-- A flit that passes its checks: a stomped one is dropped with a notice, and another's incarnation is checked (R446, R448). -/
theorem exec_flit_passed {s : State} {f : Flit} (hp : f.port < 32) (hl : (link s f.port).getLsbD 2 = false)
    (h : (link s f.port).getLsbD 1 = true → f.mgmt = false → f.tagOk = true) (hres : f.reservedSet = false)
    (hdom : ((link s f.port).getLsbD 1 = true ∧ f.mgmt = false) ∨ f.dom = 0) : exec (.ualinkFlitReceive f) s = .next (
    if f.stomp then { countDrop s f.port with outbox := (countDrop s f.port).outbox ++ [.stomp f.txn] }
    else (incarnCheck s (some f.port) f.node f.incarn).1) := by
  rw [exec_flit_tagHolds hp hl h, if_neg]
  rw [hres, Bool.false_or, Bool.and_eq_true, Bool.not_eq_true', Bool.and_eq_false_iff, Bool.not_eq_false', bne_iff_ne]
  rintro ⟨hs | hm, hd⟩ <;> rcases hdom with ⟨hs', hm'⟩ | hd'
  · exact absurd (hs.symm.trans hs') Bool.false_ne_true
  · exact hd hd'
  · exact absurd (hm'.symm.trans hm) Bool.false_ne_true
  · exact hd hd'

theorem exec_flit_locked {s : State} {f : Flit} (hl : (link s f.port).getLsbD 2 = true) : exec (.ualinkFlitReceive f) s = .next s := by
  have hc : (decide (f.port ≥ 32) || linkLocked s f.port) = true := by simp [show linkLocked s f.port = true from hl]
  exact congrArg Host.Outcome.next (if_pos hc)

theorem lockPort_locked {s : State} {p : Nat} (hp : p < 32) (peer : Nat) :
    link (lockPort s p peer) p = link s p ||| 4 ∧ aget false (lockPort s p peer).fab.planeDown p = true := by
  have hk := (raiseEvent_written (losePlane (linkBit s p 2 true) p) 11 p 0 (leBytes 4 peer)).fabricKept
  have hd := losePlane_lost (linkBit s p 2 true) p
  refine ⟨(hk.link p).trans ?_, (congrArg (aget false · p) hk.planeDown).trans (hd.down hp)⟩
  rw [link, hd.linkstat]
  exact (link_modLink _ _ _ _).trans (if_pos rfl)

theorem life_countTag (s : State) (p k : Nat) :
    aget 0 (countTag s p).arm.life k = if k = 6 then satInc (aget 0 s.arm.life 6) else aget 0 s.arm.life k := aget_aset

/-- A new incarnation ends what this node had with the peer (R446, R447). -/
theorem incarnCheck_new_gone {s : State} {node : Nat} {inc : Word} (hok : ¬ IncOk s node inc) (hst : ¬ IncStale s node inc) (port : Option Nat) :
    (peerOf (incarnCheck s port node inc).1 node).incarn = inc ∧
      (peerOf (incarnCheck s port node inc).1 node).lost = some (peerOf s node).incarn ∧
      (∀ r ∈ (incarnCheck s port node inc).1.fab.reqs, r.node ≠ node) ∧ ∀ y ∈ (incarnCheck s port node inc).1.fab.guest, y.node ≠ node := by
  obtain ⟨hlost, hreqs, hguest, -⟩ := losePeer_gone s node
  rw [incarnCheck_new hok hst]
  exact ⟨congrArg Peer.incarn aget_aset_self, (congrArg Peer.lost aget_aset_self).trans hlost, hreqs, hguest⟩

/-! The link between the dies (R250, R443). -/

theorem spoilGrp_kept (s : State) (uid start load : Nat) : FabricKept s (spoilGrp s uid start load) := by
  unfold spoilGrp
  split
  · exact .refl s
  · next g hg =>
    split
    · exact .refl s
    · next k hk =>
      have hfound := List.find?_some hk
      split at hfound
      · next w hw => exact (rollGrp_rolledBack hg hw).kept.trans ⟨rfl, rfl, fun _ h => h, fun _ h => h⟩
      · exact absurd hfound Bool.noConfusion

/-- The state once the consumers of unverified data have been dealt with (R250). -/
def spoilAll (s : State) (consumers : List (Nat × Nat × Nat)) : State :=
  consumers.foldl (fun t c => spoilEngine (spoilGrp t c.1 c.2.1 c.2.2) c.1) (countTag s uciePort)

theorem spoilAll_kept (s : State) (consumers : List (Nat × Nat × Nat)) : FabricKept (countTag s uciePort) (spoilAll s consumers) :=
  .foldl (fun _ _ => (spoilGrp_kept ..).trans (spoilEngine_written ..).fabricKept) _ _

theorem exec_ucie_first {s : State} (h : s.fab.uciBad = false) (replay : Bool) (consumers : List (Nat × Nat × Nat)) :
    exec (.ucieFlitReceive false replay consumers) s =
      .next { spoilAll s consumers with fab := { (spoilAll s consumers).fab with uciBad := true } } :=
  congrArg Host.Outcome.next (if_neg (ne_true_of_eq_false h))

theorem exec_ucie_second {s : State} (h : s.fab.uciBad = true) (replay : Bool) (consumers : List (Nat × Nat × Nat)) :
    exec (.ucieFlitReceive false replay consumers) s = .next (stopChip (spoilAll s consumers)) :=
  congrArg Host.Outcome.next (if_pos h)

theorem stopChip_power (s : State) : (stopChip s).power = .stopped := (raiseEvent_written ..).power

/-- The window of a load that used unverified data rolls back with every younger one, and the load is marked (R250). -/
theorem spoilGrp_marks {s : State} {g : Grp} {k start load : Nat} {w : Window} (hload : load ≠ 0) (hg : grpOf s g.uid = some g)
    (hk : g.wins[k]? = some w) (hstart : w.start = start)
    (hfirst : ∀ (j : Nat) (v : Window), j < k → g.wins[j]? = some v → v.start ≠ start) :
    ∃ h, grpOf (spoilGrp s g.uid start load) g.uid = some h ∧ h.integ = some (start, load) ∧ h.wins.map (·.buf) = (g.wins.take k).map (·.buf) := by
  obtain ⟨g', hfound, hbuf, -⟩ := (rollGrp_rolledBack hg hk).grpOf hg
  refine ⟨{ g' with integ := some (start, load) }, ?_, rfl, hbuf⟩
  have hlen : k < g.wins.length := (List.getElem?_eq_some_iff.1 hk).1
  unfold spoilGrp
  rw [hg]
  dsimp only
  rw [below_range]
  generalize hf : List.find? _ (List.range g.wins.length) = o
  have ho : o = some k := by
    rw [← hf, List.find?_range_eq_some]
    refine ⟨by simp [hk, hstart, hload], List.mem_range.2 hlen, fun j hj => ?_⟩
    have hjw := List.getElem?_eq_getElem (hj.trans hlen)
    rw [hjw]
    simp [hfirst j _ hj hjw]
  rw [ho]
  exact grpOf_modGrp hfound fun _ => rfl

/-- The group of a load that used unverified data, once the flit's failure has been dealt with (R250). -/
theorem ucieFlit_marks {s : State} {g : Grp} {k start load : Nat} {w : Window} (h : s.fab.uciBad = false) (hload : load ≠ 0) (hg : grpOf s g.uid = some g)
    (hk : g.wins[k]? = some w) (hstart : w.start = start)
    (hfirst : ∀ (j : Nat) (v : Window), j < k → g.wins[j]? = some v → v.start ≠ start) (replay : Bool) :
    ∃ t h, exec (.ucieFlitReceive false replay [(g.uid, start, load)]) s = .next t ∧ grpOf t g.uid = some h ∧ h.integ = some (start, load) ∧
      h.wins.map (·.buf) = (g.wins.take k).map (·.buf) := by
  obtain ⟨g1, hg1, hinteg, hbuf⟩ := spoilGrp_marks (s := countTag s uciePort) hload hg hk hstart hfirst
  obtain ⟨ws, hg2, hws⟩ := (spoilEngine_written _ g.uid).hits.grpOf hg1
  have hg3 : grpOf (spoilAll s [(g.uid, start, load)]) g.uid = some { g1 with wins := ws } := hg2
  have hexec := exec_ucie_first h replay [(g.uid, start, load)]
  generalize spoilAll s [(g.uid, start, load)] = u at hg3 hexec
  exact ⟨_, _, hexec, hg3, hinteg, hws.trans hbuf⟩

/-! The statement. -/

theorem linkEvents : LinkEvents := by
  refine ⟨fun s p => ⟨fun hp => exec_linkDown_none hp s, fun hp => ⟨_, exec_linkDown hp s, linkDown_leaves s p rfl⟩⟩, ?_, ?_, ?_⟩
  · rintro s x s1 hp rfl
    refine ⟨fun hu hl => ⟨_, exec_portTraining_locked hp hu hl, rfl, link_trained s x⟩,
      fun hu hl ha => ⟨_, exec_portTraining hp hu hl, trained_unsealed ha s rfl⟩,
      fun hu hl ha hi => ⟨_, exec_portTraining hp hu hl, trained_sealed ha hi rfl⟩, fun hs hl ha hi => ?_, exec_sealRekey_none⟩
    have hx := keyExchange_accepted (s := { s with outbox := s.outbox ++ [.keyExchange x.port] }) ha hi
    exact ⟨_, exec_sealRekey hp hs hl, (hx.link x.port).trans (if_pos rfl), hx.peer, hx.frame⟩
  · intro s f hp
    refine ⟨exec_flit_locked, fun hl hs hm ht hr => ?_, fun hl hs hm ht hr => ?_,
      fun hl hpass hbad => ⟨_, exec_flit_dropped hp hl hpass hbad, linkIs_countDrop s f.port⟩,
      fun hl hpass hres hdom => ⟨fun hst => ?_, fun hst hi => ?_, fun hst hi => ?_, fun hst hok hi => ?_⟩⟩
    case refine_1 =>
      refine ⟨_, modLink s f.port (satField 4 12), exec_flit_tagFails hp hl hs hm ht, linkIs_countTag s f.port, ?_⟩
      rw [hr]
      exact ⟨rfl, life_countTag s f.port⟩
    case refine_2 =>
      refine ⟨_, exec_flit_tagFails hp hl hs hm ht, ?_⟩
      rw [hr]
      obtain ⟨hlink, hdown⟩ := lockPort_locked (s := countTag s f.port) hp f.node
      exact ⟨hlink.trans (congrArg (· ||| 4) ((link_countTag ..).trans (if_pos rfl))), hdown⟩
    all_goals
      have hexec := exec_flit_passed hp hl hpass hres hdom
      rw [hst] at hexec
    · exact ⟨_, hexec, linkIs_countDrop { s with outbox := s.outbox ++ [.stomp f.txn] } f.port⟩
    · rw [incarnCheck_ok hi] at hexec
      exact hexec
    · rw [incarnCheck_stale hi] at hexec
      exact ⟨_, hexec, linkIs_countDrop s f.port⟩
    · exact ⟨_, hexec, incarnCheck_new_gone hok hi (some f.port)⟩
  · intro s replay consumers
    have hk := spoilAll_kept s consumers
    refine ⟨rfl, fun h => ⟨_, exec_ucie_first h replay consumers, rfl, (hk.link 34).trans ((link_countTag s 34 34).trans (if_pos rfl)), hk.power⟩,
      fun h => ⟨_, exec_ucie_second h replay consumers, stopChip_power _⟩, ?_⟩
    rintro g k start load w h rfl hload hg hfind hk hfirst
    exact ucieFlit_marks h hload hg hk (by simpa using List.find?_some hfind) hfirst replay

end Sys2Proof.Claims
end

section
/-! Requests to other nodes, guest lines, validations and epoch bumps (R217, R243, R248, R447 to R449). -/

namespace Sys2Proof.Claims

open Sys2Proof.Machine

/-! Requests and packets that have no answer (R448, R449). -/

section
variable {s : State} {r : Req} (h : (s.fab.reqs.find? fun x => x.tag = r.tag) = some r)
include h

theorem openOf_req : openOf s r.tag = some (.req r) := by
  unfold openOf
  rw [h]

theorem exec_accessAnswer_req (a : ApAns) : exec (.accessAnswer r.tag a) s = .next (answerReq s r a) := by
  change execAccessAnswer r.tag a s = _
  unfold execAccessAnswer
  rw [openOf_req h]

theorem exec_stompNotice_first (hs : r.stomped = false) : exec (.stompNotice r.tag) s = .next (resend s r.tag (.req r) true) := by
  change execStompNotice r.tag s = _
  unfold execStompNotice
  rw [openOf_req h]
  simp only [Open_.stomped, hs]
  rfl

/-- The second notice for a tag ends the request with PEERLOST detail 4, which its port counts where it has one (R448). -/
theorem exec_stompNotice_second (hs : r.stomped = true) : ∃ t, exec (.stompNotice r.tag) s = .next t ∧
    (∀ p, portOf s r.off = some p → t = countDrop (answerReq s r (.fault kPeerlost 4 0)) p) ∧
    (portOf s r.off = none → t = answerReq s r (.fault kPeerlost 4 0)) := by
  change ∃ t, execStompNotice r.tag s = _ ∧ _
  unfold execStompNotice
  rw [openOf_req h]
  simp only [Open_.stomped, hs]
  refine ⟨_, rfl, fun p hp => ?_, fun hp => ?_⟩ <;> simp only [Open_.off, hp] <;> rfl

theorem exec_requestRetryTimeout_req : exec (.requestRetryTimeout r.tag) s = .next (if r.retried then s else resend s r.tag (.req r) false) := by
  change execRequestRetryTimeout r.tag s = _
  unfold execRequestRetryTimeout
  rw [openOf_req h]
  rfl

theorem exec_peerlostTimeout_req : exec (.peerlostTimeout r.tag) s =
    .next (if r.retried then losePeer (answerReq s r (.fault kPeerlost 1 0)) r.node else s) := by
  change execPeerlostTimeout r.tag s = _
  unfold execPeerlostTimeout
  rw [openOf_req h]
  rfl

end

section
variable {s : State} {tag : BitVec 16} {x : Sent} (hreq : ∀ r ∈ s.fab.reqs, r.tag ≠ tag)
  (h : (s.fab.sent.find? fun y => y.packet.tag = tag) = some x)
include hreq h

theorem openOf_sent : openOf s tag = some (.sent x) := by
  have hnone : (s.fab.reqs.find? fun r => r.tag = tag) = none := List.find?_eq_none.2 fun r hr => by simpa using hreq r hr
  unfold openOf
  rw [hnone, h]
  rfl

theorem exec_accessAnswer_sent (a : ApAns) : exec (.accessAnswer tag a) s =
    .next { s with fab := { s.fab with sent := s.fab.sent.filter fun y => y.packet.tag ≠ tag } } := by
  change execAccessAnswer tag a s = _
  unfold execAccessAnswer
  rw [openOf_sent hreq h]
  simp [bne, beq_eq_decide]

theorem exec_stompNotice_sent (hs : x.stomped = false) : exec (.stompNotice tag) s = .next { s with
    outbox := s.outbox ++ [x.packet.out s x.home]
    fab := { s.fab with sent := s.fab.sent.map fun y => if y.packet.tag = tag then { y with stomped := true } else y } } := by
  change execStompNotice tag s = _
  unfold execStompNotice
  rw [openOf_sent hreq h]
  simp [Open_.stomped, hs, resend, updWhere]

theorem exec_requestRetryTimeout_sent (hr : x.retried = false) : exec (.requestRetryTimeout tag) s = .next { s with
    outbox := s.outbox ++ [x.packet.out s x.home]
    fab := { s.fab with sent := s.fab.sent.map fun y => if y.packet.tag = tag then { y with retried := true } else y } } := by
  change execRequestRetryTimeout tag s = _
  unfold execRequestRetryTimeout
  rw [openOf_sent hreq h]
  simp [Open_.retried, hr, resend, updWhere]

theorem exec_peerlostTimeout_sent (hr : x.retried = true) : exec (.peerlostTimeout tag) s =
    .next (losePeer { s with fab := { s.fab with sent := s.fab.sent.filter fun y => y.packet.tag != tag } } x.home) := by
  change execPeerlostTimeout tag s = _
  unfold execPeerlostTimeout
  rw [openOf_sent hreq h]
  simp only [Open_.retried, hr]
  rfl

end

/-- A request sent again: its mark is set, and no other request changes (R448, R449). -/
theorem resend_req_reqs (s : State) (r : Req) (stomp : Bool) : (resend s r.tag (.req r) stomp).fab.reqs =
    s.fab.reqs.map fun x => if x.tag = r.tag then (if stomp then { x with stomped := true } else { x with retried := true }) else x := by
  cases stomp <;> simp [resend, updWhere]

theorem link_answerReq (s : State) (r : Req) (a : ApAns) (k : Nat) : link (answerReq s r a) k = link s k := by
  obtain ⟨-, hframe, -⟩ := answerReq_answered s r a
  have hl := congrArg (fun x : State => x.fab.linkstat) hframe
  exact congrArg (aget 0 · k) hl

/-! Guest lines that are filled (R215, R248). -/

/-- Whether a request asks for the fill of a line. -/
def asksLine (node off : Nat) (r : Req) : Bool := r.node = node && r.off = off && isFill r.kind

/-- The guest line that a fill gives a context: with the authorities of its requests and of the line that it had. -/
def filledLine (s : State) (node off : Nat) (data : List Byte) (tags : List Bool) (v : Word) (pc : Nat) : GuestLine :=
  { node := node, pcid := pc, line := off, data := (data ++ List.replicate 128 0).take 128, tags := (tags ++ List.replicate 8 false).take 8, stamp := v,
    auths := (((s.fab.reqs.filter (asksLine node off)).filter fun r => r.pcid = pc).map (·.auth) ++
      (match guestAt s pc node off with | some x => x.auths | none => [])).eraseDups }

/-- The contexts that asked for a line. -/
def askers (s : State) (node off : Nat) : List Nat := ((s.fab.reqs.filter (asksLine node off)).map (·.pcid)).eraseDups

theorem exec_lineFill (s : State) (node line : Nat) (data : List Byte) (tags : List Bool) (v : Word) :
    exec (.lineFill node line data tags v) s = .next { s with fab := { s.fab with
      reqs := s.fab.reqs.filter fun r => !asksLine node (line / 128 * 128) r
      guest := (askers s node (line / 128 * 128)).map (filledLine s node (line / 128 * 128) data tags v) ++
        s.fab.guest.filter fun x => !(x.node = node && x.line = line / 128 * 128 && (askers s node (line / 128 * 128)).contains x.pcid) } } := rfl

theorem asksLine_iff {node off : Nat} {r : Req} : asksLine node off r = true ↔ r.node = node ∧ r.off = off ∧ isFill r.kind = true := by
  simp [asksLine, and_assoc]

theorem mem_askers {s : State} {node off pc : Nat} : pc ∈ askers s node off ↔
    ∃ r ∈ s.fab.reqs, r.node = node ∧ r.off = off ∧ isFill r.kind = true ∧ r.pcid = pc := by
  simp [askers, List.mem_eraseDups, asksLine_iff, and_assoc]

/-- The fields by which `guestAt` finds a line. -/
def isGuest (pc node off : Nat) (x : GuestLine) : Bool := x.node = node && x.pcid = pc && x.line = off / 128 * 128

theorem isGuest_iff {pc node off : Nat} {x : GuestLine} : isGuest pc node off x = true ↔ x.node = node ∧ x.pcid = pc ∧ x.line = off / 128 * 128 := by
  simp [isGuest, and_assoc]

section
variable {s t : State} {node line : Nat} {data : List Byte} {tags : List Bool} {v : Word}
  (hguest : t.fab.guest = (askers s node (line / 128 * 128)).map (filledLine s node (line / 128 * 128) data tags v) ++
    s.fab.guest.filter fun x => !(x.node = node && x.line = line / 128 * 128 && (askers s node (line / 128 * 128)).contains x.pcid))
include hguest

/-- A context that asked finds the line that the fill gives it. -/
theorem guestAt_filled {pc : Nat} (hpc : pc ∈ askers s node (line / 128 * 128)) :
    guestAt t pc node line = some (filledLine s node (line / 128 * 128) data tags v pc) := by
  have hq : (isGuest pc node line ∘ filledLine s node (line / 128 * 128) data tags v) = fun p => decide (p = pc) := by
    funext p
    simp [isGuest, filledLine]
  have hfind : (askers s node (line / 128 * 128)).find? (fun p => decide (p = pc)) = some pc := by
    obtain ⟨p, hp⟩ := Option.isSome_iff_exists.1 (List.find?_isSome (p := fun p => decide (p = pc)).2 ⟨pc, hpc, decide_eq_true rfl⟩)
    have he : p = pc := by simpa using List.find?_some hp
    rw [hp, he]
  change t.fab.guest.find? (isGuest pc node line) = _
  rw [hguest, List.find?_append, List.find?_map, hq, hfind]
  rfl

/-- Every other context and line is found as before. -/
theorem guestAt_unfilled {pc n o : Nat} (hno : ¬ (pc ∈ askers s node (line / 128 * 128) ∧ n = node ∧ o / 128 = line / 128)) :
    guestAt t pc n o = guestAt s pc n o := by
  have hfilled : ((askers s node (line / 128 * 128)).map (filledLine s node (line / 128 * 128) data tags v)).find? (isGuest pc n o) = none := by
    refine List.find?_eq_none.2 fun x hx hg => ?_
    obtain ⟨p, hp, rfl⟩ := List.mem_map.1 hx
    obtain ⟨hn, hpc, ho⟩ := isGuest_iff.1 hg
    have ho : line / 128 * 128 = o / 128 * 128 := ho
    exact hno ⟨hpc ▸ hp, hn.symm, by omega⟩
  change t.fab.guest.find? (isGuest pc n o) = s.fab.guest.find? (isGuest pc n o)
  rw [hguest, List.find?_append, hfilled, Option.none_or, List.find?_filter]
  refine List.find?_congr fun x _ => ?_
  cases hg : isGuest pc n o x with
  | false => simp
  | true =>
    obtain ⟨hn, hpc, ho⟩ := isGuest_iff.1 hg
    have hkeep : (decide (x.node = node) && decide (x.line = line / 128 * 128) && (askers s node (line / 128 * 128)).contains x.pcid) = false := by
      rw [← Bool.not_eq_true, Bool.and_eq_true, Bool.and_eq_true, decide_eq_true_eq, decide_eq_true_eq, List.contains_iff_mem]
      rintro ⟨⟨hn', ho'⟩, hmem⟩
      exact hno ⟨hpc ▸ hmem, hn ▸ hn', by omega⟩
    rw [hkeep]
    rfl

end

/-! Validations (R248, R249). -/

/-- The guest lines of a sub-page that a version shows changed are gone. -/
def dropChanged (s : State) (node sub : Nat) (v : Word) : State :=
  { s with fab := { s.fab with guest := s.fab.guest.filter fun x => !(x.node = node && x.line / 4096 = sub && x.stamp != v) } }

theorem mem_dropChanged {s : State} {node sub : Nat} {v : Word} {y : GuestLine} : y ∈ (dropChanged s node sub v).fab.guest ↔
    y ∈ s.fab.guest ∧ ¬ (y.node = node ∧ y.line / 4096 = sub ∧ y.stamp ≠ v) := by
  have hc : (decide (y.node = node) && decide (y.line / 4096 = sub) && y.stamp != v) = true ↔ y.node = node ∧ y.line / 4096 = sub ∧ y.stamp ≠ v := by
    simp [and_assoc]
  rw [dropChanged, List.mem_filter, Bool.not_eq_true', ← Bool.not_eq_true, hc]

/-- The window at position k has the sub-page validated. -/
def validated (g : Grp) (k node sub : Nat) : Grp := { g with wins := g.wins.modify k fun w => { w with valid := (node, sub) :: w.valid } }

theorem getElem?_validated {g : Grp} {k node sub i : Nat} {y : Window} (h : g.wins[i]? = some y) :
    (validated g k node sub).wins[i]? = some (if i = k then { y with valid := (node, sub) :: y.valid } else y) := by
  rw [validated, List.getElem?_modify, h]
  simp only [Option.map_eq_map, Option.map_some, eq_comm]

/-- A validation that no window waits for gives its hold back. -/
theorem exec_validationReply_late {s : State} {node sub : Nat} (h : ∀ g ∈ s.grps, awaiting g node sub = none) (v : Word) :
    exec (.validationReply node sub v) s = .next { dropChanged s node sub v with outbox := s.outbox ++ [.release node sub] } := by
  have hnone : (s.grps.find? fun g => (awaiting g node sub).isSome) = none := List.find?_eq_none.2 fun g hg => by simp [h g hg]
  change execValidationReply node sub v s = _
  unfold execValidationReply
  dsimp only
  rw [hnone]
  rfl

theorem versionsHold_iff {w : Window} {node sub : Nat} {v : Word} :
    ((w.remote.filter fun r => r.node = node && r.sub = sub).all fun r => r.stamp = v) = true ↔
      ∀ r ∈ w.remote, r.node = node → r.sub = sub → r.stamp = v := by
  simp only [List.all_eq_true, List.mem_filter, Bool.and_eq_true, decide_eq_true_eq, and_imp]

section
variable {s : State} {node sub k : Nat} {g : Grp} {w : Window} (hfind : (s.grps.find? fun h => (awaiting h node sub).isSome) = some g)
  (hk : awaiting g node sub = some k) (hw : g.wins[k]? = some w)
include hfind hk hw

/-- A validation that a window waits for: the window rolls back unless every version that it read holds. -/
theorem exec_validationReply_awaited (v : Word) : exec (.validationReply node sub v) s = .next (
    if (w.remote.filter fun r => r.node = node && r.sub = sub).all fun r => r.stamp = v
      then setGrp (dropChanged s node sub v) (validated g k node sub)
      else rollGrp (setGrp (dropChanged s node sub v) (validated g k node sub)) g.uid k) := by
  change execValidationReply node sub v s = _
  unfold execValidationReply
  dsimp only
  rw [hfind]
  dsimp only
  rw [hk]
  dsimp only
  rw [hw]
  rfl

theorem validationReply_holds {v : Word} (h : ∀ r ∈ w.remote, r.node = node → r.sub = sub → r.stamp = v) :
    exec (.validationReply node sub v) s = .next (setGrp (dropChanged s node sub v) (validated g k node sub)) := by
  rw [exec_validationReply_awaited hfind hk hw, if_pos (versionsHold_iff.2 h)]

theorem validationReply_changed {v : Word} (h : ∃ r ∈ w.remote, r.node = node ∧ r.sub = sub ∧ r.stamp ≠ v) (hg : grpOf s g.uid = some g) :
    ∃ t, exec (.validationReply node sub v) s = .next t ∧
      RolledBack (setGrp (dropChanged s node sub v) (validated g k node sub)) t (validated g k node sub) k { w with valid := (node, sub) :: w.valid } ∧
      grpOf (setGrp (dropChanged s node sub v) (validated g k node sub)) g.uid = some (validated g k node sub) := by
  have hg1 : grpOf (setGrp (dropChanged s node sub v) (validated g k node sub)) g.uid = some (validated g k node sub) :=
    grpOf_setGrp (g := g) (g' := validated g k node sub) hg
  have hw1 := getElem?_validated (k := k) (node := node) (sub := sub) hw
  rw [if_pos rfl] at hw1
  refine ⟨_, ?_, rollGrp_rolledBack hg1 hw1, hg1⟩
  obtain ⟨r, hr, hn, hs, hne⟩ := h
  rw [exec_validationReply_awaited hfind hk hw, if_neg fun hc => hne (versionsHold_iff.1 hc r hr hn hs)]

end

/-! Epoch bumps (R248). -/

/-- The state of an epoch bump before any window rolls back. -/
def bumped (s : State) (node sub : Nat) : State :=
  { s with
    outbox := s.outbox ++ [.bumpAck node sub]
    grps := s.grps.map fun g => { g with wins := g.wins.map fun w => if w.remote.any (fun r => r.node = node && r.sub = sub) then { w with hit := true } else w }
    fab := { s.fab with
      guest := s.fab.guest.filter fun x => !(x.node = node && x.line / 4096 = sub)
      reqs := s.fab.reqs.filter fun r => !(r.node = node && r.off / 4096 = sub && isFill r.kind) } }

theorem exec_epochBump (node sub : Nat) (s : State) : exec (.epochBump node sub) s = .next (rollAll (bumped s node sub)) := rfl

/-- Windows that read nothing of the sub-page stay. -/
theorem bumped_grps {s : State} {node sub : Nat} (h : ∀ g ∈ s.grps, ∀ w ∈ g.wins, ∀ r ∈ w.remote, ¬ (r.node = node ∧ r.sub = sub)) :
    (bumped s node sub).grps = s.grps := by
  refine List.map_congr_left (g := id) (fun g hg => ?_) |>.trans (List.map_id _)
  have hw : g.wins.map (fun w => if w.remote.any (fun r => r.node = node && r.sub = sub) then { w with hit := true } else w) = g.wins := by
    refine (List.map_congr_left (g := id) fun w hw => if_neg ?_).trans (List.map_id _)
    simpa using h g hg w hw
  rw [hw]
  rfl

/-! The statement, part by part. -/

theorem requestPart {s : State} {r : Req} (h : (s.fab.reqs.find? fun x => x.tag = r.tag) = some r) :
    (∀ a, ∃ t, exec (.accessAnswer r.tag a) s = .next t ∧ Answered s t r a) ∧
    (r.stomped = false → ∃ t, exec (.stompNotice r.tag) s = .next t ∧ t.outbox = s.outbox ++ [.request r (reqHeader r)] ∧
      { t with outbox := s.outbox, fab := { t.fab with reqs := s.fab.reqs } } = s ∧
      t.fab.reqs = s.fab.reqs.map fun x => if x.tag = r.tag then { x with stomped := true } else x) ∧
    (r.stomped = true → ∃ s1 t, exec (.stompNotice r.tag) s = .next t ∧ Answered s s1 r (.fault 7 4 0) ∧
      (∀ p, portOf s r.off = some p → LinkIs s1 t p (dropped (link s p))) ∧ (portOf s r.off = none → t = s1)) ∧
    (r.retried = false → ∃ t, exec (.requestRetryTimeout r.tag) s = .next t ∧ t.outbox = s.outbox ++ [.request r (reqHeader r)] ∧
      { t with outbox := s.outbox, fab := { t.fab with reqs := s.fab.reqs } } = s ∧
      t.fab.reqs = s.fab.reqs.map fun x => if x.tag = r.tag then { x with retried := true } else x) ∧
    (r.retried = true → exec (.requestRetryTimeout r.tag) s = .next s) ∧
    (r.retried = true → ∃ s1 t, exec (.peerlostTimeout r.tag) s = .next t ∧ Answered s s1 r (.fault 7 1 0) ∧ PeerGone s1 t r.node) ∧
    (r.retried = false → exec (.peerlostTimeout r.tag) s = .next s) := by
  have hretry := exec_requestRetryTimeout_req h
  have hlost := exec_peerlostTimeout_req h
  refine ⟨fun a => ⟨_, exec_accessAnswer_req h a, answerReq_answered s r a⟩,
    fun hs => ⟨_, exec_stompNotice_first h hs, rfl, rfl, resend_req_reqs s r true⟩, fun hs => ?_, fun hr => ?_, fun hr => ?_, fun hr => ?_, fun hr => ?_⟩
  · obtain ⟨t, hexec, hport, hnone⟩ := exec_stompNotice_second h hs
    refine ⟨_, t, hexec, answerReq_answered s r (.fault kPeerlost 4 0), fun p hp => ?_, hnone⟩
    rw [hport p hp, ← link_answerReq s r (.fault kPeerlost 4 0) p]
    exact linkIs_countDrop _ p
  all_goals rw [hr] at hretry hlost
  · exact ⟨_, hretry, rfl, rfl, resend_req_reqs s r false⟩
  · exact hretry
  · exact ⟨_, _, hlost, answerReq_answered s r (.fault kPeerlost 1 0), losePeer_gone _ _⟩
  · exact hlost

theorem requestEvents : RequestEvents := by
  refine ⟨fun s r h => requestPart h, fun s x tag hreq h => ⟨exec_accessAnswer_sent hreq h, exec_stompNotice_sent hreq h,
    exec_requestRetryTimeout_sent hreq h, fun hr => ⟨_, exec_peerlostTimeout_sent hreq h hr, losePeer_gone _ _⟩⟩,
    fun s node => ⟨_, rfl, losePeer_gone s node⟩, ?_, ?_, ?_, ?_⟩
  · intro s node line data tags v hdata htags
    refine ⟨_, exec_lineFill s node line data tags v, rfl, fun r => ?_, fun r hr hn ho hf => ?_, fun pc n o hno => guestAt_unfilled rfl ?_⟩
    · rw [← asksLine_iff, Bool.not_eq_true, ← Bool.not_eq_true']
      exact List.mem_filter
    · refine ⟨_, guestAt_filled rfl (mem_askers.2 ⟨r, hr, hn, ho, hf, rfl⟩), List.take_left' hdata, List.take_left' htags, rfl, ?_⟩
      exact List.mem_eraseDups.2 (List.mem_append_left _ (List.mem_map_of_mem
        (List.mem_filter.2 ⟨List.mem_filter.2 ⟨hr, asksLine_iff.2 ⟨hn, ho, hf⟩⟩, decide_eq_true rfl⟩)))
    · rintro ⟨hpc, hn, ho⟩
      obtain ⟨r, hr, hrn, hro, hf, rfl⟩ := mem_askers.1 hpc
      exact hno r hr hrn hro hf ⟨rfl, hn, ho⟩
  · intro s node sub k v g w hfind hk hw hg
    refine ⟨fun h => ⟨_, validated g k node sub, validationReply_holds hfind hk hw h, rfl, ?_, fun y => mem_dropChanged, rfl, fun i y => getElem?_validated⟩, fun h => ?_⟩
    · simp [updWhere, dropChanged, validated]
    · obtain ⟨t, hexec, hback, hg1⟩ := validationReply_changed hfind hk hw h hg
      obtain ⟨g', hfound, hbuf, hsnap⟩ := hback.grpOf hg1
      have hmem : { w with valid := (node, sub) :: w.valid } ∈ (validated g k node sub).wins.drop k :=
        List.mem_of_getElem? (i := 0) (by rw [List.getElem?_drop, Nat.add_zero, getElem?_validated hw, if_pos rfl])
      refine ⟨t, g', hexec, hfound, ?_, hsnap, hback.released _ hmem (node, sub) List.mem_cons_self, fun y hy hn hs => ?_⟩
      · rw [hbuf, validated, List.take_modify, List.modify_eq_self (List.length_take_le k _)]
      · rw [hback.kept.guest] at hy
        by_contra hv
        exact (mem_dropChanged.1 hy).2 ⟨hn, hs, hv⟩
  · intro s node sub v h
    exact ⟨_, exec_validationReply_late h v, rfl, rfl, fun y => mem_dropChanged⟩
  · intro s node sub
    have hk := rollAll_kept (bumped s node sub)
    refine ⟨_, exec_epochBump node sub s, fun y hy => ?_, fun r hr => ?_, hk.outbox (List.mem_append_right _ List.mem_cons_self), fun h => ?_⟩
    · rw [hk.guest] at hy
      rintro ⟨hn, hs⟩
      simpa [hn, hs] using (List.mem_filter.1 hy).2
    · rw [hk.reqs] at hr
      rintro ⟨hn, hs, hf⟩
      simpa [hn, hs, hf] using (List.mem_filter.1 hr).2
    · have hgrps : (bumped s node sub).grps = s.grps := bumped_grps fun g hg w hw => (h g hg w hw).2
      rw [rollAll_eq_self fun g hg w hw => (h g (hgrps ▸ hg) w hw).1]
      exact ⟨hgrps, rfl⟩

/-- Settles O49: the links with their flits, and the requests to other nodes with their answers, retries and losses. -/
theorem linkAndRequestEvents : Obligations.LinkAndRequestEvents := ⟨linkEvents, requestEvents⟩

end Sys2Proof.Claims
end
